-- ==== Sys2Proof/Word.lean ====
section
/-! DEFINITION. The words of the machine: bytes, 32-bit words and 64-bit addresses (spec/00_scope.md R7). -/

namespace Sys2Proof

/-- One byte (R7). -/
abbrev Byte := BitVec 8

/-- One 32-bit word: a scalar, a vector lane, an instruction word (R55, R85). -/
abbrev Word := BitVec 32

/-- One 64-bit address register or virtual PC (R54, R55). -/
abbrev Addr := BitVec 64

end Sys2Proof
end

