-- ==== Sys2Proof/Syntax.lean ====
section
/-! DEFINITION. The instructions of Itlar level 2.0 and the steps inside the part: one constructor per row of
spec/opcode_table.json (spec/04_encoding.md R85-R102, spec/95_what_each_step_holds.md). Register numbers and
immediates are plain numbers, the raw field as the word holds it; code fields are names. -/

namespace Sys2Proof

/-- Ordering scopes, codes 0-5 of R92. -/
inductive Scope where
  | cl | core | bench | die | dev | sys
deriving DecidableEq, Repr, Inhabited

/-- Vector element types, the tp codes 00-11 of R97. -/
inductive VType where
  | f32 | bf16 | f16 | i32
deriving DecidableEq, Repr, Inhabited

/-- Compare conditions, the cond codes of R98. -/
inductive Cond where
  | eq | ne | lt | le
deriving DecidableEq, Repr, Inhabited

/-- VCVT destinations, m2 codes 0-7 of R99. -/
inductive CvtDst where
  | f32 | bf16 | f16 | i32 | e4m3 | e5m2 | i8 | e2m1
deriving DecidableEq, Repr, Inhabited

/-- Block formats, m1 codes 0-3 of R99. -/
inductive Blk where
  | mx | x | e4 | e5
deriving DecidableEq, Repr, Inhabited

/-- VRED and VSCAN operations, m1 codes 0-2 of R99. -/
inductive RedOp where
  | add | max | min
deriving DecidableEq, Repr, Inhabited

/-- Tile formats, TCFG types 0-5 of R100 and R210. -/
inductive TileFmt where
  | bf16 | f16 | e4m3 | e5m2 | mx | x
deriving DecidableEq, Repr, Inhabited

/-- Weight-slot modes, codes 0-4 of R100 and R218. -/
inductive WMode where
  | dense | s24 | s48 | mx | x
deriving DecidableEq, Repr, Inhabited

/-- CEMIT destinations, codes 0-4 of R100 and R224. -/
inductive EmitDst where
  | f32 | bf16 | f16 | e4m3 | e5m2
deriving DecidableEq, Repr, Inhabited

/-- Value-word operations of BARV, opt codes 0-4 of R343. -/
inductive BarOp where
  | none | add | maxu | fmax | set
deriving DecidableEq, Repr, Inhabited

/-- The system registers of R138. -/
inductive SysReg where
  | verid | patchh | kctl | ctxid | coreid | oppt
  | xcause | xinfo | xvpc | xaddrl | xaddrh | xcutp | xframe | xvec
  | rotb | lstat | trctl
deriving DecidableEq, Repr, Inhabited

/-- Every row of the opcode table. A field named as a register holds its number (R87); `pg` and `pn` are the guard
of R59; `ch`, `mu` and `sp` are the fields of R93. The Y bit and the ignored bits of a word are no part of its
instruction (R86, R107). -/
inductive Instr where
  -- Shared control instructions (05_isa_shared.md)
  | nop
  | add (d a b : Nat)
  | sub (d a b : Nat)
  | and (d a b : Nat)
  | or (d a b : Nat)
  | xor (d a b : Nat)
  | andn (d a b : Nat)
  | shl (d a b : Nat)
  | shr (d a b : Nat)
  | sar (d a b : Nat)
  | rol (d a b : Nat)
  | min (d a b : Nat)
  | max (d a b : Nat)
  | minu (d a b : Nat)
  | maxu (d a b : Nat)
  | seq (d a b : Nat)
  | slt (d a b : Nat)
  | sltu (d a b : Nat)
  | clz (d a : Nat)
  | popc (d a : Nat)
  | sel (d a b : Nat)
  | mul (d a b : Nat)
  | mulh (d a b : Nat)
  | mulhu (d a b : Nat)
  | div (d a b : Nat)
  | divu (d a b : Nat)
  | rem (d a b : Nat)
  | remu (d a b : Nat)
  | addi (d a imm : Nat)
  | andi (d a imm : Nat)
  | ori (d a imm : Nat)
  | xori (d a imm : Nat)
  | shli (d a imm : Nat)
  | shri (d a imm : Nat)
  | sari (d a imm : Nat)
  | slti (d a imm : Nat)
  | sltiu (d a imm : Nat)
  | lui (d imm : Nat)
  | aget (d a : Nat) (hi : Bool)
  | aadd (ad aa sb sh : Nat)
  | aaddi (ad aa imm : Nat)
  | aset (ad aa sb : Nat)
  | alui (ad aa imm : Nat)
  | asub (ad aa sb sh : Nat)
  | beq (a b off : Nat)
  | bne (a b off : Nat)
  | blt (a b off : Nat)
  | bge (a b off : Nat)
  | bltu (a b off : Nat)
  | bgeu (a b off : Nat)
  | jmp (off : Nat)
  | call (off : Nat)
  | jr (a imm : Nat)
  | loop (lvl src len : Nat) (rot : Bool)
  | loopImm (lvl n len : Nat) (rot : Bool)
  | loopq (lvl q len : Nat) (rot : Bool)
  | lbrk (lvl a : Nat)
  | lrot (imm : Nat)
  | bqpush (tgt a : Nat)
  | bqbr (off : Nat)
  | qput (q a : Nat)
  | qget (d q : Nat)
  | qdrop (q : Nat)
  | qmark (q : Nat)
  | qstat (d q item : Nat)
  | hsig (h : Nat)
  | hwait (h : Nat)
  | htry (d h : Nat)
  | sread (d : Nat) (r : SysReg)
  | swrite (a : Nat) (r : SysReg)
  | fence (sc : Scope) (l s c : Bool)
  | tick (d : Nat) (hi : Bool)
  | trap (imm : Nat)
  | brk (imm : Nat)
  -- Access cluster instructions (06_isa_access.md)
  | ld (t a off ch : Nat) (mu sp : Bool)
  | lds (t a off ch : Nat) (mu sp : Bool)
  | lda (t a off ch : Nat) (mu sp : Bool)
  | ldx (t a off ch : Nat) (mu sp : Bool)
  | st (t a off ch : Nat) (mu sp : Bool)
  | stl (t a off ch : Nat) (mu sp : Bool)
  | ldq (t a off ch : Nat) (mu sp : Bool)
  | ldqs (t a off ch : Nat) (mu sp : Bool)
  | stq (t a off ch : Nat) (mu sp : Bool)
  | ldt (t a off ch : Nat) (mu sp : Bool)
  | stt (t a off ch : Nat) (mu sp : Bool)
  | ldg (tok ad src n ab : Nat) (sd ss : Bool)
  | sts (tok ad src n ab : Nat) (sd ss : Bool)
  | atadd (d a b : Nat) (sc : Scope) (mu sp : Bool)
  | atmin (d a b : Nat) (sc : Scope) (mu sp : Bool)
  | atmax (d a b : Nat) (sc : Scope) (mu sp : Bool)
  | atminu (d a b : Nat) (sc : Scope) (mu sp : Bool)
  | atmaxu (d a b : Nat) (sc : Scope) (mu sp : Bool)
  | atand (d a b : Nat) (sc : Scope) (mu sp : Bool)
  | ator (d a b : Nat) (sc : Scope) (mu sp : Bool)
  | atxor (d a b : Nat) (sc : Scope) (mu sp : Bool)
  | atswp (d a b : Nat) (sc : Scope) (mu sp : Bool)
  | atcas (d a b : Nat) (sc : Scope) (mu sp : Bool)
  | atfadd (d a b : Nat) (sc : Scope) (mu sp : Bool)
  | cpy (tok ad src n ab : Nat) (sd ss : Bool)
  | cpyt (tok ad src n ab : Nat) (sd ss : Bool)
  | cpyd (tok ad src n ab : Nat) (sd ss : Bool)
  | wmcpy (tok ad src n ab : Nat) (sd ss : Bool)
  | wmld (t a off ch : Nat) (mu sp : Bool)
  | wmadv (d a axis : Nat)
  | enq (tok ad src ab : Nat) (sd ss : Bool)
  | pref (a off ch : Nat) (mu sp : Bool)
  | clean (a off ch : Nat) (mu sp : Bool)
  | inval (a off ch : Nat) (mu sp : Bool)
  | chk (a off : Nat)
  -- Vector cluster instructions (07_isa_vector.md)
  | vpop (vd q pg : Nat) (pn : Bool)
  | vpsh (q va pg : Nat) (pn : Bool)
  | vmov (vd va pg : Nat) (pn : Bool)
  | vbcst (vd sa pg : Nat) (pn : Bool)
  | vidx (vd pg : Nat) (pn : Bool)
  | vlane (sd va sb : Nat)
  | vadd (vd va vb pg : Nat) (pn : Bool) (tp : VType)
  | vsub (vd va vb pg : Nat) (pn : Bool) (tp : VType)
  | vmul (vd va vb pg : Nat) (pn : Bool) (tp : VType)
  | vfma (vd va vb pg : Nat) (pn : Bool) (tp : VType)
  | vfms (vd va vb pg : Nat) (pn : Bool) (tp : VType)
  | vfnma (vd va vb pg : Nat) (pn : Bool) (tp : VType)
  | vmin (vd va vb pg : Nat) (pn : Bool) (tp : VType)
  | vmax (vd va vb pg : Nat) (pn : Bool) (tp : VType)
  | vabs (vd va pg : Nat) (pn : Bool) (tp : VType)
  | vneg (vd va pg : Nat) (pn : Bool) (tp : VType)
  | vrcp (vd va pg : Nat) (pn : Bool) (tp : VType)
  | vrsq (vd va pg : Nat) (pn : Bool) (tp : VType)
  | vsqrt (vd va pg : Nat) (pn : Bool) (tp : VType)
  | vex2 (vd va pg : Nat) (pn : Bool) (tp : VType)
  | vlg2 (vd va pg : Nat) (pn : Bool) (tp : VType)
  | vtanh (vd va pg : Nat) (pn : Bool) (tp : VType)
  | vflr (vd va pg : Nat) (pn : Bool) (tp : VType)
  | vceil (vd va pg : Nat) (pn : Bool) (tp : VType)
  | vdiv (vd va vb pg : Nat) (pn : Bool) (tp : VType)
  | vand (vd va vb pg : Nat) (pn : Bool)
  | vor (vd va vb pg : Nat) (pn : Bool)
  | vxor (vd va vb pg : Nat) (pn : Bool)
  | vshl (vd va vb pg : Nat) (pn : Bool)
  | vshr (vd va vb pg : Nat) (pn : Bool)
  | vsar (vd va vb pg : Nat) (pn : Bool)
  | vcmp (pd va vb pg : Nat) (pn : Bool) (cond : Cond) (tp : VType)
  | vsel (vd va vb pg : Nat) (pn : Bool)
  | vcommit (vd va pg : Nat) (pn : Bool)
  | vchk (pd va pg : Nat) (pn : Bool)
  | pand (pd pa pb : Nat)
  | por (pd pa pb : Nat)
  | pxor (pd pa pb : Nat)
  | pandn (pd pa pb : Nat)
  | pnot (pd pa : Nat)
  | pmov (pd pa : Nat)
  | pcnt (sd pa : Nat)
  | vcvt (vd va rm pg : Nat) (pn : Bool) (dst : CvtDst) (tp : VType)
  | vqnt (vd va rm pg : Nat) (pn : Bool) (blk : Blk) (tp : VType)
  | vdqnt (vd va pg : Nat) (pn : Bool) (blk : Blk) (tp : VType)
  | vred (vd va pg : Nat) (pn : Bool) (op : RedOp) (tp : VType)
  | vscan (vd va pg : Nat) (pn : Bool) (op : RedOp) (tp : VType)
  | vperm (vd va vb pg : Nat) (pn : Bool)
  | vrot (vd va sb pg : Nat) (pn : Bool)
  | vrng (vd sa sb pg : Nat) (pn raw : Bool)
  -- Matrix cluster instructions (08_isa_matrix.md)
  | tcfg (td rows1 : Nat) (ty : TileFmt)
  | tpop (td q : Nat)
  | tpsh (q ta : Nat)
  | tzero (td : Nat)
  | wld (wd q : Nat)
  | wcfg (wd fi : Nat) (mode : WMode)
  | mma (cd ta wb lvl fi : Nat) (fl : Bool)
  | mmat (cd ta wb lvl fi : Nat) (fl : Bool)
  | cemit (ca q rm : Nat) (dst : EmitDst) (z : Bool)
  | cpsh (ca q : Nat)
  | cpop (cd q : Nat)
  | cscl (cd sa : Nat)
  | ftset (fi sa : Nat)
  | ftget (sd fi : Nat)
  | tmark (imm : Nat)
  | tbudg (sd : Nat)
  | tstat (sd ta item : Nat)
  -- Control cluster instructions (09_isa_control.md)
  | ssig (a b : Nat) (sc : Scope) (sp : Bool)
  | swait (a : Nat) (sc : Scope) (sp : Bool)
  | stry (d a : Nat) (sc : Scope) (sp : Bool)
  | binit (a b : Nat) (sp : Bool)
  | barv (a b : Nat) (op : BarOp) (sc : Scope) (sp : Bool)
  | bexp (a b : Nat) (sp : Bool)
  | bwait (a : Nat) (sc : Scope) (sp : Bool)
  | btest (d a : Nat) (sp : Bool)
  | acq (a : Nat) (sc : Scope) (sp : Bool)
  | rel (a : Nat) (sc : Scope) (sp : Bool)
  | publ (a : Nat)
  | shopen (d a : Nat)
  | remq (a b : Nat)
  | remqt (d a b : Nat)
  | wpop (d a b : Nat)
  | wpush (a b : Nat)
  | wsteal (d a b : Nat)
  | coll (d a : Nat) (st : Bool)
  | upd (d a : Nat)
  | msrch (d a : Nat)
  | gfork (d a : Nat)
  | grewd (d a b : Nat)
  | gbar (d a : Nat)
  | gcanc (a b : Nat)
  | gqry (d a item : Nat)
  | gyld (a : Nat)
  | vqry (d b : Nat)
  | ecnt (d b : Nat)
  | tend
  | step (d : Nat)
  | tret
  | tack
  | sysc (imm : Nat)
  | halt
  | sleep (d : Nat)
  -- Steps inside the part and commands of hosts, contexts and engines (95_what_each_step_holds.md)
  | closingBranch
  | scoreboardedResult
  | queueLoadLands
  | mmaCompletion
  | engineCompletion
  | collectiveCompletion
  | updCompletion
  | msrchCompletion
  | trapTaken
  | qdead
  | windowReplay
  | timingTrip
  | tileDispatch
  | nodeLaunch
  | waiterReserving
  | nodeBoundaryPreemption
  | stepBoundary
  | stepMirrorComplete
  | pontilCommit
  | pontilFailure
  | deviceLost
  | gangStart
  | groupDeadlineExpiry
  | groupResume
  | pageWalk
  | translationBuildEnd
  | translationEviction
  | substitutionInstall
  | epochStart
  | budgetInterval
  | operatingPointStep
  | rowFailure
  | vaultEvacuation
  | tokenGrant
  | clockProposal
  | flitReceived
  | messageReceived
  | messageUndeliverable
  | laneLoss
  | lanesTrained
  | trainingTimeout
  | firmwareRetry
  | hostBridgeAccess
  | boot
  | registerWrite
  | evClear
  | cplack
  | heldGo
  | engineCpy
  | engineCpyt
  | engineCpyd
  | engineWmcpy
  | engineLdg
  | engineSts
  | dieColl
  | dieCollSt
  | dieUpd
  | dieMsrch
  | contextNop
  | nrun
  | grun
  | gset
  | hostNop
  | cdefine
  | cload
  | chot
  | cpark
  | cmigrate
  | csuspend
  | cresume
  | cretire
  | crestore
  | cquery
  | olink
  | subload
  | opset
  | pbudget
  | pgrant
  | mread
  | keyset
  | keyclr
  | shoot
  | attest
  | cfgload
  | portctl
  | sleepExpiry
  | syscReply
  | trapStub
  | xlateStub
  | loopIllegalKind
  | softError
  | endToEndResend
  | pcSample
deriving DecidableEq, Repr, Inhabited

end Sys2Proof
end

