-- ==== Sys2Proof/WellFormed.lean ====
section
/-! DEFINITION. Which instructions have a word: every field within the range that spec/04_encoding.md gives it
(R87-R100, R102, R105). The steps that have no encoding are not well-formed words. -/

namespace Sys2Proof

/-- The stream sections in which an instruction may stand (R82, R86): any cluster's for the shared half, otherwise
its own cluster's; the steps without an encoding stand in none. -/
def Instr.cluster (i : Instr) : Option (Option Nat) :=
  match i with
  | .nop => some none
  | .add _ _ _ => some none
  | .sub _ _ _ => some none
  | .and _ _ _ => some none
  | .or _ _ _ => some none
  | .xor _ _ _ => some none
  | .andn _ _ _ => some none
  | .shl _ _ _ => some none
  | .shr _ _ _ => some none
  | .sar _ _ _ => some none
  | .rol _ _ _ => some none
  | .min _ _ _ => some none
  | .max _ _ _ => some none
  | .minu _ _ _ => some none
  | .maxu _ _ _ => some none
  | .seq _ _ _ => some none
  | .slt _ _ _ => some none
  | .sltu _ _ _ => some none
  | .clz _ _ => some none
  | .popc _ _ => some none
  | .sel _ _ _ => some none
  | .mul _ _ _ => some none
  | .mulh _ _ _ => some none
  | .mulhu _ _ _ => some none
  | .div _ _ _ => some none
  | .divu _ _ _ => some none
  | .rem _ _ _ => some none
  | .remu _ _ _ => some none
  | .addi _ _ _ => some none
  | .andi _ _ _ => some none
  | .ori _ _ _ => some none
  | .xori _ _ _ => some none
  | .shli _ _ _ => some none
  | .shri _ _ _ => some none
  | .sari _ _ _ => some none
  | .slti _ _ _ => some none
  | .sltiu _ _ _ => some none
  | .lui _ _ => some none
  | .aget _ _ _ => some none
  | .aadd _ _ _ _ => some none
  | .aaddi _ _ _ => some none
  | .aset _ _ _ => some none
  | .alui _ _ _ => some none
  | .asub _ _ _ _ => some none
  | .beq _ _ _ => some none
  | .bne _ _ _ => some none
  | .blt _ _ _ => some none
  | .bge _ _ _ => some none
  | .bltu _ _ _ => some none
  | .bgeu _ _ _ => some none
  | .jmp _ => some none
  | .call _ => some none
  | .jr _ _ => some none
  | .loop _ _ _ _ => some none
  | .loopImm _ _ _ _ => some none
  | .loopq _ _ _ _ => some none
  | .lbrk _ _ => some none
  | .lrot _ => some none
  | .bqpush _ _ => some none
  | .bqbr _ => some none
  | .qput _ _ => some none
  | .qget _ _ => some none
  | .qdrop _ => some none
  | .qmark _ => some none
  | .qstat _ _ _ => some none
  | .hsig _ => some none
  | .hwait _ => some none
  | .htry _ _ => some none
  | .sread _ _ => some none
  | .swrite _ _ => some none
  | .fence _ _ _ _ => some none
  | .tick _ _ => some none
  | .trap _ => some none
  | .brk _ => some none
  | .ld _ _ _ _ _ _ => some (some 0)
  | .lds _ _ _ _ _ _ => some (some 0)
  | .lda _ _ _ _ _ _ => some (some 0)
  | .ldx _ _ _ _ _ _ => some (some 0)
  | .st _ _ _ _ _ _ => some (some 0)
  | .stl _ _ _ _ _ _ => some (some 0)
  | .ldq _ _ _ _ _ _ => some (some 0)
  | .ldqs _ _ _ _ _ _ => some (some 0)
  | .stq _ _ _ _ _ _ => some (some 0)
  | .ldt _ _ _ _ _ _ => some (some 0)
  | .stt _ _ _ _ _ _ => some (some 0)
  | .ldg _ _ _ _ _ _ _ => some (some 0)
  | .sts _ _ _ _ _ _ _ => some (some 0)
  | .atadd _ _ _ _ _ _ => some (some 0)
  | .atmin _ _ _ _ _ _ => some (some 0)
  | .atmax _ _ _ _ _ _ => some (some 0)
  | .atminu _ _ _ _ _ _ => some (some 0)
  | .atmaxu _ _ _ _ _ _ => some (some 0)
  | .atand _ _ _ _ _ _ => some (some 0)
  | .ator _ _ _ _ _ _ => some (some 0)
  | .atxor _ _ _ _ _ _ => some (some 0)
  | .atswp _ _ _ _ _ _ => some (some 0)
  | .atcas _ _ _ _ _ _ => some (some 0)
  | .atfadd _ _ _ _ _ _ => some (some 0)
  | .cpy _ _ _ _ _ _ _ => some (some 0)
  | .cpyt _ _ _ _ _ _ _ => some (some 0)
  | .cpyd _ _ _ _ _ _ _ => some (some 0)
  | .wmcpy _ _ _ _ _ _ _ => some (some 0)
  | .wmld _ _ _ _ _ _ => some (some 0)
  | .wmadv _ _ _ => some (some 0)
  | .enq _ _ _ _ _ _ => some (some 0)
  | .pref _ _ _ _ _ => some (some 0)
  | .clean _ _ _ _ _ => some (some 0)
  | .inval _ _ _ _ _ => some (some 0)
  | .chk _ _ => some (some 0)
  | .vpop _ _ _ _ => some (some 1)
  | .vpsh _ _ _ _ => some (some 1)
  | .vmov _ _ _ _ => some (some 1)
  | .vbcst _ _ _ _ => some (some 1)
  | .vidx _ _ _ => some (some 1)
  | .vlane _ _ _ => some (some 1)
  | .vadd _ _ _ _ _ _ => some (some 1)
  | .vsub _ _ _ _ _ _ => some (some 1)
  | .vmul _ _ _ _ _ _ => some (some 1)
  | .vfma _ _ _ _ _ _ => some (some 1)
  | .vfms _ _ _ _ _ _ => some (some 1)
  | .vfnma _ _ _ _ _ _ => some (some 1)
  | .vmin _ _ _ _ _ _ => some (some 1)
  | .vmax _ _ _ _ _ _ => some (some 1)
  | .vabs _ _ _ _ _ => some (some 1)
  | .vneg _ _ _ _ _ => some (some 1)
  | .vrcp _ _ _ _ _ => some (some 1)
  | .vrsq _ _ _ _ _ => some (some 1)
  | .vsqrt _ _ _ _ _ => some (some 1)
  | .vex2 _ _ _ _ _ => some (some 1)
  | .vlg2 _ _ _ _ _ => some (some 1)
  | .vtanh _ _ _ _ _ => some (some 1)
  | .vflr _ _ _ _ _ => some (some 1)
  | .vceil _ _ _ _ _ => some (some 1)
  | .vdiv _ _ _ _ _ _ => some (some 1)
  | .vand _ _ _ _ _ => some (some 1)
  | .vor _ _ _ _ _ => some (some 1)
  | .vxor _ _ _ _ _ => some (some 1)
  | .vshl _ _ _ _ _ => some (some 1)
  | .vshr _ _ _ _ _ => some (some 1)
  | .vsar _ _ _ _ _ => some (some 1)
  | .vcmp _ _ _ _ _ _ _ => some (some 1)
  | .vsel _ _ _ _ _ => some (some 1)
  | .vcommit _ _ _ _ => some (some 1)
  | .vchk _ _ _ _ => some (some 1)
  | .pand _ _ _ => some (some 1)
  | .por _ _ _ => some (some 1)
  | .pxor _ _ _ => some (some 1)
  | .pandn _ _ _ => some (some 1)
  | .pnot _ _ => some (some 1)
  | .pmov _ _ => some (some 1)
  | .pcnt _ _ => some (some 1)
  | .vcvt _ _ _ _ _ _ _ => some (some 1)
  | .vqnt _ _ _ _ _ _ _ => some (some 1)
  | .vdqnt _ _ _ _ _ _ => some (some 1)
  | .vred _ _ _ _ _ _ => some (some 1)
  | .vscan _ _ _ _ _ _ => some (some 1)
  | .vperm _ _ _ _ _ => some (some 1)
  | .vrot _ _ _ _ _ => some (some 1)
  | .vrng _ _ _ _ _ _ => some (some 1)
  | .tcfg _ _ _ => some (some 2)
  | .tpop _ _ => some (some 2)
  | .tpsh _ _ => some (some 2)
  | .tzero _ => some (some 2)
  | .wld _ _ => some (some 2)
  | .wcfg _ _ _ => some (some 2)
  | .mma _ _ _ _ _ _ => some (some 2)
  | .mmat _ _ _ _ _ _ => some (some 2)
  | .cemit _ _ _ _ _ => some (some 2)
  | .cpsh _ _ => some (some 2)
  | .cpop _ _ => some (some 2)
  | .cscl _ _ => some (some 2)
  | .ftset _ _ => some (some 2)
  | .ftget _ _ => some (some 2)
  | .tmark _ => some (some 2)
  | .tbudg _ => some (some 2)
  | .tstat _ _ _ => some (some 2)
  | .ssig _ _ _ _ => some (some 3)
  | .swait _ _ _ => some (some 3)
  | .stry _ _ _ _ => some (some 3)
  | .binit _ _ _ => some (some 3)
  | .barv _ _ _ _ _ => some (some 3)
  | .bexp _ _ _ => some (some 3)
  | .bwait _ _ _ => some (some 3)
  | .btest _ _ _ => some (some 3)
  | .acq _ _ _ => some (some 3)
  | .rel _ _ _ => some (some 3)
  | .publ _ => some (some 3)
  | .shopen _ _ => some (some 3)
  | .remq _ _ => some (some 3)
  | .remqt _ _ _ => some (some 3)
  | .wpop _ _ _ => some (some 3)
  | .wpush _ _ => some (some 3)
  | .wsteal _ _ _ => some (some 3)
  | .coll _ _ _ => some (some 3)
  | .upd _ _ => some (some 3)
  | .msrch _ _ => some (some 3)
  | .gfork _ _ => some (some 3)
  | .grewd _ _ _ => some (some 3)
  | .gbar _ _ => some (some 3)
  | .gcanc _ _ => some (some 3)
  | .gqry _ _ _ => some (some 3)
  | .gyld _ => some (some 3)
  | .vqry _ _ => some (some 3)
  | .ecnt _ _ => some (some 3)
  | .tend => some (some 3)
  | .step _ => some (some 3)
  | .tret => some (some 3)
  | .tack => some (some 3)
  | .sysc _ => some (some 3)
  | .halt => some (some 3)
  | .sleep _ => some (some 3)
  | .closingBranch => none
  | .scoreboardedResult => none
  | .queueLoadLands => none
  | .mmaCompletion => none
  | .engineCompletion => none
  | .collectiveCompletion => none
  | .updCompletion => none
  | .msrchCompletion => none
  | .trapTaken => none
  | .qdead => none
  | .windowReplay => none
  | .timingTrip => none
  | .tileDispatch => none
  | .nodeLaunch => none
  | .waiterReserving => none
  | .nodeBoundaryPreemption => none
  | .stepBoundary => none
  | .stepMirrorComplete => none
  | .pontilCommit => none
  | .pontilFailure => none
  | .deviceLost => none
  | .gangStart => none
  | .groupDeadlineExpiry => none
  | .groupResume => none
  | .pageWalk => none
  | .translationBuildEnd => none
  | .translationEviction => none
  | .substitutionInstall => none
  | .epochStart => none
  | .budgetInterval => none
  | .operatingPointStep => none
  | .rowFailure => none
  | .vaultEvacuation => none
  | .tokenGrant => none
  | .clockProposal => none
  | .flitReceived => none
  | .messageReceived => none
  | .messageUndeliverable => none
  | .laneLoss => none
  | .lanesTrained => none
  | .trainingTimeout => none
  | .firmwareRetry => none
  | .hostBridgeAccess => none
  | .boot => none
  | .registerWrite => none
  | .evClear => none
  | .cplack => none
  | .heldGo => none
  | .engineCpy => none
  | .engineCpyt => none
  | .engineCpyd => none
  | .engineWmcpy => none
  | .engineLdg => none
  | .engineSts => none
  | .dieColl => none
  | .dieCollSt => none
  | .dieUpd => none
  | .dieMsrch => none
  | .contextNop => none
  | .nrun => none
  | .grun => none
  | .gset => none
  | .hostNop => none
  | .cdefine => none
  | .cload => none
  | .chot => none
  | .cpark => none
  | .cmigrate => none
  | .csuspend => none
  | .cresume => none
  | .cretire => none
  | .crestore => none
  | .cquery => none
  | .olink => none
  | .subload => none
  | .opset => none
  | .pbudget => none
  | .pgrant => none
  | .mread => none
  | .keyset => none
  | .keyclr => none
  | .shoot => none
  | .attest => none
  | .cfgload => none
  | .portctl => none
  | .sleepExpiry => none
  | .syscReply => none
  | .trapStub => none
  | .xlateStub => none
  | .loopIllegalKind => none
  | .softError => none
  | .endToEndResend => none
  | .pcSample => none

/-- Every field within its range (R87-R100, R105). -/
def Instr.wf (i : Instr) : Bool :=
  match i with
  | .nop => true
  | .add d a b => decide (d < 32) && decide (a < 32) && decide (b < 32)
  | .sub d a b => decide (d < 32) && decide (a < 32) && decide (b < 32)
  | .and d a b => decide (d < 32) && decide (a < 32) && decide (b < 32)
  | .or d a b => decide (d < 32) && decide (a < 32) && decide (b < 32)
  | .xor d a b => decide (d < 32) && decide (a < 32) && decide (b < 32)
  | .andn d a b => decide (d < 32) && decide (a < 32) && decide (b < 32)
  | .shl d a b => decide (d < 32) && decide (a < 32) && decide (b < 32)
  | .shr d a b => decide (d < 32) && decide (a < 32) && decide (b < 32)
  | .sar d a b => decide (d < 32) && decide (a < 32) && decide (b < 32)
  | .rol d a b => decide (d < 32) && decide (a < 32) && decide (b < 32)
  | .min d a b => decide (d < 32) && decide (a < 32) && decide (b < 32)
  | .max d a b => decide (d < 32) && decide (a < 32) && decide (b < 32)
  | .minu d a b => decide (d < 32) && decide (a < 32) && decide (b < 32)
  | .maxu d a b => decide (d < 32) && decide (a < 32) && decide (b < 32)
  | .seq d a b => decide (d < 32) && decide (a < 32) && decide (b < 32)
  | .slt d a b => decide (d < 32) && decide (a < 32) && decide (b < 32)
  | .sltu d a b => decide (d < 32) && decide (a < 32) && decide (b < 32)
  | .clz d a => decide (d < 32) && decide (a < 32)
  | .popc d a => decide (d < 32) && decide (a < 32)
  | .sel d a b => decide (d < 32) && decide (a < 32) && decide (b < 32)
  | .mul d a b => decide (d < 32) && decide (a < 32) && decide (b < 32)
  | .mulh d a b => decide (d < 32) && decide (a < 32) && decide (b < 32)
  | .mulhu d a b => decide (d < 32) && decide (a < 32) && decide (b < 32)
  | .div d a b => decide (d < 32) && decide (a < 32) && decide (b < 32)
  | .divu d a b => decide (d < 32) && decide (a < 32) && decide (b < 32)
  | .rem d a b => decide (d < 32) && decide (a < 32) && decide (b < 32)
  | .remu d a b => decide (d < 32) && decide (a < 32) && decide (b < 32)
  | .addi d a imm => decide (d < 32) && decide (a < 32) && decide (imm < 16384)
  | .andi d a imm => decide (d < 32) && decide (a < 32) && decide (imm < 16384)
  | .ori d a imm => decide (d < 32) && decide (a < 32) && decide (imm < 16384)
  | .xori d a imm => decide (d < 32) && decide (a < 32) && decide (imm < 16384)
  | .shli d a imm => decide (d < 32) && decide (a < 32) && decide (imm < 32)
  | .shri d a imm => decide (d < 32) && decide (a < 32) && decide (imm < 32)
  | .sari d a imm => decide (d < 32) && decide (a < 32) && decide (imm < 32)
  | .slti d a imm => decide (d < 32) && decide (a < 32) && decide (imm < 16384)
  | .sltiu d a imm => decide (d < 32) && decide (a < 32) && decide (imm < 16384)
  | .lui d imm => decide (d < 32) && decide (imm < 262144)
  | .aget d a _ => decide (d < 32) && decide (a < 16)
  | .aadd ad aa sb sh => decide (ad < 16) && decide (aa < 16) && decide (sb < 32) && decide (sh < 8)
  | .aaddi ad aa imm => decide (ad < 16) && decide (aa < 16) && decide (imm < 65536)
  | .aset ad aa sb => decide (ad < 16) && decide (aa < 16) && decide (sb < 32)
  | .alui ad aa imm => decide (ad < 16) && decide (aa < 16) && decide (imm < 65536)
  | .asub ad aa sb sh => decide (ad < 16) && decide (aa < 16) && decide (sb < 32) && decide (sh < 8)
  | .beq a b off => decide (a < 32) && decide (b < 32) && decide (off < 16384)
  | .bne a b off => decide (a < 32) && decide (b < 32) && decide (off < 16384)
  | .blt a b off => decide (a < 32) && decide (b < 32) && decide (off < 16384)
  | .bge a b off => decide (a < 32) && decide (b < 32) && decide (off < 16384)
  | .bltu a b off => decide (a < 32) && decide (b < 32) && decide (off < 16384)
  | .bgeu a b off => decide (a < 32) && decide (b < 32) && decide (off < 16384)
  | .jmp off => decide (off < 16777216)
  | .call off => decide (off < 16777216)
  | .jr a imm => decide (a < 16) && decide (imm < 65536)
  | .loop lvl src len _ => decide (lvl < 4) && decide (src < 32) && decide (len < 16384)
  | .loopImm lvl n len _ => decide (lvl < 4) && decide (n < 32) && decide (len < 16384)
  | .loopq lvl q len _ => decide (lvl < 4) && decide (q < 16) && decide (len < 16384)
  | .lbrk lvl a => decide (lvl < 4) && decide (a < 32)
  | .lrot imm => decide (imm < 32)
  | .bqpush tgt a => decide (tgt < 4) && decide (a < 32)
  | .bqbr off => decide (off < 16777216)
  | .qput q a => decide (q < 16) && decide (a < 32)
  | .qget d q => decide (d < 32) && decide (q < 16)
  | .qdrop q => decide (q < 16)
  | .qmark q => decide (q < 16)
  | .qstat d q item => decide (d < 32) && decide (q < 16) && decide (item < 4)
  | .hsig h => decide (h < 12)
  | .hwait h => decide (h < 12)
  | .htry d h => decide (d < 32) && decide (h < 12)
  | .sread d _ => decide (d < 32)
  | .swrite a _ => decide (a < 32)
  | .fence _ l s c => (l || s || c)
  | .tick d _ => decide (d < 32)
  | .trap imm => decide (imm < 524288)
  | .brk imm => decide (imm < 524288)
  | .ld t a off ch _ _ => decide (t < 32) && decide (a < 16) && decide (off < 2048) && decide (ch < 4)
  | .lds t a off ch _ _ => decide (t < 32) && decide (a < 16) && decide (off < 2048) && decide (ch < 4)
  | .lda t a off ch _ _ => decide (t < 32) && decide (a < 16) && decide (off < 2048) && decide (ch < 4)
  | .ldx t a off ch _ _ => decide (t < 32) && decide (a < 16) && decide (off < 2048) && decide (ch < 4)
  | .st t a off ch _ _ => decide (t < 32) && decide (a < 16) && decide (off < 2048) && decide (ch < 4)
  | .stl t a off ch _ _ => decide (t < 32) && decide (a < 16) && decide (off < 2048) && decide (ch < 4)
  | .ldq t a off ch _ _ => decide (t < 16) && decide (a < 16) && decide (off < 2048) && decide (ch < 4)
  | .ldqs t a off ch _ _ => decide (t < 16) && decide (a < 16) && decide (off < 2048) && decide (ch < 4)
  | .stq t a off ch _ _ => decide (t < 16) && decide (a < 16) && decide (off < 2048) && decide (ch < 4)
  | .ldt t a off ch _ _ => decide (t < 16) && decide (a < 16) && decide (off < 2048) && decide (ch < 4)
  | .stt t a off ch _ _ => decide (t < 16) && decide (a < 16) && decide (off < 2048) && decide (ch < 4)
  | .ldg tok ad src n ab _ _ => decide (tok < 32) && decide (ad < 16) && decide (src < 16) && decide (n < 32) && decide (ab < 16)
  | .sts tok ad src n ab _ _ => decide (tok < 32) && decide (ad < 16) && decide (src < 16) && decide (n < 32) && decide (ab < 16)
  | .atadd d a b _ _ _ => decide (d < 32) && decide (a < 16) && decide (b < 32)
  | .atmin d a b _ _ _ => decide (d < 32) && decide (a < 16) && decide (b < 32)
  | .atmax d a b _ _ _ => decide (d < 32) && decide (a < 16) && decide (b < 32)
  | .atminu d a b _ _ _ => decide (d < 32) && decide (a < 16) && decide (b < 32)
  | .atmaxu d a b _ _ _ => decide (d < 32) && decide (a < 16) && decide (b < 32)
  | .atand d a b _ _ _ => decide (d < 32) && decide (a < 16) && decide (b < 32)
  | .ator d a b _ _ _ => decide (d < 32) && decide (a < 16) && decide (b < 32)
  | .atxor d a b _ _ _ => decide (d < 32) && decide (a < 16) && decide (b < 32)
  | .atswp d a b _ _ _ => decide (d < 32) && decide (a < 16) && decide (b < 32)
  | .atcas d a b _ _ _ => decide (d < 32) && decide (a < 16) && decide (b < 32)
  | .atfadd d a b _ _ _ => decide (d < 32) && decide (a < 16) && decide (b < 32)
  | .cpy tok ad src n ab _ _ => decide (tok < 32) && decide (ad < 16) && decide (src < 16) && decide (n < 32) && decide (ab < 16)
  | .cpyt tok ad src n ab _ _ => decide (tok < 32) && decide (ad < 16) && decide (src < 16) && decide (n < 32) && decide (ab < 16)
  | .cpyd tok ad src n ab _ _ => decide (tok < 32) && decide (ad < 16) && decide (src < 16) && decide (n < 32) && decide (ab < 16)
  | .wmcpy tok ad src n ab _ _ => decide (tok < 32) && decide (ad < 16) && decide (src < 8) && decide (n < 32) && decide (ab < 16)
  | .wmld t a off ch _ _ => decide (t < 8) && decide (a < 16) && decide (off < 2048) && decide (ch < 4)
  | .wmadv d a axis => decide (d < 8) && decide (a < 32) && decide (axis < 4)
  | .enq tok ad src ab _ _ => decide (tok < 32) && decide (ad < 16) && decide (src < 16) && decide (ab < 16)
  | .pref a off ch _ _ => decide (a < 16) && decide (off < 2048) && decide (ch < 4)
  | .clean a off ch _ _ => decide (a < 16) && decide (off < 2048) && decide (ch < 4)
  | .inval a off ch _ _ => decide (a < 16) && decide (off < 2048) && decide (ch < 4)
  | .chk a off => decide (a < 32) && decide (off < 16384)
  | .vpop vd q pg _ => decide (vd < 64) && decide (q < 16) && decide (pg < 8)
  | .vpsh q va pg _ => decide (q < 16) && decide (va < 64) && decide (pg < 8)
  | .vmov vd va pg _ => decide (vd < 64) && decide (va < 64) && decide (pg < 8)
  | .vbcst vd sa pg _ => decide (vd < 64) && decide (sa < 32) && decide (pg < 8)
  | .vidx vd pg _ => decide (vd < 64) && decide (pg < 8)
  | .vlane sd va sb => decide (sd < 32) && decide (va < 64) && decide (sb < 32)
  | .vadd vd va vb pg _ _ => decide (vd < 64) && decide (va < 64) && decide (vb < 64) && decide (pg < 8)
  | .vsub vd va vb pg _ _ => decide (vd < 64) && decide (va < 64) && decide (vb < 64) && decide (pg < 8)
  | .vmul vd va vb pg _ _ => decide (vd < 64) && decide (va < 64) && decide (vb < 64) && decide (pg < 8)
  | .vfma vd va vb pg _ tp => decide (vd < 64) && decide (va < 64) && decide (vb < 64) && decide (pg < 8) && tp != .i32
  | .vfms vd va vb pg _ tp => decide (vd < 64) && decide (va < 64) && decide (vb < 64) && decide (pg < 8) && tp != .i32
  | .vfnma vd va vb pg _ tp => decide (vd < 64) && decide (va < 64) && decide (vb < 64) && decide (pg < 8) && tp != .i32
  | .vmin vd va vb pg _ _ => decide (vd < 64) && decide (va < 64) && decide (vb < 64) && decide (pg < 8)
  | .vmax vd va vb pg _ _ => decide (vd < 64) && decide (va < 64) && decide (vb < 64) && decide (pg < 8)
  | .vabs vd va pg _ _ => decide (vd < 64) && decide (va < 64) && decide (pg < 8)
  | .vneg vd va pg _ _ => decide (vd < 64) && decide (va < 64) && decide (pg < 8)
  | .vrcp vd va pg _ tp => decide (vd < 64) && decide (va < 64) && decide (pg < 8) && tp != .i32
  | .vrsq vd va pg _ tp => decide (vd < 64) && decide (va < 64) && decide (pg < 8) && tp != .i32
  | .vsqrt vd va pg _ tp => decide (vd < 64) && decide (va < 64) && decide (pg < 8) && tp != .i32
  | .vex2 vd va pg _ tp => decide (vd < 64) && decide (va < 64) && decide (pg < 8) && tp != .i32
  | .vlg2 vd va pg _ tp => decide (vd < 64) && decide (va < 64) && decide (pg < 8) && tp != .i32
  | .vtanh vd va pg _ tp => decide (vd < 64) && decide (va < 64) && decide (pg < 8) && tp != .i32
  | .vflr vd va pg _ tp => decide (vd < 64) && decide (va < 64) && decide (pg < 8) && tp != .i32
  | .vceil vd va pg _ tp => decide (vd < 64) && decide (va < 64) && decide (pg < 8) && tp != .i32
  | .vdiv vd va vb pg _ tp => decide (vd < 64) && decide (va < 64) && decide (vb < 64) && decide (pg < 8) && tp != .i32
  | .vand vd va vb pg _ => decide (vd < 64) && decide (va < 64) && decide (vb < 64) && decide (pg < 8)
  | .vor vd va vb pg _ => decide (vd < 64) && decide (va < 64) && decide (vb < 64) && decide (pg < 8)
  | .vxor vd va vb pg _ => decide (vd < 64) && decide (va < 64) && decide (vb < 64) && decide (pg < 8)
  | .vshl vd va vb pg _ => decide (vd < 64) && decide (va < 64) && decide (vb < 64) && decide (pg < 8)
  | .vshr vd va vb pg _ => decide (vd < 64) && decide (va < 64) && decide (vb < 64) && decide (pg < 8)
  | .vsar vd va vb pg _ => decide (vd < 64) && decide (va < 64) && decide (vb < 64) && decide (pg < 8)
  | .vcmp pd va vb pg _ _ _ => decide (pd < 16) && decide (va < 64) && decide (vb < 64) && decide (pg < 8)
  | .vsel vd va vb pg _ => decide (vd < 64) && decide (va < 64) && decide (vb < 64) && decide (pg < 8)
  | .vcommit vd va pg _ => decide (vd < 64) && decide (va < 64) && decide (pg < 8)
  | .vchk pd va pg _ => decide (pd < 16) && decide (va < 64) && decide (pg < 8)
  | .pand pd pa pb => decide (pd < 16) && decide (pa < 16) && decide (pb < 16)
  | .por pd pa pb => decide (pd < 16) && decide (pa < 16) && decide (pb < 16)
  | .pxor pd pa pb => decide (pd < 16) && decide (pa < 16) && decide (pb < 16)
  | .pandn pd pa pb => decide (pd < 16) && decide (pa < 16) && decide (pb < 16)
  | .pnot pd pa => decide (pd < 16) && decide (pa < 16)
  | .pmov pd pa => decide (pd < 16) && decide (pa < 16)
  | .pcnt sd pa => decide (sd < 32) && decide (pa < 16)
  | .vcvt vd va rm pg _ _ _ => decide (vd < 64) && decide (va < 64) && decide (rm < 8) && decide (pg < 8)
  | .vqnt vd va rm pg _ _ _ => decide (vd < 64) && decide (va < 64) && decide (rm < 8) && decide (pg < 8)
  | .vdqnt vd va pg _ _ _ => decide (vd < 64) && decide (va < 64) && decide (pg < 8)
  | .vred vd va pg _ _ _ => decide (vd < 64) && decide (va < 64) && decide (pg < 8)
  | .vscan vd va pg _ _ _ => decide (vd < 64) && decide (va < 64) && decide (pg < 8)
  | .vperm vd va vb pg _ => decide (vd < 64) && decide (va < 64) && decide (vb < 64) && decide (pg < 8)
  | .vrot vd va sb pg _ => decide (vd < 64) && decide (va < 64) && decide (sb < 32) && decide (pg < 8)
  | .vrng vd sa sb pg _ _ => decide (vd < 64) && decide (sa < 32) && decide (sb < 32) && decide (pg < 8)
  | .tcfg td rows1 _ => decide (td < 8) && decide (rows1 < 64)
  | .tpop td q => decide (td < 8) && decide (q < 16)
  | .tpsh q ta => decide (q < 16) && decide (ta < 8)
  | .tzero td => decide (td < 8)
  | .wld wd q => decide (wd < 4) && decide (q < 16)
  | .wcfg wd fi _ => decide (wd < 4) && decide (fi < 16)
  | .mma cd ta wb lvl fi _ => decide (cd < 4) && decide (ta < 8) && decide (wb < 4) && decide (lvl < 4) && decide (fi < 16)
  | .mmat cd ta wb lvl fi _ => decide (cd < 4) && decide (ta < 8) && decide (wb < 4) && decide (lvl < 4) && decide (fi < 16)
  | .cemit ca q rm _ _ => decide (ca < 4) && decide (q < 16) && decide (rm < 8)
  | .cpsh ca q => decide (ca < 4) && decide (q < 16)
  | .cpop cd q => decide (cd < 4) && decide (q < 16)
  | .cscl cd sa => decide (cd < 4) && decide (sa < 32)
  | .ftset fi sa => decide (fi < 16) && decide (sa < 32)
  | .ftget sd fi => decide (sd < 32) && decide (fi < 16)
  | .tmark imm => decide (imm < 65536)
  | .tbudg sd => decide (sd < 32)
  | .tstat sd ta item => decide (sd < 32) && decide (ta < 8) && decide (item < 4)
  | .ssig a b _ _ => decide (a < 16) && decide (b < 32)
  | .swait a _ _ => decide (a < 16)
  | .stry d a _ _ => decide (d < 32) && decide (a < 16)
  | .binit a b _ => decide (a < 16) && decide (b < 32)
  | .barv a b _ _ _ => decide (a < 16) && decide (b < 32)
  | .bexp a b _ => decide (a < 16) && decide (b < 32)
  | .bwait a _ _ => decide (a < 16)
  | .btest d a _ => decide (d < 32) && decide (a < 16)
  | .acq a _ _ => decide (a < 16)
  | .rel a _ _ => decide (a < 16)
  | .publ a => decide (a < 16)
  | .shopen d a => decide (d < 32) && decide (a < 16)
  | .remq a b => decide (a < 16) && decide (b < 16)
  | .remqt d a b => decide (d < 32) && decide (a < 16) && decide (b < 16)
  | .wpop d a b => decide (d < 32) && decide (a < 16) && decide (b < 16)
  | .wpush a b => decide (a < 16) && decide (b < 16)
  | .wsteal d a b => decide (d < 32) && decide (a < 16) && decide (b < 16)
  | .coll d a _ => decide (d < 32) && decide (a < 16)
  | .upd d a => decide (d < 32) && decide (a < 16)
  | .msrch d a => decide (d < 32) && decide (a < 16)
  | .gfork d a => decide (d < 32) && decide (a < 16)
  | .grewd d a b => decide (d < 32) && decide (a < 16) && decide (b < 32)
  | .gbar d a => decide (d < 32) && decide (a < 16)
  | .gcanc a b => decide (a < 16) && decide (b < 32)
  | .gqry d a item => decide (d < 32) && decide (a < 16) && decide (item < 6)
  | .gyld a => decide (a < 16)
  | .vqry d b => decide (d < 32) && decide (b < 32)
  | .ecnt d b => decide (d < 32) && decide (b < 32)
  | .tend => true
  | .step d => decide (d < 32)
  | .tret => true
  | .tack => true
  | .sysc imm => decide (imm < 524288)
  | .halt => true
  | .sleep d => decide (d < 32)
  | .closingBranch => false
  | .scoreboardedResult => false
  | .queueLoadLands => false
  | .mmaCompletion => false
  | .engineCompletion => false
  | .collectiveCompletion => false
  | .updCompletion => false
  | .msrchCompletion => false
  | .trapTaken => false
  | .qdead => false
  | .windowReplay => false
  | .timingTrip => false
  | .tileDispatch => false
  | .nodeLaunch => false
  | .waiterReserving => false
  | .nodeBoundaryPreemption => false
  | .stepBoundary => false
  | .stepMirrorComplete => false
  | .pontilCommit => false
  | .pontilFailure => false
  | .deviceLost => false
  | .gangStart => false
  | .groupDeadlineExpiry => false
  | .groupResume => false
  | .pageWalk => false
  | .translationBuildEnd => false
  | .translationEviction => false
  | .substitutionInstall => false
  | .epochStart => false
  | .budgetInterval => false
  | .operatingPointStep => false
  | .rowFailure => false
  | .vaultEvacuation => false
  | .tokenGrant => false
  | .clockProposal => false
  | .flitReceived => false
  | .messageReceived => false
  | .messageUndeliverable => false
  | .laneLoss => false
  | .lanesTrained => false
  | .trainingTimeout => false
  | .firmwareRetry => false
  | .hostBridgeAccess => false
  | .boot => false
  | .registerWrite => false
  | .evClear => false
  | .cplack => false
  | .heldGo => false
  | .engineCpy => false
  | .engineCpyt => false
  | .engineCpyd => false
  | .engineWmcpy => false
  | .engineLdg => false
  | .engineSts => false
  | .dieColl => false
  | .dieCollSt => false
  | .dieUpd => false
  | .dieMsrch => false
  | .contextNop => false
  | .nrun => false
  | .grun => false
  | .gset => false
  | .hostNop => false
  | .cdefine => false
  | .cload => false
  | .chot => false
  | .cpark => false
  | .cmigrate => false
  | .csuspend => false
  | .cresume => false
  | .cretire => false
  | .crestore => false
  | .cquery => false
  | .olink => false
  | .subload => false
  | .opset => false
  | .pbudget => false
  | .pgrant => false
  | .mread => false
  | .keyset => false
  | .keyclr => false
  | .shoot => false
  | .attest => false
  | .cfgload => false
  | .portctl => false
  | .sleepExpiry => false
  | .syscReply => false
  | .trapStub => false
  | .xlateStub => false
  | .loopIllegalKind => false
  | .softError => false
  | .endToEndResend => false
  | .pcSample => false

/-- The instruction has a word in a stream section of cluster `cl`. -/
def Instr.wfOn (cl : Nat) (i : Instr) : Bool :=
  i.wf && (match i.cluster with
    | none => false
    | some none => decide (cl < 4)
    | some (some c) => cl == c)

end Sys2Proof
end

