-- ==== Sys2Proof/Decode.lean ====
section
/-! DEFINITION. The decoder of spec/04_encoding.md (R85-R107), total on any number and any cluster, and the encoder,
written from the same tables. A reserved encoding is rejected by name (R105); the words of LOOP and LOOPQ whose kind
raises ILLEGAL when executed decode to their own step (R122, R123). -/

namespace Sys2Proof

/-- Why a word is a reserved encoding (R105). -/
inductive Reject where
  | maj | code | register | scope | sysReg
deriving DecidableEq, Repr, Inhabited

/-- Bits hi down to lo of a word, inclusive (R7, R85). -/
def fieldOf (w hi lo : Nat) : Nat := w / 2 ^ lo % 2 ^ (hi - lo + 1)

/-- The Scope codes (R92, R97-R100, R102). -/
def scopeOf (n : Nat) : Option Scope :=
  match n with
  | 0 => some .cl
  | 1 => some .core
  | 2 => some .bench
  | 3 => some .die
  | 4 => some .dev
  | 5 => some .sys
  | _ => none

/-- The code of each Scope name. -/
def scopeCode (x : Scope) : Nat :=
  match x with
  | .cl => 0
  | .core => 1
  | .bench => 2
  | .die => 3
  | .dev => 4
  | .sys => 5

/-- The VType codes (R92, R97-R100, R102). -/
def vtypeOf (n : Nat) : Option VType :=
  match n with
  | 0 => some .f32
  | 1 => some .bf16
  | 2 => some .f16
  | 3 => some .i32
  | _ => none

/-- The code of each VType name. -/
def vtypeCode (x : VType) : Nat :=
  match x with
  | .f32 => 0
  | .bf16 => 1
  | .f16 => 2
  | .i32 => 3

/-- The Cond codes (R92, R97-R100, R102). -/
def condOf (n : Nat) : Option Cond :=
  match n with
  | 0 => some .eq
  | 1 => some .ne
  | 2 => some .lt
  | 3 => some .le
  | _ => none

/-- The code of each Cond name. -/
def condCode (x : Cond) : Nat :=
  match x with
  | .eq => 0
  | .ne => 1
  | .lt => 2
  | .le => 3

/-- The CvtDst codes (R92, R97-R100, R102). -/
def cvtDstOf (n : Nat) : Option CvtDst :=
  match n with
  | 0 => some .f32
  | 1 => some .bf16
  | 2 => some .f16
  | 3 => some .i32
  | 4 => some .e4m3
  | 5 => some .e5m2
  | 6 => some .i8
  | 7 => some .e2m1
  | _ => none

/-- The code of each CvtDst name. -/
def cvtDstCode (x : CvtDst) : Nat :=
  match x with
  | .f32 => 0
  | .bf16 => 1
  | .f16 => 2
  | .i32 => 3
  | .e4m3 => 4
  | .e5m2 => 5
  | .i8 => 6
  | .e2m1 => 7

/-- The Blk codes (R92, R97-R100, R102). -/
def blkOf (n : Nat) : Option Blk :=
  match n with
  | 0 => some .mx
  | 1 => some .x
  | 2 => some .e4
  | 3 => some .e5
  | _ => none

/-- The code of each Blk name. -/
def blkCode (x : Blk) : Nat :=
  match x with
  | .mx => 0
  | .x => 1
  | .e4 => 2
  | .e5 => 3

/-- The RedOp codes (R92, R97-R100, R102). -/
def redOpOf (n : Nat) : Option RedOp :=
  match n with
  | 0 => some .add
  | 1 => some .max
  | 2 => some .min
  | _ => none

/-- The code of each RedOp name. -/
def redOpCode (x : RedOp) : Nat :=
  match x with
  | .add => 0
  | .max => 1
  | .min => 2

/-- The TileFmt codes (R92, R97-R100, R102). -/
def tileFmtOf (n : Nat) : Option TileFmt :=
  match n with
  | 0 => some .bf16
  | 1 => some .f16
  | 2 => some .e4m3
  | 3 => some .e5m2
  | 4 => some .mx
  | 5 => some .x
  | _ => none

/-- The code of each TileFmt name. -/
def tileFmtCode (x : TileFmt) : Nat :=
  match x with
  | .bf16 => 0
  | .f16 => 1
  | .e4m3 => 2
  | .e5m2 => 3
  | .mx => 4
  | .x => 5

/-- The WMode codes (R92, R97-R100, R102). -/
def wmodeOf (n : Nat) : Option WMode :=
  match n with
  | 0 => some .dense
  | 1 => some .s24
  | 2 => some .s48
  | 3 => some .mx
  | 4 => some .x
  | _ => none

/-- The code of each WMode name. -/
def wmodeCode (x : WMode) : Nat :=
  match x with
  | .dense => 0
  | .s24 => 1
  | .s48 => 2
  | .mx => 3
  | .x => 4

/-- The EmitDst codes (R92, R97-R100, R102). -/
def emitDstOf (n : Nat) : Option EmitDst :=
  match n with
  | 0 => some .f32
  | 1 => some .bf16
  | 2 => some .f16
  | 3 => some .e4m3
  | 4 => some .e5m2
  | _ => none

/-- The code of each EmitDst name. -/
def emitDstCode (x : EmitDst) : Nat :=
  match x with
  | .f32 => 0
  | .bf16 => 1
  | .f16 => 2
  | .e4m3 => 3
  | .e5m2 => 4

/-- The BarOp codes (R92, R97-R100, R102). -/
def barOpOf (n : Nat) : Option BarOp :=
  match n with
  | 0 => some .none
  | 1 => some .add
  | 2 => some .maxu
  | 3 => some .fmax
  | 4 => some .set
  | _ => none

/-- The code of each BarOp name. -/
def barOpCode (x : BarOp) : Nat :=
  match x with
  | .none => 0
  | .add => 1
  | .maxu => 2
  | .fmax => 3
  | .set => 4

/-- The system register numbers of R138; every other number is reserved. -/
def sysRegOf (n : Nat) : Option SysReg :=
  match n with
  | 0 => some .verid
  | 1 => some .patchh
  | 2 => some .kctl
  | 3 => some .ctxid
  | 4 => some .coreid
  | 5 => some .oppt
  | 16 => some .xcause
  | 17 => some .xinfo
  | 18 => some .xvpc
  | 19 => some .xaddrl
  | 20 => some .xaddrh
  | 21 => some .xcutp
  | 22 => some .xframe
  | 23 => some .xvec
  | 32 => some .rotb
  | 33 => some .lstat
  | 48 => some .trctl
  | _ => none

/-- The number of each system register (R138). -/
def sysRegCode (r : SysReg) : Nat :=
  match r with
  | .verid => 0
  | .patchh => 1
  | .kctl => 2
  | .ctxid => 3
  | .coreid => 4
  | .oppt => 5
  | .xcause => 16
  | .xinfo => 17
  | .xvpc => 18
  | .xaddrl => 19
  | .xaddrh => 20
  | .xcutp => 21
  | .xframe => 22
  | .xvec => 23
  | .rotb => 32
  | .lstat => 33
  | .trctl => 48

/-- The words of MAJ 0x1 of the shared map (R90, R91), by bits [8:0]. -/
def decodeSharedFn1 (w : Nat) : Except Reject Instr :=
  match fieldOf w 8 0 with
  | 0 => .ok (.add (fieldOf w 23 19) (fieldOf w 18 14) (fieldOf w 13 9))
  | 1 => .ok (.sub (fieldOf w 23 19) (fieldOf w 18 14) (fieldOf w 13 9))
  | 2 => .ok (.and (fieldOf w 23 19) (fieldOf w 18 14) (fieldOf w 13 9))
  | 3 => .ok (.or (fieldOf w 23 19) (fieldOf w 18 14) (fieldOf w 13 9))
  | 4 => .ok (.xor (fieldOf w 23 19) (fieldOf w 18 14) (fieldOf w 13 9))
  | 5 => .ok (.andn (fieldOf w 23 19) (fieldOf w 18 14) (fieldOf w 13 9))
  | 6 => .ok (.shl (fieldOf w 23 19) (fieldOf w 18 14) (fieldOf w 13 9))
  | 7 => .ok (.shr (fieldOf w 23 19) (fieldOf w 18 14) (fieldOf w 13 9))
  | 8 => .ok (.sar (fieldOf w 23 19) (fieldOf w 18 14) (fieldOf w 13 9))
  | 9 => .ok (.rol (fieldOf w 23 19) (fieldOf w 18 14) (fieldOf w 13 9))
  | 10 => .ok (.min (fieldOf w 23 19) (fieldOf w 18 14) (fieldOf w 13 9))
  | 11 => .ok (.max (fieldOf w 23 19) (fieldOf w 18 14) (fieldOf w 13 9))
  | 12 => .ok (.minu (fieldOf w 23 19) (fieldOf w 18 14) (fieldOf w 13 9))
  | 13 => .ok (.maxu (fieldOf w 23 19) (fieldOf w 18 14) (fieldOf w 13 9))
  | 14 => .ok (.seq (fieldOf w 23 19) (fieldOf w 18 14) (fieldOf w 13 9))
  | 15 => .ok (.slt (fieldOf w 23 19) (fieldOf w 18 14) (fieldOf w 13 9))
  | 16 => .ok (.sltu (fieldOf w 23 19) (fieldOf w 18 14) (fieldOf w 13 9))
  | 17 => .ok (.clz (fieldOf w 23 19) (fieldOf w 18 14))
  | 18 => .ok (.popc (fieldOf w 23 19) (fieldOf w 18 14))
  | 19 => .ok (.sel (fieldOf w 23 19) (fieldOf w 18 14) (fieldOf w 13 9))
  | _ => .error .code

/-- The words of MAJ 0x2 of the shared map (R90, R91), by bits [8:0]. -/
def decodeSharedFn2 (w : Nat) : Except Reject Instr :=
  match fieldOf w 8 0 with
  | 0 => .ok (.mul (fieldOf w 23 19) (fieldOf w 18 14) (fieldOf w 13 9))
  | 1 => .ok (.mulh (fieldOf w 23 19) (fieldOf w 18 14) (fieldOf w 13 9))
  | 2 => .ok (.mulhu (fieldOf w 23 19) (fieldOf w 18 14) (fieldOf w 13 9))
  | 3 => .ok (.div (fieldOf w 23 19) (fieldOf w 18 14) (fieldOf w 13 9))
  | 4 => .ok (.divu (fieldOf w 23 19) (fieldOf w 18 14) (fieldOf w 13 9))
  | 5 => .ok (.rem (fieldOf w 23 19) (fieldOf w 18 14) (fieldOf w 13 9))
  | 6 => .ok (.remu (fieldOf w 23 19) (fieldOf w 18 14) (fieldOf w 13 9))
  | _ => .error .code

/-- The words of MAJ 0x21 of the shared map (R90, R91), by bits [20:19]. -/
def decodeSharedFn33 (w : Nat) : Except Reject Instr :=
  match fieldOf w 20 19 with
  | 0 => .ok (.loop (fieldOf w 23 22) (fieldOf w 18 14) (fieldOf w 13 0) (fieldOf w 21 21 == 1))
  | 1 => .ok (.loopImm (fieldOf w 23 22) (fieldOf w 18 14) (fieldOf w 13 0) (fieldOf w 21 21 == 1))
  | _ => .ok .loopIllegalKind

/-- The shared map (R90, R91). -/
def decodeShared (w : Nat) : Except Reject Instr :=
  match fieldOf w 29 24 with
  | 0 => .ok (.nop)
  | 1 => decodeSharedFn1 w
  | 2 => decodeSharedFn2 w
  | 3 => .ok (.addi (fieldOf w 23 19) (fieldOf w 18 14) (fieldOf w 13 0))
  | 4 => .ok (.andi (fieldOf w 23 19) (fieldOf w 18 14) (fieldOf w 13 0))
  | 5 => .ok (.ori (fieldOf w 23 19) (fieldOf w 18 14) (fieldOf w 13 0))
  | 6 => .ok (.xori (fieldOf w 23 19) (fieldOf w 18 14) (fieldOf w 13 0))
  | 7 => .ok (.shli (fieldOf w 23 19) (fieldOf w 18 14) (fieldOf w 4 0))
  | 8 => .ok (.shri (fieldOf w 23 19) (fieldOf w 18 14) (fieldOf w 4 0))
  | 9 => .ok (.sari (fieldOf w 23 19) (fieldOf w 18 14) (fieldOf w 4 0))
  | 10 => .ok (.slti (fieldOf w 23 19) (fieldOf w 18 14) (fieldOf w 13 0))
  | 11 => .ok (.sltiu (fieldOf w 23 19) (fieldOf w 18 14) (fieldOf w 13 0))
  | 12 => .ok (.lui (fieldOf w 23 19) (fieldOf w 17 0))
  | 13 => if fieldOf w 18 14 < 16 then if fieldOf w 13 0 < 2 then .ok (.aget (fieldOf w 23 19) (fieldOf w 18 14) (fieldOf w 13 0 == 1)) else .error .code else .error .register
  | 16 => .ok (.aadd (fieldOf w 23 20) (fieldOf w 19 16) (fieldOf w 15 11) (fieldOf w 10 8))
  | 17 => .ok (.aaddi (fieldOf w 23 20) (fieldOf w 19 16) (fieldOf w 15 0))
  | 18 => .ok (.aset (fieldOf w 23 20) (fieldOf w 19 16) (fieldOf w 15 11))
  | 19 => .ok (.alui (fieldOf w 23 20) (fieldOf w 19 16) (fieldOf w 15 0))
  | 20 => .ok (.asub (fieldOf w 23 20) (fieldOf w 19 16) (fieldOf w 15 11) (fieldOf w 10 8))
  | 24 => .ok (.beq (fieldOf w 23 19) (fieldOf w 18 14) (fieldOf w 13 0))
  | 25 => .ok (.bne (fieldOf w 23 19) (fieldOf w 18 14) (fieldOf w 13 0))
  | 26 => .ok (.blt (fieldOf w 23 19) (fieldOf w 18 14) (fieldOf w 13 0))
  | 27 => .ok (.bge (fieldOf w 23 19) (fieldOf w 18 14) (fieldOf w 13 0))
  | 28 => .ok (.bltu (fieldOf w 23 19) (fieldOf w 18 14) (fieldOf w 13 0))
  | 29 => .ok (.bgeu (fieldOf w 23 19) (fieldOf w 18 14) (fieldOf w 13 0))
  | 30 => .ok (.jmp (fieldOf w 23 0))
  | 31 => .ok (.call (fieldOf w 23 0))
  | 32 => .ok (.jr (fieldOf w 19 16) (fieldOf w 15 0))
  | 33 => decodeSharedFn33 w
  | 34 => if fieldOf w 18 14 < 16 then (if fieldOf w 20 19 = 2 then .ok (.loopq (fieldOf w 23 22) (fieldOf w 18 14) (fieldOf w 13 0) (fieldOf w 21 21 == 1)) else .ok .loopIllegalKind) else .error .register
  | 35 => .ok (.lbrk (fieldOf w 23 22) (fieldOf w 18 14))
  | 36 => .ok (.lrot (fieldOf w 4 0))
  | 38 => .ok (.bqpush (fieldOf w 1 0) (fieldOf w 18 14))
  | 39 => .ok (.bqbr (fieldOf w 23 0))
  | 40 => if fieldOf w 23 19 < 16 then .ok (.qput (fieldOf w 23 19) (fieldOf w 18 14)) else .error .register
  | 41 => if fieldOf w 18 14 < 16 then .ok (.qget (fieldOf w 23 19) (fieldOf w 18 14)) else .error .register
  | 42 => if fieldOf w 23 19 < 16 then .ok (.qdrop (fieldOf w 23 19)) else .error .register
  | 43 => if fieldOf w 23 19 < 16 then .ok (.qmark (fieldOf w 23 19)) else .error .register
  | 44 => if fieldOf w 18 14 < 16 then if fieldOf w 13 0 < 4 then .ok (.qstat (fieldOf w 23 19) (fieldOf w 18 14) (fieldOf w 13 0)) else .error .code else .error .register
  | 45 => if fieldOf w 23 19 < 12 then .ok (.hsig (fieldOf w 23 19)) else .error .register
  | 46 => if fieldOf w 23 19 < 12 then .ok (.hwait (fieldOf w 23 19)) else .error .register
  | 47 => if fieldOf w 18 14 < 12 then .ok (.htry (fieldOf w 23 19) (fieldOf w 18 14)) else .error .register
  | 48 => (match sysRegOf (fieldOf w 13 0) with | some r => .ok (.sread (fieldOf w 23 19) r) | none => .error .sysReg)
  | 49 => (match sysRegOf (fieldOf w 13 0) with | some r => .ok (.swrite (fieldOf w 18 14) r) | none => .error .sysReg)
  | 50 => if fieldOf w 5 3 ≠ 0 then (match scopeOf (fieldOf w 2 0) with | some sc => .ok (.fence sc (fieldOf w 3 3 == 1) (fieldOf w 4 4 == 1) (fieldOf w 5 5 == 1)) | none => .error .scope) else .error .code
  | 51 => if fieldOf w 18 0 < 2 then .ok (.tick (fieldOf w 23 19) (fieldOf w 18 0 == 1)) else .error .code
  | 62 => .ok (.trap (fieldOf w 18 0))
  | 63 => .ok (.brk (fieldOf w 18 0))
  | _ => .error .maj

/-- The words of MAJ 0x10 of the access map (R95, R96), by bits [9:6]. -/
def decodeAccessFn16 (w : Nat) : Except Reject Instr :=
  match fieldOf w 9 6 with
  | 0 => (match scopeOf (fieldOf w 5 3) with | some sc => .ok (.atadd (fieldOf w 23 19) (fieldOf w 18 15) (fieldOf w 14 10) sc (fieldOf w 1 1 == 1) (fieldOf w 0 0 == 1)) | none => .error .scope)
  | 1 => (match scopeOf (fieldOf w 5 3) with | some sc => .ok (.atmin (fieldOf w 23 19) (fieldOf w 18 15) (fieldOf w 14 10) sc (fieldOf w 1 1 == 1) (fieldOf w 0 0 == 1)) | none => .error .scope)
  | 2 => (match scopeOf (fieldOf w 5 3) with | some sc => .ok (.atmax (fieldOf w 23 19) (fieldOf w 18 15) (fieldOf w 14 10) sc (fieldOf w 1 1 == 1) (fieldOf w 0 0 == 1)) | none => .error .scope)
  | 3 => (match scopeOf (fieldOf w 5 3) with | some sc => .ok (.atminu (fieldOf w 23 19) (fieldOf w 18 15) (fieldOf w 14 10) sc (fieldOf w 1 1 == 1) (fieldOf w 0 0 == 1)) | none => .error .scope)
  | 4 => (match scopeOf (fieldOf w 5 3) with | some sc => .ok (.atmaxu (fieldOf w 23 19) (fieldOf w 18 15) (fieldOf w 14 10) sc (fieldOf w 1 1 == 1) (fieldOf w 0 0 == 1)) | none => .error .scope)
  | 5 => (match scopeOf (fieldOf w 5 3) with | some sc => .ok (.atand (fieldOf w 23 19) (fieldOf w 18 15) (fieldOf w 14 10) sc (fieldOf w 1 1 == 1) (fieldOf w 0 0 == 1)) | none => .error .scope)
  | 6 => (match scopeOf (fieldOf w 5 3) with | some sc => .ok (.ator (fieldOf w 23 19) (fieldOf w 18 15) (fieldOf w 14 10) sc (fieldOf w 1 1 == 1) (fieldOf w 0 0 == 1)) | none => .error .scope)
  | 7 => (match scopeOf (fieldOf w 5 3) with | some sc => .ok (.atxor (fieldOf w 23 19) (fieldOf w 18 15) (fieldOf w 14 10) sc (fieldOf w 1 1 == 1) (fieldOf w 0 0 == 1)) | none => .error .scope)
  | 8 => (match scopeOf (fieldOf w 5 3) with | some sc => .ok (.atswp (fieldOf w 23 19) (fieldOf w 18 15) (fieldOf w 14 10) sc (fieldOf w 1 1 == 1) (fieldOf w 0 0 == 1)) | none => .error .scope)
  | 9 => (match scopeOf (fieldOf w 5 3) with | some sc => .ok (.atcas (fieldOf w 23 19) (fieldOf w 18 15) (fieldOf w 14 10) sc (fieldOf w 1 1 == 1) (fieldOf w 0 0 == 1)) | none => .error .scope)
  | 10 => (match scopeOf (fieldOf w 5 3) with | some sc => .ok (.atfadd (fieldOf w 23 19) (fieldOf w 18 15) (fieldOf w 14 10) sc (fieldOf w 1 1 == 1) (fieldOf w 0 0 == 1)) | none => .error .scope)
  | _ => .error .code

/-- The words of MAJ 0x1c of the access map (R95, R96), by bits [23:19]. -/
def decodeAccessFn28 (w : Nat) : Except Reject Instr :=
  match fieldOf w 23 19 with
  | 0 => .ok (.clean (fieldOf w 18 15) (fieldOf w 14 4) (fieldOf w 3 2) (fieldOf w 1 1 == 1) (fieldOf w 0 0 == 1))
  | 1 => .ok (.inval (fieldOf w 18 15) (fieldOf w 14 4) (fieldOf w 3 2) (fieldOf w 1 1 == 1) (fieldOf w 0 0 == 1))
  | _ => .error .code

/-- The access map (R95, R96). -/
def decodeAccess (w : Nat) : Except Reject Instr :=
  match fieldOf w 29 24 with
  | 0 => .ok (.ld (fieldOf w 23 19) (fieldOf w 18 15) (fieldOf w 14 4) (fieldOf w 3 2) (fieldOf w 1 1 == 1) (fieldOf w 0 0 == 1))
  | 1 => .ok (.lds (fieldOf w 23 19) (fieldOf w 18 15) (fieldOf w 14 4) (fieldOf w 3 2) (fieldOf w 1 1 == 1) (fieldOf w 0 0 == 1))
  | 2 => .ok (.lda (fieldOf w 23 19) (fieldOf w 18 15) (fieldOf w 14 4) (fieldOf w 3 2) (fieldOf w 1 1 == 1) (fieldOf w 0 0 == 1))
  | 3 => .ok (.ldx (fieldOf w 23 19) (fieldOf w 18 15) (fieldOf w 14 4) (fieldOf w 3 2) (fieldOf w 1 1 == 1) (fieldOf w 0 0 == 1))
  | 4 => .ok (.st (fieldOf w 23 19) (fieldOf w 18 15) (fieldOf w 14 4) (fieldOf w 3 2) (fieldOf w 1 1 == 1) (fieldOf w 0 0 == 1))
  | 5 => .ok (.stl (fieldOf w 23 19) (fieldOf w 18 15) (fieldOf w 14 4) (fieldOf w 3 2) (fieldOf w 1 1 == 1) (fieldOf w 0 0 == 1))
  | 6 => if fieldOf w 23 19 < 16 then .ok (.ldq (fieldOf w 23 19) (fieldOf w 18 15) (fieldOf w 14 4) (fieldOf w 3 2) (fieldOf w 1 1 == 1) (fieldOf w 0 0 == 1)) else .error .register
  | 7 => if fieldOf w 23 19 < 16 then .ok (.ldqs (fieldOf w 23 19) (fieldOf w 18 15) (fieldOf w 14 4) (fieldOf w 3 2) (fieldOf w 1 1 == 1) (fieldOf w 0 0 == 1)) else .error .register
  | 8 => if fieldOf w 23 19 < 16 then .ok (.stq (fieldOf w 23 19) (fieldOf w 18 15) (fieldOf w 14 4) (fieldOf w 3 2) (fieldOf w 1 1 == 1) (fieldOf w 0 0 == 1)) else .error .register
  | 9 => if fieldOf w 23 19 < 16 then .ok (.ldt (fieldOf w 23 19) (fieldOf w 18 15) (fieldOf w 14 4) (fieldOf w 3 2) (fieldOf w 1 1 == 1) (fieldOf w 0 0 == 1)) else .error .register
  | 10 => if fieldOf w 23 19 < 16 then .ok (.stt (fieldOf w 23 19) (fieldOf w 18 15) (fieldOf w 14 4) (fieldOf w 3 2) (fieldOf w 1 1 == 1) (fieldOf w 0 0 == 1)) else .error .register
  | 11 => .ok (.ldg (fieldOf w 23 19) (fieldOf w 18 15) (fieldOf w 14 11) (fieldOf w 10 6) (fieldOf w 5 2) (fieldOf w 1 1 == 1) (fieldOf w 0 0 == 1))
  | 12 => .ok (.sts (fieldOf w 23 19) (fieldOf w 18 15) (fieldOf w 14 11) (fieldOf w 10 6) (fieldOf w 5 2) (fieldOf w 1 1 == 1) (fieldOf w 0 0 == 1))
  | 16 => decodeAccessFn16 w
  | 20 => .ok (.cpy (fieldOf w 23 19) (fieldOf w 18 15) (fieldOf w 14 11) (fieldOf w 10 6) (fieldOf w 5 2) (fieldOf w 1 1 == 1) (fieldOf w 0 0 == 1))
  | 21 => .ok (.cpyt (fieldOf w 23 19) (fieldOf w 18 15) (fieldOf w 14 11) (fieldOf w 10 6) (fieldOf w 5 2) (fieldOf w 1 1 == 1) (fieldOf w 0 0 == 1))
  | 22 => .ok (.cpyd (fieldOf w 23 19) (fieldOf w 18 15) (fieldOf w 14 11) (fieldOf w 10 6) (fieldOf w 5 2) (fieldOf w 1 1 == 1) (fieldOf w 0 0 == 1))
  | 23 => if fieldOf w 14 11 < 8 then .ok (.wmcpy (fieldOf w 23 19) (fieldOf w 18 15) (fieldOf w 14 11) (fieldOf w 10 6) (fieldOf w 5 2) (fieldOf w 1 1 == 1) (fieldOf w 0 0 == 1)) else .error .register
  | 24 => if fieldOf w 23 19 < 8 then .ok (.wmld (fieldOf w 23 19) (fieldOf w 18 15) (fieldOf w 14 4) (fieldOf w 3 2) (fieldOf w 1 1 == 1) (fieldOf w 0 0 == 1)) else .error .register
  | 25 => if fieldOf w 23 19 < 8 then .ok (.wmadv (fieldOf w 23 19) (fieldOf w 18 14) (fieldOf w 1 0)) else .error .register
  | 26 => .ok (.enq (fieldOf w 23 19) (fieldOf w 18 15) (fieldOf w 14 11) (fieldOf w 5 2) (fieldOf w 1 1 == 1) (fieldOf w 0 0 == 1))
  | 27 => .ok (.pref (fieldOf w 18 15) (fieldOf w 14 4) (fieldOf w 3 2) (fieldOf w 1 1 == 1) (fieldOf w 0 0 == 1))
  | 28 => decodeAccessFn28 w
  | 29 => .ok (.chk (fieldOf w 23 19) (fieldOf w 13 0))
  | _ => .error .maj

/-- The words of MAJ 0x10 of the vector map (R98, R99), by bits [11:6]. -/
def decodeVectorFn16 (w : Nat) : Except Reject Instr :=
  match fieldOf w 11 6 with
  | 0 => (match vtypeOf (fieldOf w 1 0) with | some tp => .ok (.vabs (fieldOf w 23 18) (fieldOf w 17 12) (fieldOf w 5 3) (fieldOf w 2 2 == 1) tp) | none => .error .code)
  | 1 => (match vtypeOf (fieldOf w 1 0) with | some tp => .ok (.vneg (fieldOf w 23 18) (fieldOf w 17 12) (fieldOf w 5 3) (fieldOf w 2 2 == 1) tp) | none => .error .code)
  | 2 => if fieldOf w 1 0 ≠ 3 then (match vtypeOf (fieldOf w 1 0) with | some tp => .ok (.vrcp (fieldOf w 23 18) (fieldOf w 17 12) (fieldOf w 5 3) (fieldOf w 2 2 == 1) tp) | none => .error .code) else .error .code
  | 3 => if fieldOf w 1 0 ≠ 3 then (match vtypeOf (fieldOf w 1 0) with | some tp => .ok (.vrsq (fieldOf w 23 18) (fieldOf w 17 12) (fieldOf w 5 3) (fieldOf w 2 2 == 1) tp) | none => .error .code) else .error .code
  | 4 => if fieldOf w 1 0 ≠ 3 then (match vtypeOf (fieldOf w 1 0) with | some tp => .ok (.vsqrt (fieldOf w 23 18) (fieldOf w 17 12) (fieldOf w 5 3) (fieldOf w 2 2 == 1) tp) | none => .error .code) else .error .code
  | 5 => if fieldOf w 1 0 ≠ 3 then (match vtypeOf (fieldOf w 1 0) with | some tp => .ok (.vex2 (fieldOf w 23 18) (fieldOf w 17 12) (fieldOf w 5 3) (fieldOf w 2 2 == 1) tp) | none => .error .code) else .error .code
  | 6 => if fieldOf w 1 0 ≠ 3 then (match vtypeOf (fieldOf w 1 0) with | some tp => .ok (.vlg2 (fieldOf w 23 18) (fieldOf w 17 12) (fieldOf w 5 3) (fieldOf w 2 2 == 1) tp) | none => .error .code) else .error .code
  | 7 => if fieldOf w 1 0 ≠ 3 then (match vtypeOf (fieldOf w 1 0) with | some tp => .ok (.vtanh (fieldOf w 23 18) (fieldOf w 17 12) (fieldOf w 5 3) (fieldOf w 2 2 == 1) tp) | none => .error .code) else .error .code
  | 8 => if fieldOf w 1 0 ≠ 3 then (match vtypeOf (fieldOf w 1 0) with | some tp => .ok (.vflr (fieldOf w 23 18) (fieldOf w 17 12) (fieldOf w 5 3) (fieldOf w 2 2 == 1) tp) | none => .error .code) else .error .code
  | 9 => if fieldOf w 1 0 ≠ 3 then (match vtypeOf (fieldOf w 1 0) with | some tp => .ok (.vceil (fieldOf w 23 18) (fieldOf w 17 12) (fieldOf w 5 3) (fieldOf w 2 2 == 1) tp) | none => .error .code) else .error .code
  | _ => .error .code

/-- The words of MAJ 0x1d of the vector map (R98, R99), by bits [11:9]. -/
def decodeVectorFn29 (w : Nat) : Except Reject Instr :=
  match fieldOf w 11 9 with
  | 0 => .ok (.pand (fieldOf w 23 20) (fieldOf w 19 16) (fieldOf w 15 12))
  | 1 => .ok (.por (fieldOf w 23 20) (fieldOf w 19 16) (fieldOf w 15 12))
  | 2 => .ok (.pxor (fieldOf w 23 20) (fieldOf w 19 16) (fieldOf w 15 12))
  | 3 => .ok (.pandn (fieldOf w 23 20) (fieldOf w 19 16) (fieldOf w 15 12))
  | 4 => .ok (.pnot (fieldOf w 23 20) (fieldOf w 19 16))
  | 5 => .ok (.pmov (fieldOf w 23 20) (fieldOf w 19 16))
  | _ => .error .code

/-- The vector map (R98, R99). -/
def decodeVector (w : Nat) : Except Reject Instr :=
  match fieldOf w 29 24 with
  | 0 => if fieldOf w 17 12 < 16 then .ok (.vpop (fieldOf w 23 18) (fieldOf w 17 12) (fieldOf w 5 3) (fieldOf w 2 2 == 1)) else .error .register
  | 1 => if fieldOf w 23 18 < 16 then .ok (.vpsh (fieldOf w 23 18) (fieldOf w 17 12) (fieldOf w 5 3) (fieldOf w 2 2 == 1)) else .error .register
  | 2 => .ok (.vmov (fieldOf w 23 18) (fieldOf w 17 12) (fieldOf w 5 3) (fieldOf w 2 2 == 1))
  | 3 => if fieldOf w 17 12 < 32 then .ok (.vbcst (fieldOf w 23 18) (fieldOf w 17 12) (fieldOf w 5 3) (fieldOf w 2 2 == 1)) else .error .register
  | 4 => .ok (.vidx (fieldOf w 23 18) (fieldOf w 5 3) (fieldOf w 2 2 == 1))
  | 5 => if fieldOf w 23 18 < 32 then if fieldOf w 11 6 < 32 then .ok (.vlane (fieldOf w 23 18) (fieldOf w 17 12) (fieldOf w 11 6)) else .error .register else .error .register
  | 8 => (match vtypeOf (fieldOf w 1 0) with | some tp => .ok (.vadd (fieldOf w 23 18) (fieldOf w 17 12) (fieldOf w 11 6) (fieldOf w 5 3) (fieldOf w 2 2 == 1) tp) | none => .error .code)
  | 9 => (match vtypeOf (fieldOf w 1 0) with | some tp => .ok (.vsub (fieldOf w 23 18) (fieldOf w 17 12) (fieldOf w 11 6) (fieldOf w 5 3) (fieldOf w 2 2 == 1) tp) | none => .error .code)
  | 10 => (match vtypeOf (fieldOf w 1 0) with | some tp => .ok (.vmul (fieldOf w 23 18) (fieldOf w 17 12) (fieldOf w 11 6) (fieldOf w 5 3) (fieldOf w 2 2 == 1) tp) | none => .error .code)
  | 11 => if fieldOf w 1 0 ≠ 3 then (match vtypeOf (fieldOf w 1 0) with | some tp => .ok (.vfma (fieldOf w 23 18) (fieldOf w 17 12) (fieldOf w 11 6) (fieldOf w 5 3) (fieldOf w 2 2 == 1) tp) | none => .error .code) else .error .code
  | 12 => if fieldOf w 1 0 ≠ 3 then (match vtypeOf (fieldOf w 1 0) with | some tp => .ok (.vfms (fieldOf w 23 18) (fieldOf w 17 12) (fieldOf w 11 6) (fieldOf w 5 3) (fieldOf w 2 2 == 1) tp) | none => .error .code) else .error .code
  | 13 => if fieldOf w 1 0 ≠ 3 then (match vtypeOf (fieldOf w 1 0) with | some tp => .ok (.vfnma (fieldOf w 23 18) (fieldOf w 17 12) (fieldOf w 11 6) (fieldOf w 5 3) (fieldOf w 2 2 == 1) tp) | none => .error .code) else .error .code
  | 14 => (match vtypeOf (fieldOf w 1 0) with | some tp => .ok (.vmin (fieldOf w 23 18) (fieldOf w 17 12) (fieldOf w 11 6) (fieldOf w 5 3) (fieldOf w 2 2 == 1) tp) | none => .error .code)
  | 15 => (match vtypeOf (fieldOf w 1 0) with | some tp => .ok (.vmax (fieldOf w 23 18) (fieldOf w 17 12) (fieldOf w 11 6) (fieldOf w 5 3) (fieldOf w 2 2 == 1) tp) | none => .error .code)
  | 16 => decodeVectorFn16 w
  | 17 => if fieldOf w 1 0 ≠ 3 then (match vtypeOf (fieldOf w 1 0) with | some tp => .ok (.vdiv (fieldOf w 23 18) (fieldOf w 17 12) (fieldOf w 11 6) (fieldOf w 5 3) (fieldOf w 2 2 == 1) tp) | none => .error .code) else .error .code
  | 18 => .ok (.vand (fieldOf w 23 18) (fieldOf w 17 12) (fieldOf w 11 6) (fieldOf w 5 3) (fieldOf w 2 2 == 1))
  | 19 => .ok (.vor (fieldOf w 23 18) (fieldOf w 17 12) (fieldOf w 11 6) (fieldOf w 5 3) (fieldOf w 2 2 == 1))
  | 20 => .ok (.vxor (fieldOf w 23 18) (fieldOf w 17 12) (fieldOf w 11 6) (fieldOf w 5 3) (fieldOf w 2 2 == 1))
  | 21 => .ok (.vshl (fieldOf w 23 18) (fieldOf w 17 12) (fieldOf w 11 6) (fieldOf w 5 3) (fieldOf w 2 2 == 1))
  | 22 => .ok (.vshr (fieldOf w 23 18) (fieldOf w 17 12) (fieldOf w 11 6) (fieldOf w 5 3) (fieldOf w 2 2 == 1))
  | 23 => .ok (.vsar (fieldOf w 23 18) (fieldOf w 17 12) (fieldOf w 11 6) (fieldOf w 5 3) (fieldOf w 2 2 == 1))
  | 25 => (match condOf (fieldOf w 19 18) with | some cond => (match vtypeOf (fieldOf w 1 0) with | some tp => .ok (.vcmp (fieldOf w 23 20) (fieldOf w 17 12) (fieldOf w 11 6) (fieldOf w 5 3) (fieldOf w 2 2 == 1) cond tp) | none => .error .code) | none => .error .code)
  | 26 => .ok (.vsel (fieldOf w 23 18) (fieldOf w 17 12) (fieldOf w 11 6) (fieldOf w 5 3) (fieldOf w 2 2 == 1))
  | 27 => .ok (.vcommit (fieldOf w 23 18) (fieldOf w 17 12) (fieldOf w 5 3) (fieldOf w 2 2 == 1))
  | 28 => .ok (.vchk (fieldOf w 23 20) (fieldOf w 17 12) (fieldOf w 5 3) (fieldOf w 2 2 == 1))
  | 29 => decodeVectorFn29 w
  | 30 => .ok (.pcnt (fieldOf w 23 19) (fieldOf w 18 15))
  | 32 => (match cvtDstOf (fieldOf w 8 6) with | some dst => (match vtypeOf (fieldOf w 1 0) with | some tp => .ok (.vcvt (fieldOf w 23 18) (fieldOf w 17 12) (fieldOf w 11 9) (fieldOf w 5 3) (fieldOf w 2 2 == 1) dst tp) | none => .error .code) | none => .error .code)
  | 33 => (match blkOf (fieldOf w 11 9) with | some blk => (match vtypeOf (fieldOf w 1 0) with | some tp => .ok (.vqnt (fieldOf w 23 18) (fieldOf w 17 12) (fieldOf w 8 6) (fieldOf w 5 3) (fieldOf w 2 2 == 1) blk tp) | none => .error .code) | none => .error .code)
  | 34 => (match blkOf (fieldOf w 11 9) with | some blk => (match vtypeOf (fieldOf w 1 0) with | some tp => .ok (.vdqnt (fieldOf w 23 18) (fieldOf w 17 12) (fieldOf w 5 3) (fieldOf w 2 2 == 1) blk tp) | none => .error .code) | none => .error .code)
  | 35 => (match redOpOf (fieldOf w 11 9) with | some op => (match vtypeOf (fieldOf w 1 0) with | some tp => .ok (.vred (fieldOf w 23 18) (fieldOf w 17 12) (fieldOf w 5 3) (fieldOf w 2 2 == 1) op tp) | none => .error .code) | none => .error .code)
  | 36 => (match redOpOf (fieldOf w 11 9) with | some op => (match vtypeOf (fieldOf w 1 0) with | some tp => .ok (.vscan (fieldOf w 23 18) (fieldOf w 17 12) (fieldOf w 5 3) (fieldOf w 2 2 == 1) op tp) | none => .error .code) | none => .error .code)
  | 37 => .ok (.vperm (fieldOf w 23 18) (fieldOf w 17 12) (fieldOf w 11 6) (fieldOf w 5 3) (fieldOf w 2 2 == 1))
  | 38 => if fieldOf w 11 6 < 32 then .ok (.vrot (fieldOf w 23 18) (fieldOf w 17 12) (fieldOf w 11 6) (fieldOf w 5 3) (fieldOf w 2 2 == 1)) else .error .register
  | 40 => if fieldOf w 17 12 < 32 then if fieldOf w 11 6 < 32 then if (fieldOf w 1 0 == 0 || fieldOf w 1 0 == 3) = true then .ok (.vrng (fieldOf w 23 18) (fieldOf w 17 12) (fieldOf w 11 6) (fieldOf w 5 3) (fieldOf w 2 2 == 1) (fieldOf w 1 0 == 3)) else .error .code else .error .register else .error .register
  | _ => .error .maj

/-- The matrix map (R100). -/
def decodeMatrix (w : Nat) : Except Reject Instr :=
  match fieldOf w 29 24 with
  | 0 => (match tileFmtOf (fieldOf w 20 18) with | some ty => .ok (.tcfg (fieldOf w 23 21) (fieldOf w 17 12) ty) | none => .error .code)
  | 1 => .ok (.tpop (fieldOf w 23 21) (fieldOf w 20 17))
  | 2 => .ok (.tpsh (fieldOf w 23 20) (fieldOf w 19 17))
  | 3 => .ok (.tzero (fieldOf w 23 21))
  | 4 => .ok (.wld (fieldOf w 23 22) (fieldOf w 21 18))
  | 5 => (match wmodeOf (fieldOf w 21 19) with | some mode => .ok (.wcfg (fieldOf w 23 22) (fieldOf w 18 15) mode) | none => .error .code)
  | 8 => .ok (.mma (fieldOf w 23 22) (fieldOf w 21 19) (fieldOf w 18 17) (fieldOf w 15 14) (fieldOf w 13 10) (fieldOf w 16 16 == 1))
  | 9 => .ok (.mmat (fieldOf w 23 22) (fieldOf w 21 19) (fieldOf w 18 17) (fieldOf w 15 14) (fieldOf w 13 10) (fieldOf w 16 16 == 1))
  | 12 => (match emitDstOf (fieldOf w 17 15) with | some dst => .ok (.cemit (fieldOf w 23 22) (fieldOf w 21 18) (fieldOf w 14 12) dst (fieldOf w 11 11 == 1)) | none => .error .code)
  | 13 => .ok (.cpsh (fieldOf w 23 22) (fieldOf w 21 18))
  | 14 => .ok (.cpop (fieldOf w 23 22) (fieldOf w 21 18))
  | 15 => .ok (.cscl (fieldOf w 23 22) (fieldOf w 21 17))
  | 16 => .ok (.ftset (fieldOf w 23 20) (fieldOf w 19 15))
  | 17 => .ok (.ftget (fieldOf w 23 19) (fieldOf w 18 15))
  | 18 => .ok (.tmark (fieldOf w 15 0))
  | 19 => .ok (.tbudg (fieldOf w 23 19))
  | 21 => if fieldOf w 15 13 < 4 then .ok (.tstat (fieldOf w 23 19) (fieldOf w 18 16) (fieldOf w 15 13)) else .error .code
  | _ => .error .maj

/-- The control map (R102). -/
def decodeControl (w : Nat) : Except Reject Instr :=
  match fieldOf w 29 24 with
  | 0 => (match scopeOf (fieldOf w 9 7) with | some sc => .ok (.ssig (fieldOf w 18 15) (fieldOf w 14 10) sc (fieldOf w 0 0 == 1)) | none => .error .scope)
  | 1 => (match scopeOf (fieldOf w 9 7) with | some sc => .ok (.swait (fieldOf w 18 15) sc (fieldOf w 0 0 == 1)) | none => .error .scope)
  | 2 => (match scopeOf (fieldOf w 9 7) with | some sc => .ok (.stry (fieldOf w 23 19) (fieldOf w 18 15) sc (fieldOf w 0 0 == 1)) | none => .error .scope)
  | 4 => .ok (.binit (fieldOf w 18 15) (fieldOf w 14 10) (fieldOf w 0 0 == 1))
  | 5 => (match barOpOf (fieldOf w 3 1) with | some op => (match scopeOf (fieldOf w 9 7) with | some sc => .ok (.barv (fieldOf w 18 15) (fieldOf w 14 10) op sc (fieldOf w 0 0 == 1)) | none => .error .scope) | none => .error .code)
  | 6 => .ok (.bexp (fieldOf w 18 15) (fieldOf w 14 10) (fieldOf w 0 0 == 1))
  | 7 => (match scopeOf (fieldOf w 9 7) with | some sc => .ok (.bwait (fieldOf w 18 15) sc (fieldOf w 0 0 == 1)) | none => .error .scope)
  | 8 => .ok (.btest (fieldOf w 23 19) (fieldOf w 18 15) (fieldOf w 0 0 == 1))
  | 10 => (match scopeOf (fieldOf w 9 7) with | some sc => .ok (.acq (fieldOf w 18 15) sc (fieldOf w 0 0 == 1)) | none => .error .scope)
  | 11 => (match scopeOf (fieldOf w 9 7) with | some sc => .ok (.rel (fieldOf w 18 15) sc (fieldOf w 0 0 == 1)) | none => .error .scope)
  | 12 => .ok (.publ (fieldOf w 18 15))
  | 13 => .ok (.shopen (fieldOf w 23 19) (fieldOf w 18 15))
  | 16 => .ok (.remq (fieldOf w 18 15) (fieldOf w 13 10))
  | 17 => .ok (.remqt (fieldOf w 23 19) (fieldOf w 18 15) (fieldOf w 13 10))
  | 18 => .ok (.wpop (fieldOf w 23 19) (fieldOf w 18 15) (fieldOf w 13 10))
  | 19 => .ok (.wpush (fieldOf w 18 15) (fieldOf w 13 10))
  | 20 => .ok (.wsteal (fieldOf w 23 19) (fieldOf w 18 15) (fieldOf w 13 10))
  | 24 => .ok (.coll (fieldOf w 23 19) (fieldOf w 18 15) (fieldOf w 1 1 == 1))
  | 25 => .ok (.upd (fieldOf w 23 19) (fieldOf w 18 15))
  | 26 => .ok (.msrch (fieldOf w 23 19) (fieldOf w 18 15))
  | 28 => .ok (.gfork (fieldOf w 23 19) (fieldOf w 18 15))
  | 29 => .ok (.grewd (fieldOf w 23 19) (fieldOf w 18 15) (fieldOf w 14 10))
  | 30 => .ok (.gbar (fieldOf w 23 19) (fieldOf w 18 15))
  | 31 => .ok (.gcanc (fieldOf w 18 15) (fieldOf w 14 10))
  | 32 => if fieldOf w 3 1 < 6 then .ok (.gqry (fieldOf w 23 19) (fieldOf w 18 15) (fieldOf w 3 1)) else .error .code
  | 33 => .ok (.gyld (fieldOf w 18 15))
  | 36 => .ok (.vqry (fieldOf w 23 19) (fieldOf w 14 10))
  | 37 => .ok (.ecnt (fieldOf w 23 19) (fieldOf w 14 10))
  | 38 => .ok (.tend)
  | 39 => .ok (.step (fieldOf w 23 19))
  | 40 => .ok (.tret)
  | 41 => .ok (.tack)
  | 42 => .ok (.sysc (fieldOf w 18 0))
  | 43 => .ok (.halt)
  | 44 => .ok (.sleep (fieldOf w 23 19))
  | _ => .error .maj

/-- The instruction that the cluster `cl` (A = 0, V = 1, M = 2, C = 3) decodes from a word, or why the word is a
reserved encoding (R86, R105). -/
def decode (cl w : Nat) : Except Reject Instr :=
  if fieldOf w 31 31 = 0 then decodeShared w
  else match cl with
    | 0 => decodeAccess w
    | 1 => decodeVector w
    | 2 => decodeMatrix w
    | _ => decodeControl w

/-- The Y bit of a word (R85). -/
def wordY (w : Nat) : Bool := fieldOf w 30 30 == 1

/-- The body of an instruction's word: its fields at the places of R88-R102. -/
def encodeBody (i : Instr) : Nat :=
  match i with
  | .nop => 0
  | .add d a b => d * 524288 + a * 16384 + b * 512
  | .sub d a b => d * 524288 + a * 16384 + b * 512 + 1
  | .and d a b => d * 524288 + a * 16384 + b * 512 + 2
  | .or d a b => d * 524288 + a * 16384 + b * 512 + 3
  | .xor d a b => d * 524288 + a * 16384 + b * 512 + 4
  | .andn d a b => d * 524288 + a * 16384 + b * 512 + 5
  | .shl d a b => d * 524288 + a * 16384 + b * 512 + 6
  | .shr d a b => d * 524288 + a * 16384 + b * 512 + 7
  | .sar d a b => d * 524288 + a * 16384 + b * 512 + 8
  | .rol d a b => d * 524288 + a * 16384 + b * 512 + 9
  | .min d a b => d * 524288 + a * 16384 + b * 512 + 10
  | .max d a b => d * 524288 + a * 16384 + b * 512 + 11
  | .minu d a b => d * 524288 + a * 16384 + b * 512 + 12
  | .maxu d a b => d * 524288 + a * 16384 + b * 512 + 13
  | .seq d a b => d * 524288 + a * 16384 + b * 512 + 14
  | .slt d a b => d * 524288 + a * 16384 + b * 512 + 15
  | .sltu d a b => d * 524288 + a * 16384 + b * 512 + 16
  | .clz d a => d * 524288 + a * 16384 + 17
  | .popc d a => d * 524288 + a * 16384 + 18
  | .sel d a b => d * 524288 + a * 16384 + b * 512 + 19
  | .mul d a b => d * 524288 + a * 16384 + b * 512
  | .mulh d a b => d * 524288 + a * 16384 + b * 512 + 1
  | .mulhu d a b => d * 524288 + a * 16384 + b * 512 + 2
  | .div d a b => d * 524288 + a * 16384 + b * 512 + 3
  | .divu d a b => d * 524288 + a * 16384 + b * 512 + 4
  | .rem d a b => d * 524288 + a * 16384 + b * 512 + 5
  | .remu d a b => d * 524288 + a * 16384 + b * 512 + 6
  | .addi d a imm => d * 524288 + a * 16384 + imm
  | .andi d a imm => d * 524288 + a * 16384 + imm
  | .ori d a imm => d * 524288 + a * 16384 + imm
  | .xori d a imm => d * 524288 + a * 16384 + imm
  | .shli d a imm => d * 524288 + a * 16384 + imm
  | .shri d a imm => d * 524288 + a * 16384 + imm
  | .sari d a imm => d * 524288 + a * 16384 + imm
  | .slti d a imm => d * 524288 + a * 16384 + imm
  | .sltiu d a imm => d * 524288 + a * 16384 + imm
  | .lui d imm => d * 524288 + imm
  | .aget d a hi => d * 524288 + a * 16384 + (if hi then 1 else 0)
  | .aadd ad aa sb sh => ad * 1048576 + aa * 65536 + sb * 2048 + sh * 256
  | .aaddi ad aa imm => ad * 1048576 + aa * 65536 + imm
  | .aset ad aa sb => ad * 1048576 + aa * 65536 + sb * 2048
  | .alui ad aa imm => ad * 1048576 + aa * 65536 + imm
  | .asub ad aa sb sh => ad * 1048576 + aa * 65536 + sb * 2048 + sh * 256
  | .beq a b off => a * 524288 + b * 16384 + off
  | .bne a b off => a * 524288 + b * 16384 + off
  | .blt a b off => a * 524288 + b * 16384 + off
  | .bge a b off => a * 524288 + b * 16384 + off
  | .bltu a b off => a * 524288 + b * 16384 + off
  | .bgeu a b off => a * 524288 + b * 16384 + off
  | .jmp off => off
  | .call off => off
  | .jr a imm => a * 65536 + imm
  | .loop lvl src len rot => lvl * 4194304 + src * 16384 + len + (if rot then 1 else 0) * 2097152
  | .loopImm lvl n len rot => lvl * 4194304 + n * 16384 + len + (if rot then 1 else 0) * 2097152 + 524288
  | .loopq lvl q len rot => lvl * 4194304 + q * 16384 + len + (if rot then 1 else 0) * 2097152 + 1048576
  | .lbrk lvl a => lvl * 4194304 + a * 16384
  | .lrot imm => imm
  | .bqpush tgt a => tgt + a * 16384
  | .bqbr off => off
  | .qput q a => q * 524288 + a * 16384
  | .qget d q => d * 524288 + q * 16384
  | .qdrop q => q * 524288
  | .qmark q => q * 524288
  | .qstat d q item => d * 524288 + q * 16384 + item
  | .hsig h => h * 524288
  | .hwait h => h * 524288
  | .htry d h => d * 524288 + h * 16384
  | .sread d r => d * 524288 + sysRegCode r
  | .swrite a r => a * 16384 + sysRegCode r
  | .fence sc l s c => scopeCode sc + (if l then 1 else 0) * 8 + (if s then 1 else 0) * 16 + (if c then 1 else 0) * 32
  | .tick d hi => d * 524288 + (if hi then 1 else 0)
  | .trap imm => imm
  | .brk imm => imm
  | .ld t a off ch mu sp => t * 524288 + a * 32768 + off * 16 + ch * 4 + (if mu then 1 else 0) * 2 + (if sp then 1 else 0)
  | .lds t a off ch mu sp => t * 524288 + a * 32768 + off * 16 + ch * 4 + (if mu then 1 else 0) * 2 + (if sp then 1 else 0)
  | .lda t a off ch mu sp => t * 524288 + a * 32768 + off * 16 + ch * 4 + (if mu then 1 else 0) * 2 + (if sp then 1 else 0)
  | .ldx t a off ch mu sp => t * 524288 + a * 32768 + off * 16 + ch * 4 + (if mu then 1 else 0) * 2 + (if sp then 1 else 0)
  | .st t a off ch mu sp => t * 524288 + a * 32768 + off * 16 + ch * 4 + (if mu then 1 else 0) * 2 + (if sp then 1 else 0)
  | .stl t a off ch mu sp => t * 524288 + a * 32768 + off * 16 + ch * 4 + (if mu then 1 else 0) * 2 + (if sp then 1 else 0)
  | .ldq t a off ch mu sp => t * 524288 + a * 32768 + off * 16 + ch * 4 + (if mu then 1 else 0) * 2 + (if sp then 1 else 0)
  | .ldqs t a off ch mu sp => t * 524288 + a * 32768 + off * 16 + ch * 4 + (if mu then 1 else 0) * 2 + (if sp then 1 else 0)
  | .stq t a off ch mu sp => t * 524288 + a * 32768 + off * 16 + ch * 4 + (if mu then 1 else 0) * 2 + (if sp then 1 else 0)
  | .ldt t a off ch mu sp => t * 524288 + a * 32768 + off * 16 + ch * 4 + (if mu then 1 else 0) * 2 + (if sp then 1 else 0)
  | .stt t a off ch mu sp => t * 524288 + a * 32768 + off * 16 + ch * 4 + (if mu then 1 else 0) * 2 + (if sp then 1 else 0)
  | .ldg tok ad src n ab sd ss => tok * 524288 + ad * 32768 + src * 2048 + n * 64 + ab * 4 + (if sd then 1 else 0) * 2 + (if ss then 1 else 0)
  | .sts tok ad src n ab sd ss => tok * 524288 + ad * 32768 + src * 2048 + n * 64 + ab * 4 + (if sd then 1 else 0) * 2 + (if ss then 1 else 0)
  | .atadd d a b sc mu sp => d * 524288 + a * 32768 + b * 1024 + scopeCode sc * 8 + (if mu then 1 else 0) * 2 + (if sp then 1 else 0)
  | .atmin d a b sc mu sp => d * 524288 + a * 32768 + b * 1024 + scopeCode sc * 8 + (if mu then 1 else 0) * 2 + (if sp then 1 else 0) + 64
  | .atmax d a b sc mu sp => d * 524288 + a * 32768 + b * 1024 + scopeCode sc * 8 + (if mu then 1 else 0) * 2 + (if sp then 1 else 0) + 128
  | .atminu d a b sc mu sp => d * 524288 + a * 32768 + b * 1024 + scopeCode sc * 8 + (if mu then 1 else 0) * 2 + (if sp then 1 else 0) + 192
  | .atmaxu d a b sc mu sp => d * 524288 + a * 32768 + b * 1024 + scopeCode sc * 8 + (if mu then 1 else 0) * 2 + (if sp then 1 else 0) + 256
  | .atand d a b sc mu sp => d * 524288 + a * 32768 + b * 1024 + scopeCode sc * 8 + (if mu then 1 else 0) * 2 + (if sp then 1 else 0) + 320
  | .ator d a b sc mu sp => d * 524288 + a * 32768 + b * 1024 + scopeCode sc * 8 + (if mu then 1 else 0) * 2 + (if sp then 1 else 0) + 384
  | .atxor d a b sc mu sp => d * 524288 + a * 32768 + b * 1024 + scopeCode sc * 8 + (if mu then 1 else 0) * 2 + (if sp then 1 else 0) + 448
  | .atswp d a b sc mu sp => d * 524288 + a * 32768 + b * 1024 + scopeCode sc * 8 + (if mu then 1 else 0) * 2 + (if sp then 1 else 0) + 512
  | .atcas d a b sc mu sp => d * 524288 + a * 32768 + b * 1024 + scopeCode sc * 8 + (if mu then 1 else 0) * 2 + (if sp then 1 else 0) + 576
  | .atfadd d a b sc mu sp => d * 524288 + a * 32768 + b * 1024 + scopeCode sc * 8 + (if mu then 1 else 0) * 2 + (if sp then 1 else 0) + 640
  | .cpy tok ad src n ab sd ss => tok * 524288 + ad * 32768 + src * 2048 + n * 64 + ab * 4 + (if sd then 1 else 0) * 2 + (if ss then 1 else 0)
  | .cpyt tok ad src n ab sd ss => tok * 524288 + ad * 32768 + src * 2048 + n * 64 + ab * 4 + (if sd then 1 else 0) * 2 + (if ss then 1 else 0)
  | .cpyd tok ad src n ab sd ss => tok * 524288 + ad * 32768 + src * 2048 + n * 64 + ab * 4 + (if sd then 1 else 0) * 2 + (if ss then 1 else 0)
  | .wmcpy tok ad src n ab sd ss => tok * 524288 + ad * 32768 + src * 2048 + n * 64 + ab * 4 + (if sd then 1 else 0) * 2 + (if ss then 1 else 0)
  | .wmld t a off ch mu sp => t * 524288 + a * 32768 + off * 16 + ch * 4 + (if mu then 1 else 0) * 2 + (if sp then 1 else 0)
  | .wmadv d a axis => d * 524288 + a * 16384 + axis
  | .enq tok ad src ab sd ss => tok * 524288 + ad * 32768 + src * 2048 + ab * 4 + (if sd then 1 else 0) * 2 + (if ss then 1 else 0)
  | .pref a off ch mu sp => a * 32768 + off * 16 + ch * 4 + (if mu then 1 else 0) * 2 + (if sp then 1 else 0)
  | .clean a off ch mu sp => a * 32768 + off * 16 + ch * 4 + (if mu then 1 else 0) * 2 + (if sp then 1 else 0)
  | .inval a off ch mu sp => a * 32768 + off * 16 + ch * 4 + (if mu then 1 else 0) * 2 + (if sp then 1 else 0) + 524288
  | .chk a off => a * 524288 + off
  | .vpop vd q pg pn => vd * 262144 + q * 4096 + pg * 8 + (if pn then 1 else 0) * 4
  | .vpsh q va pg pn => q * 262144 + va * 4096 + pg * 8 + (if pn then 1 else 0) * 4
  | .vmov vd va pg pn => vd * 262144 + va * 4096 + pg * 8 + (if pn then 1 else 0) * 4
  | .vbcst vd sa pg pn => vd * 262144 + sa * 4096 + pg * 8 + (if pn then 1 else 0) * 4
  | .vidx vd pg pn => vd * 262144 + pg * 8 + (if pn then 1 else 0) * 4
  | .vlane sd va sb => sd * 262144 + va * 4096 + sb * 64
  | .vadd vd va vb pg pn tp => vd * 262144 + va * 4096 + vb * 64 + pg * 8 + (if pn then 1 else 0) * 4 + vtypeCode tp
  | .vsub vd va vb pg pn tp => vd * 262144 + va * 4096 + vb * 64 + pg * 8 + (if pn then 1 else 0) * 4 + vtypeCode tp
  | .vmul vd va vb pg pn tp => vd * 262144 + va * 4096 + vb * 64 + pg * 8 + (if pn then 1 else 0) * 4 + vtypeCode tp
  | .vfma vd va vb pg pn tp => vd * 262144 + va * 4096 + vb * 64 + pg * 8 + (if pn then 1 else 0) * 4 + vtypeCode tp
  | .vfms vd va vb pg pn tp => vd * 262144 + va * 4096 + vb * 64 + pg * 8 + (if pn then 1 else 0) * 4 + vtypeCode tp
  | .vfnma vd va vb pg pn tp => vd * 262144 + va * 4096 + vb * 64 + pg * 8 + (if pn then 1 else 0) * 4 + vtypeCode tp
  | .vmin vd va vb pg pn tp => vd * 262144 + va * 4096 + vb * 64 + pg * 8 + (if pn then 1 else 0) * 4 + vtypeCode tp
  | .vmax vd va vb pg pn tp => vd * 262144 + va * 4096 + vb * 64 + pg * 8 + (if pn then 1 else 0) * 4 + vtypeCode tp
  | .vabs vd va pg pn tp => vd * 262144 + va * 4096 + pg * 8 + (if pn then 1 else 0) * 4 + vtypeCode tp
  | .vneg vd va pg pn tp => vd * 262144 + va * 4096 + pg * 8 + (if pn then 1 else 0) * 4 + vtypeCode tp + 64
  | .vrcp vd va pg pn tp => vd * 262144 + va * 4096 + pg * 8 + (if pn then 1 else 0) * 4 + vtypeCode tp + 128
  | .vrsq vd va pg pn tp => vd * 262144 + va * 4096 + pg * 8 + (if pn then 1 else 0) * 4 + vtypeCode tp + 192
  | .vsqrt vd va pg pn tp => vd * 262144 + va * 4096 + pg * 8 + (if pn then 1 else 0) * 4 + vtypeCode tp + 256
  | .vex2 vd va pg pn tp => vd * 262144 + va * 4096 + pg * 8 + (if pn then 1 else 0) * 4 + vtypeCode tp + 320
  | .vlg2 vd va pg pn tp => vd * 262144 + va * 4096 + pg * 8 + (if pn then 1 else 0) * 4 + vtypeCode tp + 384
  | .vtanh vd va pg pn tp => vd * 262144 + va * 4096 + pg * 8 + (if pn then 1 else 0) * 4 + vtypeCode tp + 448
  | .vflr vd va pg pn tp => vd * 262144 + va * 4096 + pg * 8 + (if pn then 1 else 0) * 4 + vtypeCode tp + 512
  | .vceil vd va pg pn tp => vd * 262144 + va * 4096 + pg * 8 + (if pn then 1 else 0) * 4 + vtypeCode tp + 576
  | .vdiv vd va vb pg pn tp => vd * 262144 + va * 4096 + vb * 64 + pg * 8 + (if pn then 1 else 0) * 4 + vtypeCode tp
  | .vand vd va vb pg pn => vd * 262144 + va * 4096 + vb * 64 + pg * 8 + (if pn then 1 else 0) * 4
  | .vor vd va vb pg pn => vd * 262144 + va * 4096 + vb * 64 + pg * 8 + (if pn then 1 else 0) * 4
  | .vxor vd va vb pg pn => vd * 262144 + va * 4096 + vb * 64 + pg * 8 + (if pn then 1 else 0) * 4
  | .vshl vd va vb pg pn => vd * 262144 + va * 4096 + vb * 64 + pg * 8 + (if pn then 1 else 0) * 4
  | .vshr vd va vb pg pn => vd * 262144 + va * 4096 + vb * 64 + pg * 8 + (if pn then 1 else 0) * 4
  | .vsar vd va vb pg pn => vd * 262144 + va * 4096 + vb * 64 + pg * 8 + (if pn then 1 else 0) * 4
  | .vcmp pd va vb pg pn cond tp => pd * 1048576 + va * 4096 + vb * 64 + pg * 8 + (if pn then 1 else 0) * 4 + condCode cond * 262144 + vtypeCode tp
  | .vsel vd va vb pg pn => vd * 262144 + va * 4096 + vb * 64 + pg * 8 + (if pn then 1 else 0) * 4
  | .vcommit vd va pg pn => vd * 262144 + va * 4096 + pg * 8 + (if pn then 1 else 0) * 4
  | .vchk pd va pg pn => pd * 1048576 + va * 4096 + pg * 8 + (if pn then 1 else 0) * 4
  | .pand pd pa pb => pd * 1048576 + pa * 65536 + pb * 4096
  | .por pd pa pb => pd * 1048576 + pa * 65536 + pb * 4096 + 512
  | .pxor pd pa pb => pd * 1048576 + pa * 65536 + pb * 4096 + 1024
  | .pandn pd pa pb => pd * 1048576 + pa * 65536 + pb * 4096 + 1536
  | .pnot pd pa => pd * 1048576 + pa * 65536 + 2048
  | .pmov pd pa => pd * 1048576 + pa * 65536 + 2560
  | .pcnt sd pa => sd * 524288 + pa * 32768
  | .vcvt vd va rm pg pn dst tp => vd * 262144 + va * 4096 + rm * 512 + pg * 8 + (if pn then 1 else 0) * 4 + cvtDstCode dst * 64 + vtypeCode tp
  | .vqnt vd va rm pg pn blk tp => vd * 262144 + va * 4096 + rm * 64 + pg * 8 + (if pn then 1 else 0) * 4 + blkCode blk * 512 + vtypeCode tp
  | .vdqnt vd va pg pn blk tp => vd * 262144 + va * 4096 + pg * 8 + (if pn then 1 else 0) * 4 + blkCode blk * 512 + vtypeCode tp
  | .vred vd va pg pn op tp => vd * 262144 + va * 4096 + pg * 8 + (if pn then 1 else 0) * 4 + redOpCode op * 512 + vtypeCode tp
  | .vscan vd va pg pn op tp => vd * 262144 + va * 4096 + pg * 8 + (if pn then 1 else 0) * 4 + redOpCode op * 512 + vtypeCode tp
  | .vperm vd va vb pg pn => vd * 262144 + va * 4096 + vb * 64 + pg * 8 + (if pn then 1 else 0) * 4
  | .vrot vd va sb pg pn => vd * 262144 + va * 4096 + sb * 64 + pg * 8 + (if pn then 1 else 0) * 4
  | .vrng vd sa sb pg pn raw => vd * 262144 + sa * 4096 + sb * 64 + pg * 8 + (if pn then 1 else 0) * 4 + (if raw then 3 else 0)
  | .tcfg td rows1 ty => td * 2097152 + rows1 * 4096 + tileFmtCode ty * 262144
  | .tpop td q => td * 2097152 + q * 131072
  | .tpsh q ta => q * 1048576 + ta * 131072
  | .tzero td => td * 2097152
  | .wld wd q => wd * 4194304 + q * 262144
  | .wcfg wd fi mode => wd * 4194304 + fi * 32768 + wmodeCode mode * 524288
  | .mma cd ta wb lvl fi fl => cd * 4194304 + ta * 524288 + wb * 131072 + lvl * 16384 + fi * 1024 + (if fl then 1 else 0) * 65536
  | .mmat cd ta wb lvl fi fl => cd * 4194304 + ta * 524288 + wb * 131072 + lvl * 16384 + fi * 1024 + (if fl then 1 else 0) * 65536
  | .cemit ca q rm dst z => ca * 4194304 + q * 262144 + rm * 4096 + emitDstCode dst * 32768 + (if z then 1 else 0) * 2048
  | .cpsh ca q => ca * 4194304 + q * 262144
  | .cpop cd q => cd * 4194304 + q * 262144
  | .cscl cd sa => cd * 4194304 + sa * 131072
  | .ftset fi sa => fi * 1048576 + sa * 32768
  | .ftget sd fi => sd * 524288 + fi * 32768
  | .tmark imm => imm
  | .tbudg sd => sd * 524288
  | .tstat sd ta item => sd * 524288 + ta * 65536 + item * 8192
  | .ssig a b sc sp => a * 32768 + b * 1024 + scopeCode sc * 128 + (if sp then 1 else 0)
  | .swait a sc sp => a * 32768 + scopeCode sc * 128 + (if sp then 1 else 0)
  | .stry d a sc sp => d * 524288 + a * 32768 + scopeCode sc * 128 + (if sp then 1 else 0)
  | .binit a b sp => a * 32768 + b * 1024 + (if sp then 1 else 0)
  | .barv a b op sc sp => a * 32768 + b * 1024 + barOpCode op * 2 + scopeCode sc * 128 + (if sp then 1 else 0)
  | .bexp a b sp => a * 32768 + b * 1024 + (if sp then 1 else 0)
  | .bwait a sc sp => a * 32768 + scopeCode sc * 128 + (if sp then 1 else 0)
  | .btest d a sp => d * 524288 + a * 32768 + (if sp then 1 else 0)
  | .acq a sc sp => a * 32768 + scopeCode sc * 128 + (if sp then 1 else 0)
  | .rel a sc sp => a * 32768 + scopeCode sc * 128 + (if sp then 1 else 0)
  | .publ a => a * 32768
  | .shopen d a => d * 524288 + a * 32768
  | .remq a b => a * 32768 + b * 1024
  | .remqt d a b => d * 524288 + a * 32768 + b * 1024
  | .wpop d a b => d * 524288 + a * 32768 + b * 1024
  | .wpush a b => a * 32768 + b * 1024
  | .wsteal d a b => d * 524288 + a * 32768 + b * 1024
  | .coll d a st => d * 524288 + a * 32768 + (if st then 1 else 0) * 2
  | .upd d a => d * 524288 + a * 32768
  | .msrch d a => d * 524288 + a * 32768
  | .gfork d a => d * 524288 + a * 32768
  | .grewd d a b => d * 524288 + a * 32768 + b * 1024
  | .gbar d a => d * 524288 + a * 32768
  | .gcanc a b => a * 32768 + b * 1024
  | .gqry d a item => d * 524288 + a * 32768 + item * 2
  | .gyld a => a * 32768
  | .vqry d b => d * 524288 + b * 1024
  | .ecnt d b => d * 524288 + b * 1024
  | .tend => 0
  | .step d => d * 524288
  | .tret => 0
  | .tack => 0
  | .sysc imm => imm
  | .halt => 0
  | .sleep d => d * 524288
  | .closingBranch => 0
  | .scoreboardedResult => 0
  | .queueLoadLands => 0
  | .mmaCompletion => 0
  | .engineCompletion => 0
  | .collectiveCompletion => 0
  | .updCompletion => 0
  | .msrchCompletion => 0
  | .trapTaken => 0
  | .qdead => 0
  | .windowReplay => 0
  | .timingTrip => 0
  | .tileDispatch => 0
  | .nodeLaunch => 0
  | .waiterReserving => 0
  | .nodeBoundaryPreemption => 0
  | .stepBoundary => 0
  | .stepMirrorComplete => 0
  | .pontilCommit => 0
  | .pontilFailure => 0
  | .deviceLost => 0
  | .gangStart => 0
  | .groupDeadlineExpiry => 0
  | .groupResume => 0
  | .pageWalk => 0
  | .translationBuildEnd => 0
  | .translationEviction => 0
  | .substitutionInstall => 0
  | .epochStart => 0
  | .budgetInterval => 0
  | .operatingPointStep => 0
  | .rowFailure => 0
  | .vaultEvacuation => 0
  | .tokenGrant => 0
  | .clockProposal => 0
  | .flitReceived => 0
  | .messageReceived => 0
  | .messageUndeliverable => 0
  | .laneLoss => 0
  | .lanesTrained => 0
  | .trainingTimeout => 0
  | .firmwareRetry => 0
  | .hostBridgeAccess => 0
  | .boot => 0
  | .registerWrite => 0
  | .evClear => 0
  | .cplack => 0
  | .heldGo => 0
  | .engineCpy => 0
  | .engineCpyt => 0
  | .engineCpyd => 0
  | .engineWmcpy => 0
  | .engineLdg => 0
  | .engineSts => 0
  | .dieColl => 0
  | .dieCollSt => 0
  | .dieUpd => 0
  | .dieMsrch => 0
  | .contextNop => 0
  | .nrun => 0
  | .grun => 0
  | .gset => 0
  | .hostNop => 0
  | .cdefine => 0
  | .cload => 0
  | .chot => 0
  | .cpark => 0
  | .cmigrate => 0
  | .csuspend => 0
  | .cresume => 0
  | .cretire => 0
  | .crestore => 0
  | .cquery => 0
  | .olink => 0
  | .subload => 0
  | .opset => 0
  | .pbudget => 0
  | .pgrant => 0
  | .mread => 0
  | .keyset => 0
  | .keyclr => 0
  | .shoot => 0
  | .attest => 0
  | .cfgload => 0
  | .portctl => 0
  | .sleepExpiry => 0
  | .syscReply => 0
  | .trapStub => 0
  | .xlateStub => 0
  | .loopIllegalKind => 0
  | .softError => 0
  | .endToEndResend => 0
  | .pcSample => 0

/-- H and MAJ of an instruction's word, in place (R90, R96, R98, R100, R102). -/
def encodeMajor (i : Instr) : Nat :=
  match i with
  | .nop => 0x0
  | .add _ _ _ => 0x1000000
  | .sub _ _ _ => 0x1000000
  | .and _ _ _ => 0x1000000
  | .or _ _ _ => 0x1000000
  | .xor _ _ _ => 0x1000000
  | .andn _ _ _ => 0x1000000
  | .shl _ _ _ => 0x1000000
  | .shr _ _ _ => 0x1000000
  | .sar _ _ _ => 0x1000000
  | .rol _ _ _ => 0x1000000
  | .min _ _ _ => 0x1000000
  | .max _ _ _ => 0x1000000
  | .minu _ _ _ => 0x1000000
  | .maxu _ _ _ => 0x1000000
  | .seq _ _ _ => 0x1000000
  | .slt _ _ _ => 0x1000000
  | .sltu _ _ _ => 0x1000000
  | .clz _ _ => 0x1000000
  | .popc _ _ => 0x1000000
  | .sel _ _ _ => 0x1000000
  | .mul _ _ _ => 0x2000000
  | .mulh _ _ _ => 0x2000000
  | .mulhu _ _ _ => 0x2000000
  | .div _ _ _ => 0x2000000
  | .divu _ _ _ => 0x2000000
  | .rem _ _ _ => 0x2000000
  | .remu _ _ _ => 0x2000000
  | .addi _ _ _ => 0x3000000
  | .andi _ _ _ => 0x4000000
  | .ori _ _ _ => 0x5000000
  | .xori _ _ _ => 0x6000000
  | .shli _ _ _ => 0x7000000
  | .shri _ _ _ => 0x8000000
  | .sari _ _ _ => 0x9000000
  | .slti _ _ _ => 0xa000000
  | .sltiu _ _ _ => 0xb000000
  | .lui _ _ => 0xc000000
  | .aget _ _ _ => 0xd000000
  | .aadd _ _ _ _ => 0x10000000
  | .aaddi _ _ _ => 0x11000000
  | .aset _ _ _ => 0x12000000
  | .alui _ _ _ => 0x13000000
  | .asub _ _ _ _ => 0x14000000
  | .beq _ _ _ => 0x18000000
  | .bne _ _ _ => 0x19000000
  | .blt _ _ _ => 0x1a000000
  | .bge _ _ _ => 0x1b000000
  | .bltu _ _ _ => 0x1c000000
  | .bgeu _ _ _ => 0x1d000000
  | .jmp _ => 0x1e000000
  | .call _ => 0x1f000000
  | .jr _ _ => 0x20000000
  | .loop _ _ _ _ => 0x21000000
  | .loopImm _ _ _ _ => 0x21000000
  | .loopq _ _ _ _ => 0x22000000
  | .lbrk _ _ => 0x23000000
  | .lrot _ => 0x24000000
  | .bqpush _ _ => 0x26000000
  | .bqbr _ => 0x27000000
  | .qput _ _ => 0x28000000
  | .qget _ _ => 0x29000000
  | .qdrop _ => 0x2a000000
  | .qmark _ => 0x2b000000
  | .qstat _ _ _ => 0x2c000000
  | .hsig _ => 0x2d000000
  | .hwait _ => 0x2e000000
  | .htry _ _ => 0x2f000000
  | .sread _ _ => 0x30000000
  | .swrite _ _ => 0x31000000
  | .fence _ _ _ _ => 0x32000000
  | .tick _ _ => 0x33000000
  | .trap _ => 0x3e000000
  | .brk _ => 0x3f000000
  | .ld _ _ _ _ _ _ => 0x80000000
  | .lds _ _ _ _ _ _ => 0x81000000
  | .lda _ _ _ _ _ _ => 0x82000000
  | .ldx _ _ _ _ _ _ => 0x83000000
  | .st _ _ _ _ _ _ => 0x84000000
  | .stl _ _ _ _ _ _ => 0x85000000
  | .ldq _ _ _ _ _ _ => 0x86000000
  | .ldqs _ _ _ _ _ _ => 0x87000000
  | .stq _ _ _ _ _ _ => 0x88000000
  | .ldt _ _ _ _ _ _ => 0x89000000
  | .stt _ _ _ _ _ _ => 0x8a000000
  | .ldg _ _ _ _ _ _ _ => 0x8b000000
  | .sts _ _ _ _ _ _ _ => 0x8c000000
  | .atadd _ _ _ _ _ _ => 0x90000000
  | .atmin _ _ _ _ _ _ => 0x90000000
  | .atmax _ _ _ _ _ _ => 0x90000000
  | .atminu _ _ _ _ _ _ => 0x90000000
  | .atmaxu _ _ _ _ _ _ => 0x90000000
  | .atand _ _ _ _ _ _ => 0x90000000
  | .ator _ _ _ _ _ _ => 0x90000000
  | .atxor _ _ _ _ _ _ => 0x90000000
  | .atswp _ _ _ _ _ _ => 0x90000000
  | .atcas _ _ _ _ _ _ => 0x90000000
  | .atfadd _ _ _ _ _ _ => 0x90000000
  | .cpy _ _ _ _ _ _ _ => 0x94000000
  | .cpyt _ _ _ _ _ _ _ => 0x95000000
  | .cpyd _ _ _ _ _ _ _ => 0x96000000
  | .wmcpy _ _ _ _ _ _ _ => 0x97000000
  | .wmld _ _ _ _ _ _ => 0x98000000
  | .wmadv _ _ _ => 0x99000000
  | .enq _ _ _ _ _ _ => 0x9a000000
  | .pref _ _ _ _ _ => 0x9b000000
  | .clean _ _ _ _ _ => 0x9c000000
  | .inval _ _ _ _ _ => 0x9c000000
  | .chk _ _ => 0x9d000000
  | .vpop _ _ _ _ => 0x80000000
  | .vpsh _ _ _ _ => 0x81000000
  | .vmov _ _ _ _ => 0x82000000
  | .vbcst _ _ _ _ => 0x83000000
  | .vidx _ _ _ => 0x84000000
  | .vlane _ _ _ => 0x85000000
  | .vadd _ _ _ _ _ _ => 0x88000000
  | .vsub _ _ _ _ _ _ => 0x89000000
  | .vmul _ _ _ _ _ _ => 0x8a000000
  | .vfma _ _ _ _ _ _ => 0x8b000000
  | .vfms _ _ _ _ _ _ => 0x8c000000
  | .vfnma _ _ _ _ _ _ => 0x8d000000
  | .vmin _ _ _ _ _ _ => 0x8e000000
  | .vmax _ _ _ _ _ _ => 0x8f000000
  | .vabs _ _ _ _ _ => 0x90000000
  | .vneg _ _ _ _ _ => 0x90000000
  | .vrcp _ _ _ _ _ => 0x90000000
  | .vrsq _ _ _ _ _ => 0x90000000
  | .vsqrt _ _ _ _ _ => 0x90000000
  | .vex2 _ _ _ _ _ => 0x90000000
  | .vlg2 _ _ _ _ _ => 0x90000000
  | .vtanh _ _ _ _ _ => 0x90000000
  | .vflr _ _ _ _ _ => 0x90000000
  | .vceil _ _ _ _ _ => 0x90000000
  | .vdiv _ _ _ _ _ _ => 0x91000000
  | .vand _ _ _ _ _ => 0x92000000
  | .vor _ _ _ _ _ => 0x93000000
  | .vxor _ _ _ _ _ => 0x94000000
  | .vshl _ _ _ _ _ => 0x95000000
  | .vshr _ _ _ _ _ => 0x96000000
  | .vsar _ _ _ _ _ => 0x97000000
  | .vcmp _ _ _ _ _ _ _ => 0x99000000
  | .vsel _ _ _ _ _ => 0x9a000000
  | .vcommit _ _ _ _ => 0x9b000000
  | .vchk _ _ _ _ => 0x9c000000
  | .pand _ _ _ => 0x9d000000
  | .por _ _ _ => 0x9d000000
  | .pxor _ _ _ => 0x9d000000
  | .pandn _ _ _ => 0x9d000000
  | .pnot _ _ => 0x9d000000
  | .pmov _ _ => 0x9d000000
  | .pcnt _ _ => 0x9e000000
  | .vcvt _ _ _ _ _ _ _ => 0xa0000000
  | .vqnt _ _ _ _ _ _ _ => 0xa1000000
  | .vdqnt _ _ _ _ _ _ => 0xa2000000
  | .vred _ _ _ _ _ _ => 0xa3000000
  | .vscan _ _ _ _ _ _ => 0xa4000000
  | .vperm _ _ _ _ _ => 0xa5000000
  | .vrot _ _ _ _ _ => 0xa6000000
  | .vrng _ _ _ _ _ _ => 0xa8000000
  | .tcfg _ _ _ => 0x80000000
  | .tpop _ _ => 0x81000000
  | .tpsh _ _ => 0x82000000
  | .tzero _ => 0x83000000
  | .wld _ _ => 0x84000000
  | .wcfg _ _ _ => 0x85000000
  | .mma _ _ _ _ _ _ => 0x88000000
  | .mmat _ _ _ _ _ _ => 0x89000000
  | .cemit _ _ _ _ _ => 0x8c000000
  | .cpsh _ _ => 0x8d000000
  | .cpop _ _ => 0x8e000000
  | .cscl _ _ => 0x8f000000
  | .ftset _ _ => 0x90000000
  | .ftget _ _ => 0x91000000
  | .tmark _ => 0x92000000
  | .tbudg _ => 0x93000000
  | .tstat _ _ _ => 0x95000000
  | .ssig _ _ _ _ => 0x80000000
  | .swait _ _ _ => 0x81000000
  | .stry _ _ _ _ => 0x82000000
  | .binit _ _ _ => 0x84000000
  | .barv _ _ _ _ _ => 0x85000000
  | .bexp _ _ _ => 0x86000000
  | .bwait _ _ _ => 0x87000000
  | .btest _ _ _ => 0x88000000
  | .acq _ _ _ => 0x8a000000
  | .rel _ _ _ => 0x8b000000
  | .publ _ => 0x8c000000
  | .shopen _ _ => 0x8d000000
  | .remq _ _ => 0x90000000
  | .remqt _ _ _ => 0x91000000
  | .wpop _ _ _ => 0x92000000
  | .wpush _ _ => 0x93000000
  | .wsteal _ _ _ => 0x94000000
  | .coll _ _ _ => 0x98000000
  | .upd _ _ => 0x99000000
  | .msrch _ _ => 0x9a000000
  | .gfork _ _ => 0x9c000000
  | .grewd _ _ _ => 0x9d000000
  | .gbar _ _ => 0x9e000000
  | .gcanc _ _ => 0x9f000000
  | .gqry _ _ _ => 0xa0000000
  | .gyld _ => 0xa1000000
  | .vqry _ _ => 0xa4000000
  | .ecnt _ _ => 0xa5000000
  | .tend => 0xa6000000
  | .step _ => 0xa7000000
  | .tret => 0xa8000000
  | .tack => 0xa9000000
  | .sysc _ => 0xaa000000
  | .halt => 0xab000000
  | .sleep _ => 0xac000000
  | .closingBranch => 0
  | .scoreboardedResult => 0
  | .queueLoadLands => 0
  | .mmaCompletion => 0
  | .engineCompletion => 0
  | .collectiveCompletion => 0
  | .updCompletion => 0
  | .msrchCompletion => 0
  | .trapTaken => 0
  | .qdead => 0
  | .windowReplay => 0
  | .timingTrip => 0
  | .tileDispatch => 0
  | .nodeLaunch => 0
  | .waiterReserving => 0
  | .nodeBoundaryPreemption => 0
  | .stepBoundary => 0
  | .stepMirrorComplete => 0
  | .pontilCommit => 0
  | .pontilFailure => 0
  | .deviceLost => 0
  | .gangStart => 0
  | .groupDeadlineExpiry => 0
  | .groupResume => 0
  | .pageWalk => 0
  | .translationBuildEnd => 0
  | .translationEviction => 0
  | .substitutionInstall => 0
  | .epochStart => 0
  | .budgetInterval => 0
  | .operatingPointStep => 0
  | .rowFailure => 0
  | .vaultEvacuation => 0
  | .tokenGrant => 0
  | .clockProposal => 0
  | .flitReceived => 0
  | .messageReceived => 0
  | .messageUndeliverable => 0
  | .laneLoss => 0
  | .lanesTrained => 0
  | .trainingTimeout => 0
  | .firmwareRetry => 0
  | .hostBridgeAccess => 0
  | .boot => 0
  | .registerWrite => 0
  | .evClear => 0
  | .cplack => 0
  | .heldGo => 0
  | .engineCpy => 0
  | .engineCpyt => 0
  | .engineCpyd => 0
  | .engineWmcpy => 0
  | .engineLdg => 0
  | .engineSts => 0
  | .dieColl => 0
  | .dieCollSt => 0
  | .dieUpd => 0
  | .dieMsrch => 0
  | .contextNop => 0
  | .nrun => 0
  | .grun => 0
  | .gset => 0
  | .hostNop => 0
  | .cdefine => 0
  | .cload => 0
  | .chot => 0
  | .cpark => 0
  | .cmigrate => 0
  | .csuspend => 0
  | .cresume => 0
  | .cretire => 0
  | .crestore => 0
  | .cquery => 0
  | .olink => 0
  | .subload => 0
  | .opset => 0
  | .pbudget => 0
  | .pgrant => 0
  | .mread => 0
  | .keyset => 0
  | .keyclr => 0
  | .shoot => 0
  | .attest => 0
  | .cfgload => 0
  | .portctl => 0
  | .sleepExpiry => 0
  | .syscReply => 0
  | .trapStub => 0
  | .xlateStub => 0
  | .loopIllegalKind => 0
  | .softError => 0
  | .endToEndResend => 0
  | .pcSample => 0

/-- The word of an instruction, with its Y bit; ignored bits are 0, as assemblers write them (R107). -/
def encode (y : Bool) (i : Instr) : Nat := encodeMajor i + (if y then 2 ^ 30 else 0) + encodeBody i

/-- The cluster whose map reads a table word as an instruction: a private word of one number names an instruction on
each of the four clusters (R86), and the table numbers no cluster. The first of A, V, M and C whose map does not
reserve the word is taken, but for MAJ 0x1D, where V, which has six instructions there, comes first
(notes/assumptions/2.md). -/
def tableCluster (w : Nat) : Nat :=
  match decode 0 w, decode 1 w, decode 2 w with
  | .ok _, .ok _, _ => if fieldOf w 29 24 = 29 then 1 else 0
  | .ok _, .error _, _ => 0
  | .error _, .ok _, _ => 1
  | .error _, .error _, .ok _ => 2
  | .error _, .error _, .error _ => 3

/-- The instruction that the decoder reads from a word of `nbits` bits, none where it refuses. -/
def decodeTableWord (nbits w : Nat) : Option Instr :=
  if nbits = 32 then
    match decode (tableCluster w) w with
    | .ok i => some i
    | .error _ => none
  else none

end Sys2Proof
end

