-- ==== Sys2Proof/Config.lean ====
section
/-! DEFINITION. What the configuration of a device fixes and what the spec leaves open. An opaque constant has no
body: no proof can see its value, so a claim holds whatever it is (notes/assumptions/4.md, 12.md, 13.md). -/

namespace Sys2Proof

/-- What the not architected sections of a configuration image name (spec/21_power_reliability.md R475): the counts
M(v, p), the row lists with their LOW codes, the cores, the cache rows, and whether the device is a bridge. Plain data. -/
structure CfgImage where
  /-- VERSION of the image header. -/
  version : Nat
  /-- DEVICE of the image header. -/
  device : Nat
  /-- ROLE[0] of the image header. -/
  bridge : Bool
  /-- MAGIC, the zero bytes and SIG check (R475). -/
  valid : Bool
  /-- M(v, p), six counts for each vault (R385). -/
  counts : List (List Nat)
  /-- Row lists: physical row and LOW, in list order, for each vault (R384). -/
  rows : List (List (Nat × Nat))
  /-- The physical core of each die that is its firmware core (R11). -/
  firmware : List Nat
  /-- The physical cores of each die that are its program cores 0-127, in order (R11). -/
  cores : List (List Nat)
  /-- Rows of the L1s and the L2 that do not hold at every point: cache, row and the highest point at which it holds (R398). -/
  cacheRows : List (Nat × Nat × Nat)
  /-- The neighbour device of each port (R448). -/
  peers : List Nat
  /-- Firmware routing of endpoint sets: each set with the devices of its members, by rank (R285, R448). -/
  routes : List (Nat × List Nat) := []
deriving DecidableEq, Repr, Inhabited

/-- The next free value: where the spec lets the device choose, or states no value, the choice is this constant
applied to a plain counter of State (notes/assumptions/4.md). -/
opaque Config.free : Nat → Nat

/-- The configuration image that module flash holds when the module is shipped (R475; notes/assumptions/13.md). -/
opaque Config.shippedImage : CfgImage

/-- The failure code that module flash keeps from an earlier boot, 0 when none (R476). -/
opaque Config.shippedError : Nat

/-- The image that the not architected sections of a byte string stand for (R475). -/
opaque Config.imageOf : List Byte → CfgImage

/-- Whether an ECDSA signature over the bytes verifies under the vendor key (R319, R474). -/
opaque Config.signed : List Byte → Bool

/-- The AES Key Wrap unwrapping of a KEYSET record: the 64-byte pair, or nothing on a failure (R472). -/
opaque Config.unwrapKey : List Byte → Option Nat

/-- The signature of the device attestation key over a report (R474). -/
opaque Config.attestSig : List Byte → BitVec 768

/-- The x and y coordinates of the device key-agreement public key, 96 bytes (R474). -/
opaque Config.devicePoint : BitVec 768

/-- The uncompressed device key-agreement public key: 0x04 and the coordinates (R472, R474). -/
def Config.devicePub : List (BitVec 8) :=
  4#8 :: (List.range 96).map fun i => Config.devicePoint.extractLsb' (8 * i) 8

/-- The keystream byte of AES-256 in counter mode that masks a vault byte: the context's vault key, the physical row and the byte's
position in it (R473); AES is not computed. -/
opaque Config.vaultPad : Nat → Nat → Nat → BitVec 8

/-- The bytes of a message whose header is not architected, by a plain counter (R449). -/
opaque Config.wireBytes : Nat → List (BitVec 8)

/-- Whether the pod has a device of a number (R448, R458). -/
opaque Config.present : Nat → Bool

/-- The bytes of the ROM firmware, whose digest ATTEST reports (R474). -/
opaque Config.romImage : List Byte

/-- The bytes of the configuration image that module flash holds when the module is shipped (R474, R475). -/
opaque Config.shippedBytes : List Byte

/-- What a read of an unpinned vault byte returns before the node writes it (spec/16_extent.md R392): a function of
the grant's number and the byte's place, never another context's data. -/
opaque Config.vaultByte : Nat → Nat → Byte

/-- What the decryption of a byte gives under a key pair other than the one that encrypted it: AES-256-XTS is not computed
(R371; notes/assumptions/12.md). -/
opaque Config.garble : Nat → Nat → Nat → Byte → Byte

/-- What a register of a queue block of another device reads as: device, place in its window, and a plain counter (R324, R458). -/
opaque Config.farWord : Nat → Nat → Nat → Nat

/-- The row in which a cache, the L1 of a core or, as number 512, the L2, keeps a sector (R398): the spec gives no placement. -/
opaque Config.cacheRow : Nat → Nat → Nat

/-- Whether a frame of HBM4E is firmware's own memory, which the host may not write (R459; notes/assumptions/15.md). -/
opaque Config.firmwareFrame : Nat → Bool

/-- Whether the module is a DCS-M384-L512 (R1; notes/assumptions/13.md). -/
opaque Config.l512 : Bool

/-- What a cache does with a sector or an entry of its own accord: nothing, a write-back or an eviction (R405, R409;
notes/assumptions/7.md). -/
opaque Config.spill : Nat → Nat → Nat → Nat

/-- The guaranteed logical rows of a vault at an operating point (spec/01_device.md R18). -/
def Config.guaranteed : Nat → Nat
  | 0 => 8192 | 1 => 8192 | 2 => 8064 | 3 => 7808 | 4 => 7424 | _ => 6656

/-- Frames of HBM4E: 384 GiB in 64 KiB units (R1). -/
def Config.hbmFrames : Nat := 6291456

/-- Frames of the LPDDR-6 cold tier in 64 KiB units: 512 GiB of a -L512 module, 1 TiB of a -L1T module (R1). -/
def Config.coldFrames : Nat := if Config.l512 then 8388608 else 16777216

end Sys2Proof
end

