-- ==== Sys2Proof/Machine/State.lean ====
section
/-! DEFINITION. The state of one package, as plain data: every piece of state that INVENTORY.md lists under
'## State', with the rule of spec/ that names it. Reset values are those of the spec; where it gives none they are the
model's own choice (notes/assumptions/3.md, 5.md). -/

namespace Sys2Proof.Machine

/-- A collection keyed by number, in ascending order; a key that is not listed reads as a default. -/
abbrev File (α : Type) := List (Nat × α)

/-- A scalar register: its value and its poison bit (R55). -/
structure Scalar where
  val : Word := 0
  pois : Bool := false
deriving DecidableEq, Repr, Inhabited

/-- A vector register or element: lane L at bits [32L+31:32L], one poison bit per lane (R181). -/
structure VVal where
  bits : BitVec 16384 := 0
  pois : BitVec 512 := 0
deriving DecidableEq, Repr, Inhabited

/-- Register kinds of a landing record, codes 0-3 of R434. -/
inductive RegKind where
  | s | a | v | p
deriving DecidableEq, Repr, Inhabited

/-- A windowed result that has not been written yet (R74, R434): its register, the issued words still needed, and
its value. `mask` names the lanes that a guarded vector word writes; `old` says that a later producer has been written. -/
structure Land where
  kind : RegKind
  reg : Nat
  remain : Nat
  bits : BitVec 16384
  pois : BitVec 512
  mask : BitVec 512
  old : Bool := false
deriving DecidableEq, Repr, Inhabited

/-- One hardware loop level (R122, R362); its index is the loop register. -/
structure Loop where
  active : Bool := false
  start : Addr := 0
  last : Addr := 0
  count : Nat := 0
  rot : Bool := false
  stream : Bool := false
  queue : Nat := 0
deriving DecidableEq, Repr, Inhabited

/-- What a cluster waits on. The first seven are the waits that count under R69 (R335). -/
inductive Wait where
  | none
  | pop (q : Nat) | push (q : Nat) | hs (h : Nat) | outq (c : Nat) | rv | tend
  | score | engine | array | object | sleep | firmware | walk
deriving DecidableEq, Repr, Inhabited

/-- The trap registers of a cluster (R432). -/
structure XRegs where
  cause : Word := 0
  info : Word := 0
  vpc : Word := 0
  addr : Addr := 0
  cutp : Word := 0
  frame : Word := 0
  vec : Word := 0
deriving DecidableEq, Repr, Inhabited

/-- A scoreboarded scalar result on its way (R76). -/
structure Sb where
  reg : Nat
  val : Scalar
deriving DecidableEq, Repr, Inhabited

/-- One cluster of a core (R54, R55). `need` counts the queue entries, or the room, that its wait asks for; `know` is the latest
weak store of A that R72 or R73 places before its next word; `inner` is what its Y = 1 word would wait for while it waits for the
others (R73). -/
structure Clu where
  active : Bool := false
  pc : Addr := 0
  base : Addr := 0
  words : Nat := 0
  s : File Scalar := []
  a : File Addr := []
  l : File Word := []
  loops : File Loop := []
  outq : List Bool := []
  outProd : Option Nat := none
  pend : List Land := []
  sb : List Sb := []
  tokPend : File Nat := []
  tokHeld : File Nat := []
  wait : Wait := .none
  need : Nat := 1
  inner : Wait := .none
  know : Nat := 0
  rvDone : Bool := false
  closing : Bool := false
  x : XRegs := {}
deriving DecidableEq, Repr, Inhabited

/-- Kinds of a data queue (R66). -/
inductive QKind where
  | word | vec | tile
deriving DecidableEq, Repr, Inhabited

/-- The data of one element (R66). -/
inductive QData where
  | word (v : Scalar) | vec (v : VVal) | tile (b : BitVec 131072)
deriving DecidableEq, Repr, Inhabited

/-- One queue entry: an element, a marker (R130), or a hole that a queue load reserved, with the data that has
arrived for it (R157). -/
inductive QEnt where
  | elem (d : QData) | marker | hole (d : Option QData)
deriving DecidableEq, Repr, Inhabited

/-- One data queue (R66-R68, R333). `refill` is the virtual PC of a queue load whose fault left the newest hole (R157); `tags`
holds, for each entry, what its producer knew when it pushed it (R72). -/
structure Queue where
  declared : Bool := false
  prod : Nat := 0
  cons : Nat := 0
  kind : QKind := .word
  depth : Nat := 0
  ents : List QEnt := []
  pseq : Word := 0
  cseq : Word := 0
  refill : Option Addr := none
  tags : List Nat := []
deriving DecidableEq, Repr, Inhabited

/-- One handshake counter (R71); `tags` holds, for each signal not yet consumed, what its source knew (R72). -/
structure HCnt where
  val : Nat := 0
  ceil : Nat := 15
  tags : List Nat := []
deriving DecidableEq, Repr, Inhabited

/-- Tile states (R211). -/
inductive TState where
  | unconf | conf | live
deriving DecidableEq, Repr, Inhabited

/-- One tile register (R210-R214). -/
structure Tile where
  st : TState := .unconf
  ty : TileFmt := .bf16
  rows : Nat := 0
  bits : BitVec 131072 := 0
  disc : Nat := 0
  discPc : Word := 0
  pops : Nat := 0
deriving DecidableEq, Repr, Inhabited

/-- Weight-slot states (R218). -/
inductive WSt where
  | empty | conf | loaded
deriving DecidableEq, Repr, Inhabited

/-- One weight slot: mode, element format code (R215) and image (R218-R221). -/
structure WSlot where
  st : WSt := .empty
  mode : WMode := .dense
  fmt : Nat := 0
  img : BitVec 524288 := 0
deriving DecidableEq, Repr, Inhabited

/-- One accumulator: element (i, j) at bits [32(128i+j)+31:32(128i+j)] (R224). -/
abbrev Acc := BitVec 262144

/-- An issued MMA or MMAT with the operands it read (R206). -/
structure MmaOp where
  acc : Nat
  tile : Tile
  slot : WSlot
  entry : Word
  scale : Tile
  transp : Bool
deriving DecidableEq, Repr, Inhabited

/-- One entry of the command window with its retained operands (R228). -/
inductive WinEnt where
  | mma (op : MmaOp) | scl (acc : Nat) (f : Word) | load (acc : Nat) (bits : Acc) | clear (acc : Nat)
deriving DecidableEq, Repr, Inhabited

/-- One window-map slot: empty, or its 64 bytes (R175), and whether its load is on its way (R176). -/
structure WMap where
  full : Bool := false
  loading : Bool := false
  bits : BitVec 512 := 0
deriving DecidableEq, Repr, Inhabited

/-- One engine command that a word of the tile issued (R164, R165). -/
structure Cmd where
  id : Nat
  cl : Nat
  reg : Nat
  done : Bool := false
  order : Nat := 0
  code : Nat := 0
  addr : Addr := 0
  read : Bool := false
  reported : Bool := false
deriving DecidableEq, Repr, Inhabited

/-- A trap that a word has raised (R430); `tok` is the command whose token an ENGERR reports (R167, R429). -/
structure TrapReq where
  cl : Nat
  cause : Nat
  info : Word
  addr : Addr
  tok : Option Nat := none
deriving DecidableEq, Repr, Inhabited

/-- Kinds of stored value that a soft error can strike (R471): a vector register in a lane, a predicate in a group of 32 lanes, a
sector of the core's L1 or of the L2 by its device address div 64. -/
inductive SoftAt where
  | s (cl reg : Nat) | a (cl reg : Nat) | l (cl reg : Nat) | v (reg lane : Nat) | p (reg part : Nat) | q (n seq : Nat)
  | out (cl i : Nat) | acc (n : Nat) | tile (n : Nat) | slot (n : Nat) | frame (sector : Nat) | l1 (sector : Nat) | l2 (sector : Nat)
  | corrected | look | xlate
deriving DecidableEq, Repr, Inhabited

/-- A trap frame (R433-R435): the header fields and the saved state that the frame's bytes are the image of. `tackOk`
keeps, for the handler that this trap interrupts, whether TACK is still valid (R437); `soft` the marks of C's registers that the
frame restores (R471); `landed` the clusters and scalars of A, V and M that a scoreboarded result has reached since (R75, R438). -/
structure Frame where
  cause : Nat := 0
  cl : Nat := 0
  flags : Nat := 0
  info : Word := 0
  addr : Addr := 0
  vpc : Addr := 0
  time : Nat := 0
  ctxid : Word := 0
  coreid : Word := 0
  kctl : Word := 0
  window : Word := 0
  nestCause : Nat := 0
  nestInfo : Word := 0
  nestAddr : Addr := 0
  clu : File Clu := []
  q : File Queue := []
  h : File HCnt := []
  tackOk : Bool := true
  soft : List SoftAt := []
  landed : List (Nat × Nat) := []
deriving DecidableEq, Repr, Inhabited

/-- One 64-byte sector of a core's L1: its device address div 64, bytes, dirty mask, the dirty bytes that a REL holds
(R245, R409), whether every access to it was through a U page (R369), whether its clean bytes came from a damaged sector
(R471), the key pair that it was read and is written under (R371), and the numbers of the stores that wrote its dirty bytes
(R245), with the first of them since each byte was last clean. -/
structure Sector where
  key : Nat
  bytes : BitVec 512
  dirty : BitVec 64
  held : BitVec 64 := 0
  kindU : Bool
  bad : Bool := false
  kmat : Nat := 0
  stamps : File Nat := []
  since : File Nat := []
deriving DecidableEq, Repr, Inhabited

/-- A lookaside entry: a 64 KiB page of a context and the leaf that maps it (R377). -/
structure Look where
  ctx : Nat
  page : Nat
  leaf : BitVec 64
deriving DecidableEq, Repr, Inhabited

/-- The tile task of a core (R80, R355, R419). `sib` is the sibling path, innermost group first. -/
structure Task where
  ctx : Nat := 0
  sib : List (Nat × Nat) := []
  node : Nat := 0
  run : Nat := 0
  t : Nat := 0
  i : Nat := 0
  j : Nat := 0
  k : Nat := 0
  args : Addr := 0
deriving DecidableEq, Repr, Inhabited

/-- A queue load whose bytes may still be read: its queue, the sequence number of its slot, its space and its address (R157, R405). -/
structure LateLoad where
  q : Nat
  seq : Word
  sp : Bool
  ea : Nat
deriving DecidableEq, Repr, Inhabited

/-- One core (spec/01_device.md, 03_model.md). `issued` counts the MMAs and MMATs that have issued, of which the last are those in
`mma`; `walkBad` and `lentOk` hold clusters and pages: a walk that failed, and a lender that has answered the request of an access (R370,
R379); `late` holds the queue loads since the core's latest other access or FENCE that have not landed, oldest first. -/
structure Core where
  busy : Bool := false
  task : Task := {}
  clu : File Clu := []
  stores : Nat := 0
  kctl : Word := 0
  trctl : Word := 0x8F
  q : File Queue := []
  h : File HCnt := []
  v : File VVal := []
  p : File (BitVec 512) := []
  rotb : BitVec 5 := 0
  t : File Tile := []
  c : File Acc := []
  w : File WSlot := []
  fmt : File Word := []
  mma : List MmaOp := []
  issued : Nat := 0
  winTag : Nat := 0
  late : List LateLoad := []
  win : List WinEnt := []
  winOver : Bool := false
  winSave : File Acc := []
  badAcc : List Nat := []
  d : File WMap := []
  cmds : List Cmd := []
  nextCmd : Nat := 0
  nextOrder : Nat := 1
  level : Nat := 0
  frames : File Frame := []
  treq : List TrapReq := []
  tacked : Bool := false
  tackOk : Bool := true
  l1 : List Sector := []
  look : List Look := []
  walkBad : List (Nat × Nat) := []
  lentOk : List (Nat × Nat) := []
  qdead : Nat := 0
  budget : Nat := 0
  energy : Nat := 0
  soft : List SoftAt := []
  sleep : Option Nat := none
  sysc : Option (Nat × List Word) := none
  syncTime : Nat := 0
  traced : Nat := 0
  lost : Nat := 0
  lostTime : Nat := 0
  sampleAt : Nat := 0
deriving DecidableEq, Repr, Inhabited

/-- Who issued an engine command: a word of a core, or a packet of a register block (R15). -/
inductive Origin where
  | word (core cl cmd : Nat) | block
deriving DecidableEq, Repr, Inhabited

/-- Operations of the bench and die engines (R162, R174, R254). -/
inductive EngOp where
  | cpy | cpyt | cpyd | wmcpy | ldg | sts | enq | coll (st : Bool) | upd | msrch
deriving DecidableEq, Repr, Inhabited

/-- An engine command as the engine holds it (R162, R163). `pre` is an error found when it was accepted, `dev` the device of its
origin (R324). -/
structure EngCmd where
  org : Origin
  op : EngOp
  ctx : Nat
  sib : List (Nat × Nat) := []
  run : Nat := 0
  count : Nat := 0
  mode : Nat := 0
  dst : Addr := 0
  src : Addr := 0
  bar : Addr := 0
  hasBar : Bool := false
  sd : Bool := false
  ss : Bool := false
  map : BitVec 512 := 0
  desc : BitVec 768 := 0
  tag : Nat := 0
  dev : Nat := 0
  pre : Option (Nat × Nat) := none
deriving DecidableEq, Repr, Inhabited

/-- A 16-byte command packet (R162, R326), with the device that its go came from (R324). -/
structure Packet where
  w0 : Word := 0
  w1 : Word := 0
  w2 : Word := 0
  w3 : Word := 0
  dev : Nat := 0
deriving DecidableEq, Repr, Inhabited

/-- An entry of a block's queue: a packet, a command that a word issued, or a command that its engine has accepted and
that is no longer in the queue (R163, R324). -/
inductive QCmd where
  | raw (p : Packet) | cmd (c : EngCmd) | taken (c : EngCmd)
deriving DecidableEq, Repr, Inhabited

/-- One queue register block (R324-R328). `recs` holds completion records, but for PH, that wait for room in the ring. -/
structure Block where
  cmds : List QCmd := []
  pk : Packet := {}
  staged : Bool := false
  held : Bool := false
  en : Bool := true
  opn : Bool := false
  cplsz : Nat := 0
  owner : Nat := 0
  ov : Bool := false
  ecode : Nat := 0
  ecount : Nat := 0
  ev : Bool := false
  eaddr : Nat := 0
  edev : Nat := 0
  cplbase : Nat := 0
  cplack : Word := 0
  written : Nat := 0
  recs : List (List Byte) := []
deriving DecidableEq, Repr, Inhabited

/-- A host command that waits for its transition to end (R299): its block and its packet, or the device where it waits. -/
structure HostRef where
  block : Nat
  pk : Packet
  away : Option Nat := none
deriving DecidableEq, Repr, Inhabited

/-- The states of a context, codes 0-6 of R280. -/
inductive CtxSt where
  | defined | loaded | hot | cold | migrating | suspended | retired
deriving DecidableEq, Repr, Inhabited

/-- A pinned extent (R389): the table slot and the state of R401, with its bytes while it is saved. -/
structure Extent where
  size : Nat
  st : Nat
  base : Nat
  gen : Word
  saved : List (Nat × Byte) := []
  bad : List Nat := []
deriving DecidableEq, Repr, Inhabited

/-- A run of a context's queue (R421, R423). -/
structure Run where
  id : Nat
  pk : Packet
  first : Nat
  last : Nat
  next : Nat
  single : Bool
  doneNodes : List Nat := []
  tiles : Nat := 0
  failed : Option (Nat × Word × Nat) := none
deriving DecidableEq, Repr, Inhabited

/-- A context (R280): the record's fields, and what the device keeps for it. `going` says that the target of its migration has been
told to commit, `ready` that the target has asked for that (R293); `waitGang` names the gang that is its waiter since `waitFrom`, if one
is (R425). -/
structure Context where
  st : CtxSt := .retired
  reason : Nat := 0
  prio : Nat := 0
  mirror : Bool := false
  rkey : BitVec 64 := 0
  stepn : BitVec 64 := 0
  ptroot : Nat := 0
  graph : Addr := 0
  cmdptr : BitVec 64 := 0
  saved : File Word := []
  keys : File Nat := []
  pending : Nat := 0
  target : Nat := 0
  ready : Bool := false
  going : Bool := false
  pendRef : Option HostRef := none
  moveRef : Option HostRef := none
  exttab : Addr := 0
  eptab : Addr := 0
  energy : Nat := 0
  mirdev : Nat := 0
  mirstep : BitVec 64 := BitVec.allOnes 64
  dev : Nat := 0
  vkey : Nat := 0
  gs : File Word := []
  moved : List Nat := []
  exts : List Extent := []
  run : Option Run := none
  taken : Nat := 0
  waitFrom : Option Nat := none
  waitGang : Option Nat := none
  reserving : Bool := false
  halt : Option Nat := none
  stepReq : Bool := false
  rerun : Option (Nat × Nat) := none
  prior : CtxSt := .hot
  log : List Word := []
  collSeq : File Nat := []
deriving DecidableEq, Repr, Inhabited

/-- The declarations of a kernel (R303) as a launch read them. -/
structure Kernel where
  streams : List (Nat × Addr × Nat) := []
  queues : List (Nat × Queue) := []
  hsem : List (Nat × HCnt) := []
  fmt : List (Nat × Word) := []
  exts : List Nat := []
deriving DecidableEq, Repr, Inhabited

/-- A node that has launched and has not completed (R423, R424). `giving` holds the benches that leave its grant for a reserving waiter
once the siblings there have ended (R424); `joined` those that joined a gang's grant for the gangs of groups that its siblings forked
(R425). -/
structure NodeRun where
  id : Nat
  ctx : Nat
  node : Nat
  kind : Nat
  kern : Kernel
  benches : List Nat
  tasks : List (Nat × Nat × Nat × Nat)
  live : Nat := 0
  ran : Nat := 0
  kctl : Word := 0
  args : Addr := 0
  minb : Nat := 1
  energy : Nat := 0
  stepReq : Bool := false
  gang : Option Nat := none
  giving : List Nat := []
  joined : List Nat := []
deriving DecidableEq, Repr, Inhabited

/-- One page of a group's fork map (R372): the original frame and the viewers' copies; viewer 64 is the owner. -/
structure Fork where
  page : Nat
  orig : Nat
  tier : Nat
  copies : File Nat
deriving DecidableEq, Repr, Inhabited

/-- A group of the device's group table (R353, R372). -/
structure Group where
  uid : Nat
  ctx : Nat
  owner : List (Nat × Nat)
  record : Addr
  gid : Word
  n : Nat
  minN : Nat
  eps : Word
  cont : Addr
  node : Nat
  okey : BitVec 64
  prompt : Addr := 0
  ppages : Nat := 0
  st : Nat := 1
  arrive : BitVec 64 := 0
  cancel : BitVec 64 := 0
  save : BitVec 64 := 0
  done : BitVec 64 := 0
  zv : Bool := false
  tmo : Bool := false
  pre : Bool := false
  wascol : Bool := false
  mean : Word := 0
  std : Word := 0
  reward : File Word := []
  adv : File Word := []
  left : Option Nat := none
  maps : List Fork := []
  started : Bool := false
  run : Nat := 0
  forker : Nat := 0
deriving DecidableEq, Repr, Inhabited

/-- An open shadow, with the tier of its frames (R247, R375). -/
structure Shadow where
  ctx : Nat
  sib : List (Nat × Nat)
  base : Addr
  pages : Nat
  window : Addr
  frames : List Nat
  tier : Nat := 0
deriving DecidableEq, Repr, Inhabited

/-- States of a translation entry (R313). -/
inductive XSt where
  | building | valid | stale
deriving DecidableEq, Repr, Inhabited

/-- A translated word: the word, or the reason of its XLATE stub (R316). -/
inductive XWord where
  | word (w : Word) | stub (reason : Nat)
deriving DecidableEq, Repr, Inhabited

/-- A translation entry (R311): context, die, stream section, its words and the 512-byte lines that held them; `users` are the cores whose
tiles use it (R313). -/
structure Xlate where
  ctx : Nat
  die : Nat
  base : Addr
  st : XSt
  words : List XWord
  lines : List Nat := []
  users : List Nat := []
deriving DecidableEq, Repr, Inhabited

/-- A sector on a held set (R346): its list, the core whose L1 held it, the sector, the object's context, and where the object's
held-set word stands: the sibling path, whether in the vault, and the address, or the place in one of the context's pinned extents. -/
structure Hold where
  list : Nat
  core : Nat
  sector : Nat
  ctx : Nat
  sib : List (Nat × Nat) := []
  vault : Bool := false
  ext : Option Nat := none
  word : Nat := 0
deriving DecidableEq, Repr, Inhabited

/-- A page walk in progress (R379): die, context, page, and the accesses that wait: core, cluster and page. -/
structure Walk where
  die : Nat
  ctx : Nat
  page : Nat
  waiters : List (Nat × Nat × Nat)
deriving DecidableEq, Repr, Inhabited

/-- A member's collective command that waits for the others, and the device that it comes from (R256, R287). `wrote` is what has been
written for the member, with the error that ended it (R258). -/
structure Joined where
  setid : Nat
  seq : Nat
  rank : Nat
  n : Nat
  op : Nat
  ty : Nat
  count : Nat
  root : Nat
  stats : Bool
  data : Option (List Word)
  err : Option (Nat × Addr)
  dev : Nat := 0
  die : Nat
  cmd : Option EngCmd
  wrote : Option (Nat × Option (Nat × Nat)) := none
deriving DecidableEq, Repr, Inhabited

/-- Link states, codes 0-5 of R455. -/
inductive LinkSt where
  | down | training | up8 | up4 | retraining | failed
deriving DecidableEq, Repr, Inhabited

/-- One fabric port (R449-R455): sequence numbers, flits kept for resending, credits of the four channels, credits to return to the
peer, whether a NAK is to go out, and the flits put on the link. `nakRun` counts the NAKs in a row that it has sent for one flit, `naked`
those that have come for one (R454). -/
structure Port where
  st : LinkSt := .down
  lanes : BitVec 8 := 0
  peer : Nat := 0xFFFF
  naks : Nat := 0
  retrn : Nat := 0
  txSeq : Nat := 0
  rxSeq : Nat := 0
  acked : Nat := 0
  retry : List (BitVec 2048) := []
  credits : File Nat := []
  nakRun : Nat := 0
  naked : Nat := 0
  waited : Nat := 0
  owed : File Nat := []
  nakDue : Bool := false
  tx : List (BitVec 2048) := []
deriving DecidableEq, Repr, Inhabited

/-- A copy of a context: what a migration carries (R293) and what a step mirror keeps (R297). `leaves` are level, page
and leaf; `frames` are tier, first frame, frames and the listed bytes; `tags` are tier, frame, sector and the key pair that
encrypted it (R371); `seals` are tier, frame and the pair that encrypted a whole frame, `bads` the damaged sectors
(R471); `holder` is the device that keeps a mirror. -/
structure Image where
  ctx : Nat
  copy : Context
  leaves : List (Nat × Nat × Nat)
  frames : List (Nat × Nat × Nat × List (Nat × Byte))
  groups : List Group
  shadows : List Shadow
  cmds : List QCmd
  tags : List (Nat × Nat × Nat × Nat) := []
  seals : List (Nat × Nat × Nat) := []
  bads : List (Nat × Nat × Nat) := []
  holder : Nat := 0
deriving DecidableEq, Repr, Inhabited

/-- What a message carries (R449, R453). The headers of types 1-5 are not architected, so the contents are data. `once` says that the agent
of a delivery stops waiting at the message bound (R252), and `ask` asks whether a block would turn one away (R251); `lent` is the request of an access of a cluster to a page that its receiver lends,
with what became of it (R370); `cut` tells of a collective that has ended with LINKLOST (R258). -/
inductive MsgBody where
  | deliver (block ctx : Nat) (pk : Packet) (once : Bool) (ans : Option Nat) | ask (block : Nat) (ans : Option Nat) | answer (seq : Nat) (code : Nat)
  | member (j : Joined) | token (payload : BitVec 128) | clock (payload : BitVec 128)
  | arrive (img : Image) | ready (ctx : Nat) | commit (ctx : Nat) (mirstep : BitVec 64) (energy : Nat) | committed (ctx : Nat) | turnedAway (ctx : Nat) | cancel (ctx : Nat)
  | mirror (img : Image) | fetch (ctx : Nat) (found : Option (List Image)) | found (ctx : Nat) (imgs : List Image)
  | retire (ctx : Nat) | retired (ctx status : Nat) | lost (setid : Nat) | cut (setid seq : Nat) | pull (list : Nat) (free done : Bool)
  | lent (cl page : Nat) (ans : Option Bool) | mem (write : Bool) (addr n : Nat) (data : List Byte) | memData (seq : Nat) (data : List Byte) | route (setid rank dev : Nat)
deriving DecidableEq, Repr, Inhabited

/-- A message with its source, destination, channel, sequence number, resends and check result. `floor` is the lowest number that its
source still keeps on the channel; `out` says that it has begun to go out, and `left` its bytes that no flit has carried (R449,
R453). -/
structure Msg where
  src : Nat
  dst : Nat
  chan : Nat
  seq : Nat
  body : MsgBody
  good : Bool := true
  tries : Nat := 0
  from_ : Nat := 0
  core : Nat := 0
  floor : Nat := 0
  out : Bool := false
  left : List Byte := []
deriving DecidableEq, Repr, Inhabited

/-- What the outside of the package does next; each event step takes the head that it is about. -/
inductive Input where
  | regWrite (block off : Nat) (val : Word) (dev : Nat)
  | bridge (write : Bool) (bar off len : Nat) (data : List Byte)
  | flit (port : Nat) (bytes : BitVec 2048)
  | message (m : Msg)
  | laneLoss (port lane : Nat)
  | trained (port : Nat) (lanes : BitVec 8)
  | soft (core : Nat) (at_ : SoftAt)
  | row (vault row : Nat) (correctable : Bool)
  | deviceLost (dev : Nat)
  | boot
  | trip (core : Nat) (matrix : Bool)
deriving DecidableEq, Repr, Inhabited

/-- A turn of the agenda: a cluster may issue, an event step may act for a core or die, or time passes. -/
inductive Turn where
  | issue (core cl : Nat)
  | event (at_ : Nat) (i : Instr)
  | clock
deriving DecidableEq, Repr, Inhabited

/-- What the words of one rendezvous act on: the core as it stood before the cycle (R73, R137). -/
structure View where
  was : Core
deriving DecidableEq, Repr, Inhabited

/-- What the firmware core of a die has been sent: a trap frame of a level of a core (R436), or a record of the replay or violation
log (R443). -/
inductive Notice where
  | frame (core level : Nat) (f : Frame) | replay (r : BitVec 256) | violation (r : BitVec 256)
deriving DecidableEq, Repr, Inhabited

/-- One row of a vault's row list (R385). DMG is a view: a sector of its logical row stands in `badVault`. -/
structure Row where
  prow : Nat
  low : Nat
deriving DecidableEq, Repr, Inhabited

/-- A log of one die: records written so far, and the records kept (R477). -/
structure Log where
  count : Nat := 0
  recs : File (BitVec 256) := []
deriving DecidableEq, Repr, Inhabited

/-- The power and operating-point registers (R465-R470, R477). `part` says how far a step has come (R394): 0 quiescing, 1 extents
are moving, 2 they have moved, 3 the cache rows are written back. -/
structure Power where
  point : Nat := 1
  target : Nat := 1
  pend : Bool := false
  part : Nat := 0
  early : File Nat := []
  cap : Nat := 5
  capNext : Nat := 5
  guard : Nat := 0
  trips : Nat := 0
  quiet : Nat := 0
  advice : Option Nat := none
  own : Nat := 5
  wish : Nat := 1
  proposals : List (Nat × Nat × Nat) := []
  epoch : Nat := 0
  allot : Nat := 0
  allotNext : Nat := 0
  account : Int := 0
  lost : Nat := 0
  energy : Nat := 0
  cecnt : Nat := 0
  stepped : Bool := false
deriving DecidableEq, Repr, Inhabited

/-- Boot and module flash (R475, R476). `bytes0` and `bytes1` are the images of the two slots as flash holds them (R474);
`key` is the firmware key that the boot generated (R473). -/
structure Boot where
  stage : Nat := 0
  lastErr : Nat := 0
  keptErr : Nat := 0
  tblRej : Bool := false
  active : Nat := 0
  slot0 : Option CfgImage := none
  slot1 : Option CfgImage := none
  minver : Nat := 0
  flashTable : List Byte := []
  bytes0 : List Byte := []
  bytes1 : List Byte := []
  key : Nat := 0
deriving DecidableEq, Repr, Inhabited

/-- The state of the package. `looks` holds the lookaside arrays of the bench engines, 0-127, and of the dies, 128-131 (R377); `via` is
the array of the engine that acts. `linked` holds, under the seal of each image that OLINK linked, the sizes of its pinned
extents (R389); `reports` the vaults that the management log says have left service (R400); `phys` the physical core of each program core 0-511 and, under 512 + die, of each firmware core (R11); `retiring` the CRETIREs that end at the device where their context now is, by context and device (R299); `groupAt` holds each core as it stood before the cycle of its latest rendezvous, for the words of it that
wait on (R73); `sealed` and `sealedFrames` are the key pairs
that encrypted single sectors and whole frames (R371); `cutOff` the lenders that have not answered the requests of the engine command that acts (R370, R453, R456);
`broken` the collectives, by set and number, that a link has ended for every member (R258);
`notices` is what each die's firmware core has been sent (R436, R443); `routes` is what firmware routing says of each endpoint set, its
members' devices by rank (R285, R448); `transit` the flits for other devices with the ports they came by (R452); `replies` the answers
given to messages, by source and channel (R453); `errors` the error responses to
refused writes, by device and address (R327, R444). -/
structure State where
  cores : File Core := []
  cur : Nat := 0
  cl : Nat := 0
  word : Word := 0
  view : Option View := none
  groupAt : File Core := []
  notices : File (List Notice) := []
  agenda : List Turn := []
  inputs : List Input := []
  free : Nat := 0
  mem : List Host.Cell := []
  l2 : List (Nat × Byte) := []
  badSectors : List Nat := []
  sealed : File Nat := []
  sealedFrames : File Nat := []
  vault : List (Nat × Byte) := []
  badVault : List Nat := []
  vaultSeed : File Nat := []
  used : List (Nat × Nat) := []
  ctxs : File Context := []
  runs : List NodeRun := []
  nextRun : Nat := 1
  groups : List Group := []
  nextGroup : Nat := 1
  shadows : List Shadow := []
  blocks : File Block := []
  holds : List Hold := []
  walks : List Walk := []
  looks : File (List Look) := []
  via : Option Nat := none
  xlates : List Xlate := []
  linked : File (List Nat) := []
  joined : List Joined := []
  broken : List (Nat × Nat) := []
  served : File (Nat × Nat) := []
  table : List Byte := []
  tableBusy : Option HostRef := none
  tableNew : List Byte := []
  rows : File (List Row) := []
  counts : File (List Nat) := []
  phys : File Nat := []
  outVaults : List Nat := []
  reports : List Nat := []
  power : Power := {}
  boot : Boot := {}
  device : Nat := 0
  bridge : Bool := false
  lostDevs : List Nat := []
  cutOff : List Nat := []
  ports : File Port := []
  sent : List Msg := []
  nextMsg : File Nat := []
  seen : File Nat := []
  replies : File (List (Nat × Nat)) := []
  routes : File (List Nat) := []
  transit : List (Nat × BitVec 2048) := []
  images : List Image := []
  mirrors : List Image := []
  retiring : List (Nat × Nat × HostRef) := []
  errors : List (Nat × Nat) := []
  faultLog : File Log := []
  replayLog : File Log := []
  violLog : File Log := []
  trace : File (List (BitVec 128)) := []
  apertures : File (BitVec 64) := []
  msix : List Nat := []
  msixTable : File Byte := []
  readBack : List (List Byte) := []
  ns : Nat := 0
  cycle : Nat := 0
  interval : Nat := 0
  epochAt : Nat := 0
deriving DecidableEq, Repr, Inhabited

/-- Why the machine stops. No step of the model stops: every rule of the spec names a next state. -/
inductive Fault where
  /-- The boot ROM found the package without a state it can leave: raised by no step (safe). -/
  | dead
deriving DecidableEq, Repr, Inhabited

/-- Why an instruction has no meaning. -/
inductive Refusal where
  /-- No meaning written yet, by mnemonic: raised by the dispatcher alone (safe). -/
  | notModelled (mnemonic : String)
deriving DecidableEq, Repr, Inhabited

/-- The package right after reset: OPPT POINT 1 and TARGET 1, CAP 5, boot stage 0, every context Retired, every queue
block as R324 gives it, no core busy; the flash as shipped (R324, R467, R475-R477). -/
def State.reset : State :=
  { boot := { slot0 := some Config.shippedImage, bytes0 := Config.shippedBytes, keptErr := Config.shippedError,
              lastErr := Config.shippedError } }

end Sys2Proof.Machine
end

