-- ==== Sys2Proof/Machine/Bits.lean ====
section
/-! DEFINITION. Bit fields, byte order, the numbered collections and the canonical byte memory
(spec/00_scope.md R6, R7). -/

namespace Sys2Proof.Machine

/-- Bits hi down to lo of a number, inclusive (R7). -/
def fld (w hi lo : Nat) : Nat := w / 2 ^ lo % 2 ^ (hi - lo + 1)

/-- Bit n of a number. -/
def bitAt (w n : Nat) : Bool := w / 2 ^ n % 2 == 1

/-- A bit as a number. -/
def b2n (b : Bool) : Nat := if b then 1 else 0

/-- A field of `n` bits read as two's complement (R89). -/
def sgn (n w : Nat) : Int := if w % 2 ^ n < 2 ^ (n - 1) then (w % 2 ^ n : Nat) else (w % 2 ^ n : Nat) - (2 ^ n : Nat)

/-- The field a + off of an address: a signed distance added modulo 2^64 (R89, R118). -/
def addrAdd (a : Addr) (d : Int) : Addr := a + BitVec.ofInt 64 d

/-- Reads key `n` of a collection; a key that is not listed reads as `d`. -/
def fget {α : Type} (d : α) : File α → Nat → α
  | [], _ => d
  | (k, v) :: r, n => if k = n then v else fget d r n

/-- Writes key `n` of a collection, in ascending order of keys. -/
def fput {α : Type} : File α → Nat → α → File α
  | [], n, x => [(n, x)]
  | (k, v) :: r, n, x =>
    if n < k then (n, x) :: (k, v) :: r else if n = k then (n, x) :: r else (k, v) :: fput r n x

/-- Removes key `n`. -/
def fdel {α : Type} : File α → Nat → File α
  | [], _ => []
  | (k, v) :: r, n => if k = n then fdel r n else (k, v) :: fdel r n

/-- Whether key `n` is listed. -/
def fhas {α : Type} : File α → Nat → Bool
  | [], _ => false
  | (k, _) :: r, n => if k = n then true else fhas r n

/-- Applies `f` to the elements that satisfy `p`. -/
def lmap {α : Type} (p : α → Bool) (f : α → α) : List α → List α
  | [] => []
  | x :: r => (if p x then f x else x) :: lmap p f r

/-- One byte of memory; a byte that is not listed reads as 0 (notes/assumptions/3.md). -/
def mget : List Host.Cell → Nat → Byte
  | [], _ => 0
  | (k, v) :: r, n => if k = n then v else mget r n

/-- Removes a byte from the listing. -/
def mdel : List Host.Cell → Nat → List Host.Cell
  | [], _ => []
  | (k, v) :: r, n => if n < k then (k, v) :: r else if k = n then r else (k, v) :: mdel r n

/-- Lists a byte at its place. -/
def mins : List Host.Cell → Nat → Byte → List Host.Cell
  | [], n, x => [(n, x)]
  | (k, v) :: r, n, x =>
    if n < k then (n, x) :: (k, v) :: r else if k = n then (n, x) :: r else (k, v) :: mins r n x

/-- Writes one byte of memory, keeping the canonical form: a byte that reads 0 is not listed. -/
def mput (m : List Host.Cell) (n : Nat) (x : Byte) : List Host.Cell :=
  if x = 0 then mdel m n else mins m n x

/-- Every listed address is above `n`, the addresses rise, and no listed byte is 0. -/
def memWfFrom : Nat → List Host.Cell → Bool
  | _, [] => true
  | n, (k, v) :: r => decide (n ≤ k) && (v != 0) && memWfFrom (k + 1) r

/-- The canonical form of memory: addresses strictly rising, no entry equal to what an unlisted address reads as. -/
def memWf (m : List Host.Cell) : Bool := memWfFrom 0 m

/-- The little-endian number of a list of bytes (R7). -/
def leNat : List Byte → Nat
  | [] => 0
  | b :: r => b.toNat + 256 * leNat r

/-- The `n` little-endian bytes of a number (R7). -/
def leBytes : Nat → Nat → List Byte
  | 0, _ => []
  | n + 1, x => BitVec.ofNat 8 x :: leBytes n (x / 256)

/-- Packs `n` fields of `w` bits, field 0 lowest. -/
def packN (w : Nat) (f : Nat → Nat) : Nat → Nat
  | 0 => 0
  | n + 1 => packN w f n + (f n % 2 ^ w) * 2 ^ (w * n)

/-- Packs the fields from `lo` on, splitting in halves so that long images stay shallow. -/
def packTree (w : Nat) (f : Nat → Nat) : Nat → Nat → Nat
  | 0, lo => f lo % 2 ^ w
  | d + 1, lo => packTree w f d lo + packTree w f d (lo + 2 ^ d) * 2 ^ (w * 2 ^ d)

/-- Lane L of a vector (R181). -/
def lane (v : VVal) (n : Nat) : Word := v.bits.extractLsb' (32 * n) 32

/-- Poison bit of lane L. -/
def lanePois (v : VVal) (n : Nat) : Bool := v.pois.getLsbD n

/-- A vector from its lanes (R181). -/
def ofLanes (f : Nat → Word) : BitVec 16384 := BitVec.ofNat 16384 (packTree 32 (fun i => (f i).toNat) 9 0)

/-- 512 bits from a predicate on lanes. -/
def ofBits (f : Nat → Bool) : BitVec 512 := BitVec.ofNat 512 (packTree 1 (fun i => b2n (f i)) 9 0)

/-- Bit mask of 512 lanes widened to the 32 bits of each lane. -/
def laneMask (g : BitVec 512) : BitVec 16384 := ofLanes (fun i => if g.getLsbD i then 0xFFFFFFFF else 0)

/-- Takes the bits of `new` where the mask is 1 and those of `old` elsewhere. -/
def blend {n : Nat} (mask new old : BitVec n) : BitVec n := (new &&& mask) ||| (old &&& ~~~mask)

/-- Byte `i` of a packed image. -/
def byteOf (x i : Nat) : Byte := BitVec.ofNat 8 (x / 256 ^ i)

/-- The first position at which `p` holds, below `n`. -/
def firstBelow (p : Nat → Bool) : Nat → Option Nat
  | 0 => none
  | n + 1 => match firstBelow p n with
    | some i => some i
    | none => if p n then some n else none

/-- The number of 1 bits among the lowest `n`. -/
def popN (x : Nat) : Nat → Nat
  | 0 => 0
  | n + 1 => popN x n + b2n (bitAt x n)

/-- Replaces bits hi down to lo of a number by `v`. -/
def setFld (w hi lo v : Nat) : Nat :=
  w - fld w hi lo * 2 ^ lo + (v % 2 ^ (hi - lo + 1)) * 2 ^ lo

/-- Applies `f` for i = 0 to n − 1, in ascending order. -/
def loopN {α : Type} (f : Nat → α → α) : Nat → α → α
  | 0, x => x
  | n + 1, x => f n (loopN f n x)

/-- The cluster numbers A, V, M, C of R70. -/
def clA : Nat := 0
/-- Cluster V. -/
def clV : Nat := 1
/-- Cluster M. -/
def clM : Nat := 2
/-- Cluster C. -/
def clC : Nat := 3

end Sys2Proof.Machine
end

