-- ==== Sys2Proof/Machine/Hash.lean ====
section
/-! DEFINITION. The digests and check words that the spec names: SHA-384 (spec/11_kernel.md R301, R321; the function
itself is that of FIPS 180-4, notes/assumptions/12.md), CRC-32 and CRC-32C (spec/20_link.md R449, R453). -/

namespace Sys2Proof.Machine

/-- The first primes. -/
def shaPrimes : List Nat :=
  [2, 3, 5, 7, 11, 13, 17, 19, 23, 29, 31, 37, 41, 43, 47, 53, 59, 61, 67, 71, 73, 79, 83, 89, 97, 101, 103, 107, 109,
   113, 127, 131, 137, 139, 149, 151, 157, 163, 167, 173] ++
  [179, 181, 191, 193, 197, 199, 211, 223, 227, 229, 233, 239, 241, 251, 257, 263, 269, 271, 277, 281, 283, 293, 307,
   311, 313, 317, 331, 337, 347, 349, 353, 359, 367, 373, 379, 383, 389, 397, 401, 409]

/-- The integer part of a k-th root, bit by bit. -/
def rootN (k x : Nat) : Nat → Nat → Nat
  | 0, r => r
  | n + 1, r => if (r + 2 ^ n) ^ k ≤ x then rootN k x n (r + 2 ^ n) else rootN k x n r

/-- The round constants: 64 fraction bits of the cube roots of the first 80 primes. -/
def shaK : List (BitVec 64) := shaPrimes.map fun p => BitVec.ofNat 64 (rootN 3 (p * 2 ^ 192) 68 0)

/-- The initial state: 64 fraction bits of the square roots of the ninth to sixteenth primes. -/
def shaInit : List (BitVec 64) := ((shaPrimes.drop 8).take 8).map fun p => BitVec.ofNat 64 (rootN 2 (p * 2 ^ 128) 68 0)

/-- The message schedule, extended by one word at a time, newest first. -/
def shaExtend : Nat → List (BitVec 64) → List (BitVec 64)
  | 0, w => w
  | n + 1, w =>
    let g := fun i => w.getD i 0
    let s0 := (g 14).rotateRight 1 ^^^ (g 14).rotateRight 8 ^^^ (g 14 >>> 7)
    let s1 := (g 1).rotateRight 19 ^^^ (g 1).rotateRight 61 ^^^ (g 1 >>> 6)
    shaExtend n ((s1 + g 6 + s0 + g 15) :: w)

/-- One round. -/
def shaRound (h : List (BitVec 64)) (kw : BitVec 64) : List (BitVec 64) :=
  let g := fun i => h.getD i 0
  let e := g 4
  let a := g 0
  let t1 := g 7 + (e.rotateRight 14 ^^^ e.rotateRight 18 ^^^ e.rotateRight 41) + ((e &&& g 5) ^^^ (~~~e &&& g 6)) + kw
  let t2 := (a.rotateRight 28 ^^^ a.rotateRight 34 ^^^ a.rotateRight 39) + ((a &&& g 1) ^^^ (a &&& g 2) ^^^ (g 1 &&& g 2))
  [t1 + t2, a, g 1, g 2, g 3 + t1, e, g 5, g 6]

/-- One block of 128 bytes. -/
def shaBlock (h : List (BitVec 64)) (b : List Byte) : List (BitVec 64) :=
  let w := (List.range 16).map fun i => BitVec.ofNat 64 (leNat ((b.drop (8 * i)).take 8).reverse)
  let ws := (shaExtend 64 w.reverse).reverse
  let h1 := (ws.zip shaK).foldl (fun h x => shaRound h (x.1 + x.2)) h
  (h.zip h1).map fun x => x.1 + x.2

/-- SHA-384 of a list of bytes: 48 bytes. -/
def sha384 (m : List Byte) : List Byte :=
  let pad := (239 - m.length % 128) % 128
  let all := m ++ [0x80] ++ List.replicate pad 0 ++ (leBytes 16 (8 * m.length)).reverse
  let h := (List.range (all.length / 128)).foldl (fun h i => shaBlock h ((all.drop (128 * i)).take 128)) shaInit
  ((h.take 6).map fun x => (leBytes 8 x.toNat).reverse).flatten

/-- One byte of a reflected CRC. -/
def crcByte (poly : Word) (c : Word) (b : Byte) : Word :=
  loopN (fun _ c => if c.getLsbD 0 then (c >>> 1) ^^^ poly else c >>> 1) 8 (c ^^^ b.setWidth 32)

/-- CRC-32 of IEEE 802.3: 0x04C11DB7 reflected, initial value and final XOR all ones (R449). -/
def crc32 (m : List Byte) : Word := ~~~(m.foldl (crcByte 0xEDB88320) 0xFFFFFFFF)

/-- CRC-32C: 0x1EDC6F41 reflected (R453). -/
def crc32c (m : List Byte) : Word := ~~~(m.foldl (crcByte 0x82F63B78) 0xFFFFFFFF)

end Sys2Proof.Machine
end

