-- ==== Sys2Proof/Machine/Window.lean ====
section
/-! DEFINITION. The queue register blocks as memory shows them, and where the queue window lies
(spec/12_queue.md R323, R324; notes/assumptions/22.md). -/

namespace Sys2Proof.Machine

/-- The register block of a context queue starts assigned to its own context; others to none (R324). -/
def defBlock (n : Nat) : Block := if 132 ≤ n && n < 1156 then { owner := n - 132, ov := true } else {}

/-- Block `n`. -/
def blockAt (s : State) (n : Nat) : Block := if fhas s.blocks n then fget {} s.blocks n else defBlock n
/-- Writes block `n`. -/
def setBlock (s : State) (n : Nat) (b : Block) : State := { s with blocks := fput s.blocks n b }

/-- The depth of a block's queue; 0 where the block serves nothing (R322, R323). -/
def blockDepth (n : Nat) : Nat :=
  if n < 128 then 64 else if n < 132 then 32 else if n < 1156 then 256 else if n < 1160 then 64 else 0

/-- Commands queued: those that no engine has accepted (R163, R324). -/
def occOf (b : Block) : Nat := (b.cmds.filter fun c => match c with | .taken _ => false | _ => true).length

/-- A packet word of a block. -/
def pkWord (p : Packet) (i : Nat) : Word := match i with | 0 => p.w0 | 1 => p.w1 | 2 => p.w2 | _ => p.w3

/-- The 32-bit register at an offset of a block, as loads read it (R324). -/
def blockWord (s : State) (n off : Nat) : Nat :=
  let b := blockAt s n
  if blockDepth n = 0 then 0
  else match off / 4 with
    | 0 => b.pk.w0.toNat
    | 1 => b.pk.w1.toNat
    | 2 => b.pk.w2.toNat
    | 3 => b.pk.w3.toNat
    | 5 => occOf b + blockDepth n * 2 ^ 12 + b2n b.held * 2 ^ 24 + b2n (b.staged || b.held) * 2 ^ 25
    | 6 => b2n b.en + b2n b.opn * 2 + b.cplsz % 16 * 4 + b.owner % 1024 * 64 + b2n b.ov * 2 ^ 16
    | 7 => b.ecode % 256 + b.ecount % 256 * 256 + b2n b.ev * 2 ^ 31
    | 8 => b.eaddr % 2 ^ 32
    | 9 => b.eaddr / 2 ^ 32 % 2 ^ 16 + b.edev % 2 ^ 16 * 2 ^ 16
    | 10 => b.cplbase % 2 ^ 32
    | 11 => b.cplbase / 2 ^ 32 % 2 ^ 32
    | 12 => b.cplack.toNat
    | _ => 0

/-- The device address of this package's queue window (notes/assumptions/22.md). -/
def windowKey : Nat := 2 ^ 51

/-- The queue register block whose frame holds a byte: the device and the block, with the offset (R323). This package's
window lies at `windowKey`; another device's is the last two frames of its lending region. -/
def blockOfKey (s : State) (k : Nat) : Option (Nat × Nat × Nat) :=
  if windowKey ≤ k && k < windowKey + 131072 then some (s.device, (k - windowKey) / 64, k % 64)
  else if 2 ^ 53 ≤ k && 0xFFFFE ≤ (k - 2 ^ 53) / 65536 % 2 ^ 20 then
    some ((k - 2 ^ 53) / 2 ^ 36, (k - 2 ^ 53) % 131072 / 64, k % 64)
  else none

/-- The 32-bit register at an offset of block `n` of another device, as loads read it: DEPTH, the bits that R324 fixes for the kind of block
and the zero bits are as it gives them, and the rest is that device's own. -/
def farWord (s : State) (d n off : Nat) : Nat :=
  let x := Config.farWord d (64 * n + off / 4 * 4) s.cycle
  if blockDepth n = 0 then 0
  else match off / 4 with
    | 4 => 0
    | 5 => x % 2 ^ 12 % (blockDepth n + 1) + blockDepth n * 2 ^ 12 + x / 2 ^ 24 % 2 * 2 ^ 24 + max (x / 2 ^ 24 % 2) (x / 2 ^ 25 % 2) * 2 ^ 25
    | 6 => if n < 132 then x % 2 ^ 17 else if n < 1156 then x % 2 ^ 6 + (n - 132) * 2 ^ 6 + 2 ^ 16 else x % 2 ^ 16
    | 7 => x % 2 ^ 16 + x / 2 ^ 31 % 2 * 2 ^ 31
    | 10 => x % 2 ^ 32 / 16 * 16
    | 13 => 0
    | 14 => 0
    | 15 => 0
    | _ => x % 2 ^ 32

/-- A byte of a queue window, when `k` lies in this package's or in another device's. -/
def windowByte (s : State) (k : Nat) : Option Byte :=
  (blockOfKey s k).map fun x =>
    BitVec.ofNat 8 ((if x.1 = s.device then blockWord s x.2.1 x.2.2 else farWord s x.1 x.2.1 x.2.2) / 256 ^ (x.2.2 % 4))

end Sys2Proof.Machine
end

