-- ==== Sys2Proof/Machine/Mem.lean ====
section
/-! DEFINITION. Memory as the agents reach it: device bytes with the L2 over the backing tier, the page walk and its
leaves, fork views, the L1 of each core, and the vault with its extent check (spec/06_isa_access.md R146-R154,
spec/15_page.md, spec/16_extent.md, spec/17_memory_model.md). -/

namespace Sys2Proof.Machine

/-- The die of a core: program cores are 0-511, and 512 + d is the firmware core of die d (R11). -/
def dieOf (n : Nat) : Nat := if n < 512 then n / 128 else (n - 512) % 4

/-- Core `n` of the package. -/
def coreAt (s : State) (n : Nat) : Core := fget {} s.cores n
/-- Writes core `n`. -/
def setCoreAt (s : State) (n : Nat) (c : Core) : State := { s with cores := fput s.cores n c }
/-- Context `n`. -/
def ctxAt (s : State) (n : Nat) : Context := fget {} s.ctxs n
/-- Writes context `n`. -/
def setCtx (s : State) (n : Nat) (c : Context) : State := { s with ctxs := fput s.ctxs n c }
/-- Cluster `cl` of a core. -/
def cluAt (c : Core) (cl : Nat) : Clu := fget {} c.clu cl
/-- Writes cluster `cl` of a core. -/
def putClu (c : Core) (cl : Nat) (k : Clu) : Core := { c with clu := fput c.clu cl k }

/-- A free value of the device's choosing, and the state with the counter advanced (notes/assumptions/4.md). -/
def freeVal (s : State) : Nat × State := (Config.free s.free, { s with free := s.free + 1 })

/-! ### Device bytes -/

/-- Where a frame of a tier begins: HBM4E and the cold tier at device addresses 0 and 2^40, lent frames in a space apart
(R370; notes/assumptions/15.md). -/
def tierBase (tier : Nat) : Nat := if tier = 0 then 0 else if tier = 1 then 2 ^ 40 else 2 ^ 53

/-- The key of a byte of a frame. A frame number past the installed memory has its key too: the spec gives no outcome for a leaf or an
aperture that names one, and the model lets it hold bytes, those of tier 0 from frame 2^24 on being cold ones (DESIGN CHOICE,
notes/assumptions/15.md). -/
def frameKey (tier frame off : Nat) : Nat := tierBase tier + frame * 65536 + off

/-- A byte as the device scope sees it: a queue register, or the L2 over the backing tier. -/
def devByte (s : State) (k : Nat) : Byte :=
  if windowKey ≤ k then match windowByte s k with
    | some b => b
    | none => if fhas s.l2 k then fget 0 s.l2 k else mget s.mem k
  else if fhas s.l2 k then fget 0 s.l2 k else mget s.mem k

/-- `n` bytes from key `k` on. -/
def devBytes (s : State) (k : Nat) : Nat → List Byte
  | 0 => []
  | n + 1 => devByte s k :: devBytes s (k + 1) n

/-- A store to the 512-byte line `line` has been performed at device scope: Valid translations of its words are Stale
(R313, R315). -/
def staleLine (line : Nat) (l : List Xlate) : List Xlate :=
  lmap (fun x => x.st == .valid && x.lines.contains line) (fun x => { x with st := .stale }) l

/-- The lines that a frame held are also those of the frame at `dst` that takes its place: a store to it is one to code (R315). -/
def alsoLines (src dst : Nat) (l : List Xlate) : List Xlate :=
  l.map fun x => { x with lines := x.lines ++ (x.lines.filter fun k => k * 512 / 65536 == src / 65536).map fun k => (k * 512 - src + dst) / 512 }

/-- The bytes of a range have changed at device scope (R313). -/
def staleRange (lo n : Nat) (l : List Xlate) : List Xlate :=
  lmap (fun x => x.st == .valid && x.lines.any fun k => decide (lo < 512 * (k + 1)) && decide (512 * k < lo + n)) (fun x => { x with st := .stale }) l

/-- Writes a byte at device scope: it becomes dirty in the L2. -/
def devPut (s : State) (k : Nat) (b : Byte) : State := { s with l2 := fput s.l2 k b, xlates := staleLine (k / 512) s.xlates }

/-- Writes bytes from key `k` on. -/
def devPuts (s : State) (k : Nat) : List Byte → State
  | [] => s
  | b :: r => devPuts (devPut s k b) (k + 1) r

/-- Writes the L2 bytes of a range back to the backing tier (R180). -/
def l2Clean (s : State) (lo n : Nat) : State :=
  let here := s.l2.filter fun x => lo ≤ x.1 && x.1 < lo + n
  { s with mem := here.foldl (fun m x => mput m x.1 x.2) s.mem,
           l2 := s.l2.filter fun x => !(lo ≤ x.1 && x.1 < lo + n) }

/-- Drops the L2 bytes of a range without writing them back (R153). -/
def l2Drop (s : State) (lo n : Nat) : State :=
  { s with l2 := s.l2.filter (fun x => !(lo ≤ x.1 && x.1 < lo + n)), xlates := staleRange lo n s.xlates }

/-- The key pair that encrypted the sector of a byte, where one did: its own, or that of its whole frame (R371). -/
def sealOf (s : State) (k : Nat) : Option Nat :=
  if fhas s.sealed (k / 64) then some (fget 0 s.sealed (k / 64))
  else if fhas s.sealedFrames (k / 65536) then some (fget 0 s.sealedFrames (k / 65536)) else none

/-- The sector of a byte is encrypted under another key pair than `km`. -/
def otherSeal (s : State) (km k : Nat) : Bool := (sealOf s k).any fun t => t != km

/-- A device byte as an access under the key pair `km` reads it: a sector that another pair encrypted gives no sense (R371). -/
def plainByte (s : State) (km k : Nat) : Byte :=
  if otherSeal s km k && (windowByte s k).isNone then Config.garble ((sealOf s k).getD 0) km k (devByte s k) else devByte s k

/-- A sector is encrypted afresh under the pair `km`, as that pair reads it (R371). -/
def sealSector (s : State) (km sec : Nat) : State :=
  let s1 := if otherSeal s km (64 * sec) then
      loopN (fun i t => devPut t (sec * 64 + i) (plainByte s km (sec * 64 + i))) 64 s
    else s
  { s1 with sealed := fput s1.sealed sec km }

/-- The `n` frames that a leaf names are encrypted under the key pair of its slot, where the slot holds one and a frame carries none yet
(R371). -/
def sealLeaf (ctx leaf n : Nat) (s : State) : State :=
  let keys := (fget ({} : Context) s.ctxs ctx).keys
  let at_ := frameKey (fld leaf 10 9) (fld leaf 52 17) 0 / 65536
  if !fhas keys (fld leaf 16 12) then s
  else { s with sealedFrames := (List.range n).foldl (fun f i =>
    if fhas f (at_ + i) then f else fput f (at_ + i) (fget 0 keys (fld leaf 16 12))) s.sealedFrames }

/-- The little-endian number of `n` device bytes. -/
def devNat (s : State) (k n : Nat) : Nat := leNat (devBytes s k n)

/-! ### Sectors of the L1 -/

/-- The sector of a core's L1 that holds key `k`. -/
def sectorOf (l : List Sector) (k : Nat) : Option Sector := l.find? fun x => x.key == k / 64

/-- Writes the bytes of a sector that a mask names to the device scope, under the sector's key pair. -/
def sectorOut (mask : Sector → BitVec 64) (s : State) (x : Sector) : State :=
  if mask x = 0 then s
  else loopN (fun i s => if (mask x).getLsbD i then devPut s (x.key * 64 + i) (x.bytes.extractLsb' (8 * i) 8) else s) 64
    (sealSector s x.kmat x.key)

/-- Writes back the dirty sectors of core `n` that satisfy `p`, held bytes included; they stay, clean (R369). -/
def writeBack (p : Sector → Bool) (n : Nat) (s : State) : State :=
  let c := coreAt s n
  let s := (c.l1.filter p).foldl (sectorOut fun x => x.dirty) s
  setCoreAt s n { c with l1 := lmap p (fun x => { x with dirty := 0, held := 0 }) c.l1 }

/-- Writes back the dirty bytes that no REL holds, in the sectors of core `n` that satisfy `p` (R369, R409). -/
def writeUnheld (p : Sector → Bool) (n : Nat) (s : State) : State :=
  let c := coreAt s n
  let s := (c.l1.filter p).foldl (sectorOut fun x => x.dirty &&& ~~~x.held) s
  setCoreAt s n { c with l1 := lmap p (fun x => { x with dirty := x.dirty &&& x.held }) c.l1 }

/-- A sector whose clean bytes are fetched again. -/
def freshBytes (s : State) (x : Sector) : Sector :=
  { x with bad := s.badSectors.contains x.key, bytes := BitVec.ofNat 512 (packN 8 (fun i =>
    (if x.dirty.getLsbD i then x.bytes.extractLsb' (8 * i) 8 else plainByte s x.kmat (x.key * 64 + i)).toNat) 64) }

/-- Drops core `n`'s copies of the sectors that satisfy `p`: a clean sector leaves, and the bytes of a dirty sector that
the core has not stored itself are fetched again. -/
def dropClean (p : Sector → Bool) (n : Nat) (s : State) : State :=
  let c := coreAt s n
  setCoreAt s n { c with l1 := lmap p (freshBytes s) (c.l1.filter fun x => !(p x && x.dirty == 0)) }

/-- Writes back and drops the sectors of core `n` that satisfy `p`, held bytes included. -/
def evictAll (p : Sector → Bool) (n : Nat) (s : State) : State := dropClean p n (writeBack p n s)

/-- A sector with byte `i` replaced by a value that the device scope holds. -/
def takeByte (i : Nat) (b : Byte) (x : Sector) : Sector :=
  { x with bytes := blend ((0xFF : BitVec 512) <<< (8 * i)) ((b.setWidth 512) <<< (8 * i)) x.bytes,
           dirty := x.dirty &&& ~~~((1 : BitVec 64) <<< i), held := x.held &&& ~~~((1 : BitVec 64) <<< i) }

/-- Every core's copy of a byte takes the value that an engine, a device or the host wrote (R165, R408). -/
def allL1 (s : State) (k : Nat) (b : Byte) : State :=
  { s with cores := s.cores.map fun nc => (nc.1, { nc.2 with l1 := lmap (fun x => x.key == k / 64) (takeByte (k % 64) b) nc.2.l1 }) }

/-- Core `n`'s copy of a byte takes the value that it stored strongly, and so does every other core's copy, but for a byte
that the other core has stored itself: that store stands later in coherence order (R404). -/
def coreL1 (s : State) (n k : Nat) (b : Byte) : State :=
  { s with cores := s.cores.map fun nc => (nc.1, { nc.2 with
      l1 := lmap (fun x => x.key == k / 64 && (nc.1 == n || !x.dirty.getLsbD (k % 64))) (takeByte (k % 64) b) nc.2.l1 }) }

/-- Writes one byte past every L1: a device's or the host's write. -/
def strongPut (s : State) (k : Nat) (b : Byte) : State := allL1 (devPut s k b) k b

/-- Writes bytes past every L1. -/
def strongPuts (s : State) (k : Nat) : List Byte → State
  | [] => s
  | b :: r => strongPuts (strongPut s k b) (k + 1) r

/-- An engine's write of a byte through a page of the key pair `km`. -/
def keyPut (s : State) (km k : Nat) (b : Byte) : State :=
  if (windowByte s k).isSome then strongPut s k b else strongPut (sealSector s km (k / 64)) k b

/-- The number of no core: an agent without an L1. -/
def noCore : Nat := 4096

/-- A strong store of a byte by core `n` through a page of the key pair `km`. -/
def corePut (s : State) (n km k : Nat) (b : Byte) : State :=
  let s := if (windowByte s k).isSome then s else sealSector s km (k / 64)
  coreL1 (devPut s k b) n k b

/-- The sector of key `k` as core `n` fetches it, under the key pair `km`. -/
def fetchSector (s : State) (k : Nat) (u : Bool) (km : Nat) : Sector :=
  freshBytes s { key := k / 64, bytes := 0, dirty := 0, kindU := u, kmat := km }

/-- Brings the sector of key `k` into core `n`'s L1 for an access of kind U or C under the key pair `km`. A copy that only
accesses of kind U used is fetched again for one of kind C, and one of another key pair is evicted first (R369, R371). -/
def fillSector (s : State) (n k : Nat) (u : Bool) (km : Nat) : State :=
  match sectorOf (coreAt s n).l1 k with
  | some x =>
    if x.kmat != km then
      let s := evictAll (fun x => x.key == k / 64) n s
      setCoreAt s n { coreAt s n with l1 := (coreAt s n).l1 ++ [fetchSector s k u km] }
    else if x.kindU && !u then
      setCoreAt s n { coreAt s n with l1 := lmap (fun x => x.key == k / 64) (fun x => { freshBytes s x with kindU := false }) (coreAt s n).l1 }
    else s
  | none => setCoreAt s n { coreAt s n with l1 := (coreAt s n).l1 ++ [fetchSector s k u km] }

/-- A byte as a weak load of core `n` reads it: its L1's copy when it has one (R369). -/
def weakByte (s : State) (n km k : Nat) : Byte :=
  match sectorOf (coreAt s n).l1 k with
  | some x => x.bytes.extractLsb' (8 * (k % 64)) 8
  | none => plainByte s km k

/-- A weak store of one byte by core `n`: dirty in its L1, and the latest of its core's stores. -/
def weakPut (s : State) (n k : Nat) (u : Bool) (km : Nat) (b : Byte) : State :=
  let s := fillSector s n k u km
  let c := coreAt s n
  setCoreAt s n { c with
    stores := c.stores + 1
    l1 := lmap (fun x => x.key == k / 64) (fun x => { takeByte (k % 64) b x with
      dirty := x.dirty ||| ((1 : BitVec 64) <<< (k % 64)), stamps := fput x.stamps (k % 64) (c.stores + 1)
      since := if x.dirty.getLsbD (k % 64) then x.since else fput x.since (k % 64) (c.stores + 1) }) c.l1 }

/-- Before a strong access of core `n` to the sector of key `k`: what it has stored there is written back, but for what a REL
holds, and what it has not stored is fetched again (R154). -/
def flushSector (s : State) (n k : Nat) : State :=
  dropClean (fun x => x.key == k / 64) n (writeUnheld (fun x => x.key == k / 64) n s)

/-! ### Leaves and walks -/

/-- Fields of a leaf entry (R368). -/
def leafW (l : BitVec 64) : Bool := l.getLsbD 1
/-- X of a leaf. -/
def leafX (l : BitVec 64) : Bool := l.getLsbD 2
/-- KIND of a leaf: 0 S, 1 C, 2 U. -/
def leafKind (l : BitVec 64) : Nat := fld l.toNat 5 4
/-- SH of a leaf. -/
def leafSH (l : BitVec 64) : Bool := l.getLsbD 6
/-- F of a leaf. -/
def leafF (l : BitVec 64) : Bool := l.getLsbD 8
/-- TIER of a leaf. -/
def leafTier (l : BitVec 64) : Nat := fld l.toNat 10 9
/-- LU of a leaf. -/
def leafLU (l : BitVec 64) : Bool := l.getLsbD 11
/-- KEY of a leaf. -/
def leafKey (l : BitVec 64) : Nat := fld l.toNat 16 12
/-- PFN of a leaf. -/
def leafPfn (l : BitVec 64) : Nat := fld l.toNat 52 17

/-- The check of R368 on a leaf at `level`: 0, or the cause of R379. -/
def leafCause (level l : Nat) : Nat :=
  if bitAt l 0 = false then 1
  else if fld l 5 4 = 3 then 2
  else if fld l 10 9 = 3 then 3
  else if bitAt l 7 || fld l 63 53 != 0 then 4
  else if (level = 2 && bitAt l 3) || (bitAt l 3 && fld l 25 17 != 0) then 5
  else 0

/-- The check of R366 on a pointer: V set, reserved bits zero, L zero. -/
def ptrBad (level l : Nat) : Bool :=
  !(bitAt l 0) || fld l 2 1 != 0 || bitAt l 3 || fld l 11 4 != 0 || fld l 63 52 != 0
    || (level == 0 && fld l 15 12 != 0)

/-- What a walk finds: the leaf of the 64 KiB page, where it stands and its level; or a cause and a level (R379). -/
inductive Found where
  | leaf (l : BitVec 64) (at_ : Nat) (level : Nat) | bad (cause level : Nat)
deriving DecidableEq, Repr, Inhabited

/-- The three-level walk of R365 for page number `page` (va[47:16]). The leaf of a 32 MiB page is answered as that of
the 64 KiB page inside it. -/
def walkTable (s : State) (ptroot page : Nat) : Found :=
  let a0 := ptroot * 65536 + 8 * (page / 4194304)
  let e0 := devNat s a0 8
  if ptrBad 0 e0 then .bad 6 0 else
  let a1 := fld e0 51 12 * 4096 + 8 * (page / 512 % 8192)
  let e1 := devNat s a1 8
  if bitAt e1 3 then
    if leafCause 1 e1 ≠ 0 then .bad (leafCause 1 e1) 1
    else .leaf (BitVec.ofNat 64 (setFld e1 52 17 (fld e1 52 17 + page % 512))) a1 1
  else if ptrBad 1 e1 then .bad 6 1 else
  let a2 := fld e1 51 12 * 4096 + 8 * (page % 512)
  let e2 := devNat s a2 8
  if leafCause 2 e2 ≠ 0 then .bad (leafCause 2 e2) 2 else .leaf (BitVec.ofNat 64 e2) a2 2

/-- A fabric port carries flits (R454). -/
def someUp (s : State) : Bool := s.ports.any fun p => p.2.st == .up8 || p.2.st == .up4

/-- Device `d` is lost, or has not answered the request of the engine command that acts: while a link trains, messages wait (R453, R454,
R456). -/
def unreachable (s : State) (d : Nat) : Bool := d != s.device && (s.lostDevs.contains d || s.cutOff.contains d)

/-- The page lies on a device that cannot be reached (R370, R456). -/
def lenderLost (s : State) (l : BitVec 64) : Bool := leafTier l == 2 && unreachable s (leafPfn l / 2 ^ 20)

/-- The page is a queue window's, which is no frame of a lending region: what a word delivers to a block there is the block's to refuse (R251,
R323, R456). -/
def queueFrame (l : BitVec 64) : Bool := leafTier l == 2 && decide (0xFFFFE ≤ leafPfn l % 2 ^ 20)

/-- A walk that also asks for a key in the page's slot and for a lender that is not lost (R284, R370, R379). -/
def walkKey (s : State) (ctx page : Nat) : Found :=
  match walkTable s (ctxAt s ctx).ptroot page with
  | .leaf l a n =>
    if !fhas (ctxAt s ctx).keys (leafKey l) then .bad 7 n
    else if lenderLost s l && !queueFrame l then .bad 8 n
    else .leaf l a n
  | f => f

/-- The entry for a page in the lookaside array of a bench engine, 0-127, or in the second-level array of a die, 128-131 (R377). -/
def heldLeaf (s : State) (arr ctx page : Nat) : Option (BitVec 64) :=
  ((fget [] s.looks arr).find? fun e => e.ctx == ctx && e.page == page).map fun e => e.leaf

/-- A leaf enters an array of a bench engine or of a die (R377). -/
def keepHeld (arr ctx page : Nat) (l : BitVec 64) (s : State) : State :=
  { s with looks := fput s.looks arr ({ ctx := ctx, page := page, leaf := l } :: (fget [] s.looks arr).filter fun e => !(e.ctx == ctx && e.page == page)) }

/-- The leaf that an agent at device scope uses for a page: that of the lookaside arrays of the engine that acts, its bench's first
and then its die's, and else what a walk finds (R377, R378). -/
def findLeaf (s : State) (ctx page : Nat) : Found :=
  match s.via.bind fun a => heldLeaf s a ctx page <|> (if a < 128 then heldLeaf s (128 + a / 32) ctx page else none) with
  | some l => if lenderLost s l && !queueFrame l then .bad 8 2 else .leaf l 0 2
  | none => walkKey s ctx page

/-! ### The leaves of a context -/

/-- The places of the 8-byte entries, among the `n` that start at `at_`, of which some byte is listed; every other entry
is 0. -/
def listedIn (s : State) (at_ n : Nat) : List Nat :=
  let f := fun (x : Nat × Byte) => if at_ ≤ x.1 && x.1 < at_ + 8 * n then some ((x.1 - at_) / 8) else none
  let l := (s.l2.filterMap f ++ s.mem.filterMap f).eraseDups
  if l.isEmpty then [] else (List.range n).filter fun i => l.contains i

/-- The valid level-2 leaves under a level-1 pointer: level, place, page, leaf. -/
def leaves2 (s : State) (e1 page : Nat) : List (Nat × Nat × Nat × Nat) :=
  let t2 := fld e1 51 12 * 4096
  (listedIn s t2 512).flatMap fun i =>
    let e := devNat s (t2 + 8 * i) 8
    if leafCause 2 e = 0 then [(2, t2 + 8 * i, page + i, e)] else []

/-- The valid leaves under a level-0 pointer. -/
def leaves1 (s : State) (e0 page : Nat) : List (Nat × Nat × Nat × Nat) :=
  let t1 := fld e0 51 12 * 4096
  (listedIn s t1 8192).flatMap fun i =>
    let e := devNat s (t1 + 8 * i) 8
    if bitAt e 3 then (if leafCause 1 e = 0 then [(1, t1 + 8 * i, page + 512 * i, e)] else [])
    else if ptrBad 1 e then [] else leaves2 s e (page + 512 * i)

/-- The valid leaves of a context, in ascending order of pages. -/
def leavesOf (s : State) (ctx : Nat) : List (Nat × Nat × Nat × Nat) :=
  let root := (ctxAt s ctx).ptroot * 65536
  (listedIn s root 1024).flatMap fun i =>
    let e := devNat s (root + 8 * i) 8
    if ptrBad 0 e then [] else leaves1 s e (4194304 * i)

/-! ### Fork views -/

/-- The live groups of a context that `owner` forked and that fork a page (R373). -/
def ownGroups (s : State) (ctx : Nat) (owner : List (Nat × Nat)) (page : Nat) : List Group :=
  s.groups.filter fun g => g.ctx == ctx && g.owner == owner && g.maps.any fun m => m.page == page

/-- The fork-map entry of a group for a page. -/
def forkEntry (s : State) (uid page : Nat) : Option Fork :=
  (s.groups.find? fun g => g.uid == uid).bind fun g => g.maps.find? fun m => m.page == page

/-- The newest live group of a context that `owner` forked and that forks a page, with its entry: the owner's view of the page is
its view as the owner of that group, whose original is what the owner saw when it forked (R373). -/
def ownEntry (s : State) (ctx : Nat) (owner : List (Nat × Nat)) (page : Nat) : Option (Group × Fork) :=
  (ownGroups s ctx owner page).getLast?.bind fun g => (g.maps.find? fun m => m.page == page).map fun m => (g, m)

/-- What viewer `i` of an entry reads: its copy, or the original; 64 is the owner. -/
def entryFrame (m : Fork) (i : Nat) : Nat := if fhas m.copies i then fget 0 m.copies i else m.orig

/-- The frame that a viewer's read of a fork page uses (R373). -/
def viewFrame (s : State) (ctx page pfn : Nat) : List (Nat × Nat) → Nat
  | [] => match ownEntry s ctx [] page with
    | some (_, m) => entryFrame m 64
    | none => pfn
  | (g, i) :: rest =>
    match ownEntry s ctx ((g, i) :: rest) page with
    | some (_, m) => entryFrame m 64
    | none => match forkEntry s g page with
      | some m => entryFrame m i
      | none => viewFrame s ctx page pfn rest

/-- Runs of frames of a tier that the leaves of live contexts name: first frame and frames (R372). -/
def namedRuns (s : State) (tier : Nat) : List (Nat × Nat) :=
  (s.ctxs.filter fun x => x.2.st != .retired).flatMap fun x => ((leavesOf s x.1).filter fun l => fld l.2.2.2 10 9 == tier).map fun l =>
    (fld l.2.2.2 52 17, if l.1 = 1 then 512 else 1)

/-- A frame is in use, named by a leaf of a live context, or a byte of it is listed: something has written it. -/
def taken (s : State) (tier f : Nat) : Bool :=
  let here := fun (x : Nat × Byte) => x.1 / 65536 == frameKey tier f 0 / 65536
  s.used.contains (tier, f) || s.mem.any here || s.l2.any here
    || (namedRuns s tier).any fun r => decide (r.1 ≤ f) && decide (f < r.1 + r.2)

/-- The first of `n` frames in a row, at a multiple of `n`, that are not taken. -/
def cleanRun (s : State) (tier n : Nat) : Nat → Nat → Nat
  | 0, f => f
  | k + 1, f => if (List.range n).any fun i => taken s tier (f + i) then cleanRun s tier n k (f + n) else f

/-- Takes `n` free frames of a tier in a row, whose bytes are 0 (notes/assumptions/15.md). -/
def takeRun (s : State) (tier n : Nat) : Nat × State :=
  let f := cleanRun s tier n (s.used.length + s.mem.length + s.l2.length + 512 * (namedRuns s tier).length) 0
  (f, { s with used := ((List.range n).map fun i => (tier, f + i)) ++ s.used })

/-- Takes a free frame of a tier. -/
def takeFrame (s : State) (tier : Nat) : Nat × State := takeRun s tier 1

/-- Frees a frame; its bytes and marks are gone, from every L1 too. -/
def freeFrame (s : State) (tier frame : Nat) : State :=
  let stays := fun (x : Nat × Byte) => x.1 / 65536 != frameKey tier frame 0 / 65536
  { s with used := s.used.filter fun x => x != (tier, frame), mem := s.mem.filter stays, l2 := s.l2.filter stays,
           sealed := s.sealed.filter fun x => x.1 * 64 / 65536 != frameKey tier frame 0 / 65536,
           sealedFrames := fdel s.sealedFrames (frameKey tier frame 0 / 65536),
           badSectors := s.badSectors.filter fun x => x * 64 / 65536 != frameKey tier frame 0 / 65536,
           cores := s.cores.map fun c => (c.1, { c.2 with l1 := c.2.l1.filter fun x => x.key * 64 / 65536 != frameKey tier frame 0 / 65536 }) }

/-- Frames of the cold tier that the saved extents of a context take (R289, R401). -/
def extFrames (x : Context) : Nat := x.exts.foldl (fun n e => if e.st = 3 then n + (e.size + 65535) / 65536 else n) 0

/-- Frames of the cold tier that saved extents take. -/
def savedFrames (s : State) : Nat := s.ctxs.foldl (fun n x => n + extFrames x.2) 0

/-- Frames of the cold tier that a step mirror takes at its holder (R297). -/
def mirrorSize (img : Image) : Nat := img.frames.foldl (fun n r => n + r.2.2.1) 0 + extFrames img.copy

/-- Frames of the cold tier that the mirrors held here take. -/
def mirrorFrames (s : State) : Nat := s.mirrors.foldl (fun n i => n + mirrorSize i) 0

/-- Frames of a tier that a group has reserved and not used: N + 1 for each page, less the copies made (R372). -/
def reservedOf (g : Group) (tier : Nat) : Nat :=
  g.maps.foldl (fun n m => if m.tier = tier then n + (g.n + 1 - m.copies.length) else n) 0

/-- Frames of a tier that leaves of live contexts name and that the device has not given out: the host's own choice (R372). -/
def hostFrames (s : State) (tier : Nat) : Nat :=
  let fs := (namedRuns s tier).flatMap fun r => (List.range r.2).map fun i => r.1 + i
  (fs.eraseDups.filter fun f => !s.used.contains (tier, f)).length

/-- Frames of a tier that no context uses or has reserved (R372). -/
def freeFrames (s : State) (tier : Nat) : Nat :=
  (if tier = 0 then Config.hbmFrames else Config.coldFrames)
    - ((s.used.filter fun x => x.1 == tier).length + hostFrames s tier + (s.groups.foldl (fun n g => n + reservedOf g tier) 0)
      + (if tier = 1 then savedFrames s + mirrorFrames s else 0))

/-- The bytes of a range as the backing tier and the L2 list them. -/
def listedBytes (s : State) (lo n : Nat) : List (Nat × Byte) :=
  let here := fun (x : Nat × Byte) => decide (lo ≤ x.1) && decide (x.1 < lo + n)
  (s.mem.filter fun x => here x && !fhas s.l2 x.1) ++ s.l2.filter here

/-- Writes listed bytes into the backing tier itself, where no cache holds them: they are not dirty, and no discard loses them. -/
def placeBytes (s : State) (l : List (Nat × Byte)) : State :=
  { s with mem := l.foldl (fun m x => mput m x.1 x.2) s.mem, l2 := s.l2.filter fun x => !fhas l x.1 }

/-- Copies the 64 KiB of one frame to another, past the L2, with the key pairs and the damage marks of its sectors (R371, R471). -/
def copyFrame (s : State) (src dst : Nat) : State :=
  let s1 := placeBytes s ((listedBytes s src 65536).map fun x => (x.1 - src + dst, x.2))
  let here := fun (sec : Nat) => decide (src ≤ sec * 64) && decide (sec * 64 < src + 65536)
  let tags := s.sealed.filter fun x => here x.1
  { s1 with
    sealed := tags.foldl (fun f x => fput f ((x.1 * 64 - src + dst) / 64) x.2) s1.sealed
    sealedFrames := if fhas s.sealedFrames (src / 65536) then fput s1.sealedFrames (dst / 65536) (fget 0 s.sealedFrames (src / 65536)) else s1.sealedFrames
    badSectors := (s.badSectors.filter here).map (fun x => (x * 64 - src + dst) / 64) ++ s1.badSectors
    xlates := staleRange dst 65536 s1.xlates }

/-- Sets a viewer's copy in the maps of the groups that satisfy `p`. -/
def setCopy (s : State) (p : Group → Bool) (page who frame : Nat) : State :=
  { s with groups := lmap p (fun g => { g with
      maps := lmap (fun m => m.page == page) (fun m => { m with copies := fput m.copies who frame }) g.maps }) s.groups }

/-- Makes viewer `i` a copy of a page in the entry of one group, and gives its frame (R373). -/
def makeCopy (s : State) (g : Group) (m : Fork) (page i : Nat) : Nat × State :=
  let (f, s1) := takeFrame s m.tier
  let s2 := copyFrame s1 (frameKey m.tier m.orig 0) (frameKey m.tier f 0)
  (f, setCopy { s2 with xlates := alsoLines (frameKey m.tier m.orig 0) (frameKey m.tier f 0) s2.xlates } (fun x => x.uid == g.uid) page i f)

/-- Lookaside entries of a context are gone: a change that the device made has carried its own shootdown (R377, R380). -/
def dropLook (s : State) (ctx : Nat) : State :=
  { s with cores := s.cores.map (fun nc => (nc.1, { nc.2 with look := nc.2.look.filter fun e => e.ctx != ctx })),
           looks := s.looks.map fun a => (a.1, a.2.filter fun e => e.ctx != ctx) }

/-- Rewrites the leaf at device address `at_`. -/
def setLeaf (s : State) (at_ : Nat) (l : Nat) : State := devPuts s at_ (leBytes 8 l)

/-- Lookaside entries of a page of a context take another leaf (R377, R380). -/
def newLook (ctx page : Nat) (leaf : BitVec 64) (s : State) : State :=
  let new := lmap (fun e : Look => e.ctx == ctx && e.page == page) fun e => { e with leaf := leaf }
  { s with cores := s.cores.map (fun nc => (nc.1, { nc.2 with look := new nc.2.look })), looks := s.looks.map fun a => (a.1, new a.2) }

/-- A write to a page that no group of the rank context forks, while its frame is the original of a sibling's own group: the original is
never written, so the page's own frame becomes a copy, once, and the siblings' group keeps the original (R372;
notes/assumptions/48.md). -/
def moveOriginal (s : State) (ctx page pfn : Nat) : Nat × State :=
  match walkTable s (ctxAt s ctx).ptroot page with
  | .leaf l a _ =>
    let (f, s1) := takeFrame s (leafTier l)
    let old := frameKey (leafTier l) pfn 0
    let new := frameKey (leafTier l) f 0
    let s2 := copyFrame s1 old new
    let l1 := setFld l.toNat 52 17 f
    (f, newLook ctx page (BitVec.ofNat 64 l1) (setLeaf { s2 with xlates := alsoLines old new s2.xlates } a l1))
  | .bad _ _ => (pfn, s)

/-- The frame that a viewer's write to a fork page uses, after the copy it makes (R373). -/
def writeFrame (s : State) (ctx page pfn : Nat) : List (Nat × Nat) → Nat × State
  | [] => match ownEntry s ctx [] page with
    | some (g, m) => if fhas m.copies 64 then (fget 0 m.copies 64, s) else makeCopy s g m page 64
    | none => if s.groups.any (fun g => g.ctx == ctx && g.maps.any fun m => m.page == page && m.orig == pfn) then moveOriginal s ctx page pfn else (pfn, s)
  | (u, i) :: rest =>
    match ownEntry s ctx ((u, i) :: rest) page with
    | some (g, m) => if fhas m.copies 64 then (fget 0 m.copies 64, s) else makeCopy s g m page 64
    | none => match s.groups.find? (fun g => g.uid == u), forkEntry s u page with
      | some g, some m => if fhas m.copies i then (fget 0 m.copies i, s) else makeCopy s g m page i
      | _, _ => writeFrame s ctx page pfn rest

/-- The key pair that a leaf selects for its page (R284, R371). -/
def keyMat (s : State) (ctx : Nat) (l : BitVec 64) : Nat := fget 0 (ctxAt s ctx).keys (leafKey l)

/-- The key of a byte that a read through a leaf uses. -/
def readKey (s : State) (ctx : Nat) (sib : List (Nat × Nat)) (page : Nat) (l : BitVec 64) (off : Nat) : Nat :=
  frameKey (leafTier l) (if leafF l then viewFrame s ctx page (leafPfn l) sib else leafPfn l) off

/-- The key of a byte that a write through a leaf uses, and the state after a fork copy. -/
def writeKey (s : State) (ctx : Nat) (sib : List (Nat × Nat)) (page : Nat) (l : BitVec 64) (off : Nat) : Nat × State :=
  if leafF l then
    let (f, s1) := writeFrame s ctx page (leafPfn l) sib
    (frameKey (leafTier l) f off, s1)
  else (frameKey (leafTier l) (leafPfn l) off, s)

/-! ### Accesses of an address space, past the L1s (engines, devices, C words after their flush) -/

/-- How an access to an address space ends. -/
inductive Chk where
  | ok | miss (page : Nat) | memfault (addr : Nat) | vaultx (addr : Nat) | prot (addr : Nat) | memerr (addr : Nat)
deriving DecidableEq, Repr, Inhabited

/-- The first entry of a list of checks that is not ok. -/
def firstBad : List Chk → Chk
  | [] => .ok
  | .ok :: r => firstBad r
  | c :: _ => c

/-- The distinct pages that `n` bytes from `va` touch, with the first address in each. -/
def pagesOf (va n : Nat) : List (Nat × Nat) :=
  (List.range (if n = 0 then 0 else (va + n - 1) / 65536 - va / 65536 + 1)).map fun i =>
    (va / 65536 + i, max va ((va / 65536 + i) * 65536))

/-- The pages of `n` bytes at `va` are mapped, as a walk of the table finds; for bytes that are to be accessed (`acts`) a lost device's
queue window counts as not mapped (R148, R370, R456). -/
def chkMapped (s : State) (ctx va n : Nat) (acts : Bool) : Chk :=
  firstBad ((pagesOf va n).map fun pa => if 2 ^ 48 ≤ pa.2 then .memfault pa.2 else
    match findLeaf s ctx pa.1 with
    | .leaf l _ _ => if acts && lenderLost s l then .memfault pa.2 else .ok
    | .bad _ _ => .memfault pa.2)

/-- An access of `n` bytes at `va`, walking the table for every page (engines and the device's own accesses): every
fault of mapping comes before PROT, and PROT before MEMERR (R148). -/
def chkSpace (s : State) (ctx : Nat) (sib : List (Nat × Nat)) (va n : Nat) (wr : Bool) : Chk :=
  let ps := pagesOf va n
  match chkMapped s ctx va n true with
  | .ok =>
    match firstBad (ps.map fun pa => match findLeaf s ctx pa.1 with
        | .leaf l _ _ => if wr && !leafW l then .prot pa.2 else .ok
        | .bad _ _ => .ok) with
    | .ok =>
      if wr then .ok else firstBad ((List.range n).map fun i =>
        match findLeaf s ctx ((va + i) / 65536) with
        | .leaf l _ _ => if s.badSectors.contains (readKey s ctx sib ((va + i) / 65536) l ((va + i) % 65536) / 64)
            then .memerr (va + i) else .ok
        | .bad _ _ => .ok)
    | c => c
  | c => c

/-- One byte of an address space at device scope; 0 where no valid leaf or no key is found (R352). -/
def spaceByte (s : State) (ctx : Nat) (sib : List (Nat × Nat)) (va : Nat) : Byte :=
  match findLeaf s ctx (va / 65536) with
  | .leaf l _ _ => plainByte s (keyMat s ctx l) (readKey s ctx sib (va / 65536) l (va % 65536))
  | .bad _ _ => 0

/-- `n` bytes of an address space at device scope. -/
def spaceBytes (s : State) (ctx : Nat) (sib : List (Nat × Nat)) (va : Nat) : Nat → List Byte
  | 0 => []
  | n + 1 => spaceByte s ctx sib va :: spaceBytes s ctx sib (va + 1) n

/-- The number that `n` bytes of an address space hold. -/
def spaceNat (s : State) (ctx : Nat) (sib : List (Nat × Nat)) (va n : Nat) : Nat := leNat (spaceBytes s ctx sib va n)

/-- Writes one byte of an address space past every L1; nothing where no valid leaf or no key is found. -/
def spacePut (s : State) (ctx : Nat) (sib : List (Nat × Nat)) (va : Nat) (b : Byte) : State :=
  match findLeaf s ctx (va / 65536) with
  | .leaf l _ _ =>
    let (k, s1) := writeKey s ctx sib (va / 65536) l (va % 65536)
    keyPut s1 (keyMat s ctx l) k b
  | .bad _ _ => s

/-- An atomic's write of one byte of an address space by an engine: a byte that a core has stored itself and not written back stays,
as that store stands later in coherence order (R160, R404). -/
def spaceAtom (s : State) (ctx : Nat) (sib : List (Nat × Nat)) (va : Nat) (b : Byte) : State :=
  match findLeaf s ctx (va / 65536) with
  | .leaf l _ _ =>
    let (k, s1) := writeKey s ctx sib (va / 65536) l (va % 65536)
    corePut s1 noCore (keyMat s ctx l) k b
  | .bad _ _ => s

/-- An engine's atomic write of bytes of an address space. -/
def spaceAtoms (s : State) (ctx : Nat) (sib : List (Nat × Nat)) (va : Nat) : List Byte → State
  | [] => s
  | b :: r => spaceAtoms (spaceAtom s ctx sib va b) ctx sib (va + 1) r

/-- Writes bytes of an address space past every L1. -/
def spacePuts (s : State) (ctx : Nat) (sib : List (Nat × Nat)) (va : Nat) : List Byte → State
  | [] => s
  | b :: r => spacePuts (spacePut s ctx sib va b) ctx sib (va + 1) r

/-! ### The vault -/

/-- M(v, p): the logical rows that the row map gives vault `v` at point `p`, never fewer than G(p) and never more than the 8,704
rows that a vault has (R17, R383, R385). -/
def mappedRows (s : State) (v p : Nat) : Nat := min 8704 (max (Config.guaranteed p) (((fget [] s.counts v)[p]?).getD 0))

/-- The point whose row maps are in effect: in an upward step the new one's are once the package is quiet, in a downward step with
OPPT (R394). -/
def mapPoint (p : Power) : Nat := if p.pend && p.part != 0 && decide (p.target < p.point) then p.target else p.point

/-- An extent stands in rows of a vault: Placed, or Moving (R401). -/
def inRows (e : Extent) : Bool := e.st == 1 || e.st == 2

/-- The rows of an extent of a size in bytes (R386). -/
def rowsOf (size : Nat) : Nat := (size + 1023) / 1024

/-- The places of a node's unpinned extents: first row and size, in declaration order (R387). -/
def unpinned : Nat → List Nat → List (Nat × Nat)
  | _, [] => []
  | b, x :: r => (b, x) :: unpinned (b + rowsOf x) r

/-- Whether a vault byte lies in a pinned extent of the context (R391). -/
def inPinned (s : State) (ctx addr : Nat) : Bool :=
  (ctxAt s ctx).exts.any fun e => inRows e && decide (e.base ≤ addr) && decide (addr < e.base + e.size)

/-- The launched node of a run number. -/
def runAt (s : State) (id : Nat) : Option NodeRun := s.runs.find? fun r => r.id == id

/-- Whether a vault byte lies in an unpinned extent of the node, in a bench it holds (R391). -/
def inUnpinned (s : State) (run addr : Nat) : Bool :=
  match runAt s run with
  | none => false
  | some r => r.benches.contains (addr / 2 ^ 25) && (unpinned 0 r.kern.exts).any fun e =>
      decide (e.1 * 1024 ≤ addr % 2 ^ 25) && decide (addr % 2 ^ 25 < e.1 * 1024 + e.2)

/-- The extent check of one byte: a mapped row, and a pinned or unpinned extent (R383, R391). -/
def vaultOk (s : State) (ctx run addr : Nat) : Bool :=
  decide (addr / 2 ^ 25 < 128) && decide (fld addr 24 10 < mappedRows s (addr / 2 ^ 25) (mapPoint s.power))
    && (inPinned s ctx addr || inUnpinned s run addr)

/-- One byte of the vault: a pinned byte not yet written is 0 (R392), an unpinned one is not stated (R392). -/
def vaultByte (s : State) (ctx addr : Nat) : Byte :=
  if fhas s.vault addr then fget 0 s.vault addr
  else if inPinned s ctx addr then 0
  else Config.vaultByte (fget 0 s.vaultSeed (addr / 2 ^ 25)) addr

/-- `n` bytes of the vault. -/
def vaultBytes (s : State) (ctx addr : Nat) : Nat → List Byte
  | 0 => []
  | n + 1 => vaultByte s ctx addr :: vaultBytes s ctx (addr + 1) n

/-- What the physical row of a vault byte holds: the byte masked with the keystream of the context whose extent it is, by row and
place in the row, so that every move masks again (R392, R473). A read unmasks it, so the model keeps the byte itself. -/
def maskedByte (s : State) (ctx addr : Nat) (b : Byte) : Byte :=
  b ^^^ Config.vaultPad (ctxAt s ctx).vkey ((((fget [] s.rows (addr / 2 ^ 25))[fld addr 24 10]?).map fun r => r.prow).getD 0) (addr % 1024)

/-- Writes bytes of the vault. -/
def vaultPuts (s : State) (addr : Nat) : List Byte → State
  | [] => s
  | b :: r => vaultPuts { s with vault := fput s.vault addr b } (addr + 1) r

/-- A vault access of `n` bytes: extents first, then damaged sectors. A write to part of a damaged sector is MEMERR
too, and a write of all of it clears the mark (R391, R399). -/
def chkVault (s : State) (ctx run addr n : Nat) (wr : Bool) : Chk :=
  if 2 ^ 32 ≤ addr then .vaultx addr else
  match firstBad ((List.range n).map fun i => if vaultOk s ctx run (addr + i) then .ok else .vaultx (addr + i)) with
  | .ok => firstBad ((List.range n).map fun i =>
      let sec := (addr + i) / 64
      if s.badVault.contains sec && !(wr && decide (addr ≤ sec * 64) && decide (sec * 64 + 64 ≤ addr + n))
      then .memerr (addr + i) else .ok)
  | c => c

/-- Clears the damage marks of the sectors that a write covers whole (R399). -/
def clearDamage (s : State) (addr n : Nat) : State :=
  { s with badVault := s.badVault.filter fun x => !(decide (addr ≤ x * 64) && decide (x * 64 + 64 ≤ addr + n)) }

/-! ### Accesses in either space, for engines and C words -/

/-- An access in the space `vault` selects: memory of an address space, or the vault under the extents of the context
and the node (R146). -/
def chkAny (s : State) (ctx : Nat) (sib : List (Nat × Nat)) (run : Nat) (vault : Bool) (a n : Nat) (wr : Bool) : Chk :=
  if vault then chkVault s ctx run a n wr else chkSpace s ctx sib a n wr

/-- Reads bytes in either space at device scope. -/
def anyBytes (s : State) (ctx : Nat) (sib : List (Nat × Nat)) (vault : Bool) (a n : Nat) : List Byte :=
  if vault then vaultBytes s ctx a n else spaceBytes s ctx sib a n

/-- Writes bytes in either space past the L1s. -/
def anyPuts (s : State) (ctx : Nat) (sib : List (Nat × Nat)) (vault : Bool) (a : Nat) (bs : List Byte) : State :=
  if vault then vaultPuts (clearDamage s a bs.length) a bs else spacePuts s ctx sib a bs

/-- An engine's atomic write in either space (R165, R404). -/
def anyAtoms (s : State) (ctx : Nat) (sib : List (Nat × Nat)) (vault : Bool) (a : Nat) (bs : List Byte) : State :=
  if vault then vaultPuts (clearDamage s a bs.length) a bs else spaceAtoms s ctx sib a bs

end Sys2Proof.Machine
end

