-- ==== Sys2Proof/Machine/Float.lean ====
section
/-! DEFINITION. Element formats, exact values, rounding and the arithmetic on them (spec/02_numbers.md R25-R37;
spec/07_isa_vector.md R187-R189). Every operation computes an exact value, or a value exact to a sticky bit, and rounds
it once. -/

namespace Sys2Proof.Machine

/-- An exact value: NaN, an infinity, or (-1)^neg × m × 2^e. `sticky` says that the true magnitude lies strictly above
m × 2^e by less than one unit of m. -/
inductive Ex where
  | nan | inf (neg : Bool) | fin (neg : Bool) (m : Nat) (e : Int) (sticky : Bool)
deriving DecidableEq, Repr, Inhabited

/-- A floating-point format of R25: exponent bits, mantissa bits, bias, the code of the largest finite magnitude, and
whether it has infinities. -/
structure Fmt where
  eb : Nat
  mb : Nat
  bias : Nat
  maxFin : Nat
  hasInf : Bool
  nan : Nat
deriving DecidableEq, Repr, Inhabited

/-- FP32 (R25, R30). -/
def f32 : Fmt := { eb := 8, mb := 23, bias := 127, maxFin := 0x7F7FFFFF, hasInf := true, nan := 0x7FC00000 }
/-- FP16. -/
def f16 : Fmt := { eb := 5, mb := 10, bias := 15, maxFin := 0x7BFF, hasInf := true, nan := 0x7E00 }
/-- BF16. -/
def bf16 : Fmt := { eb := 8, mb := 7, bias := 127, maxFin := 0x7F7F, hasInf := true, nan := 0x7FC0 }
/-- FP8 E4M3: no infinity, saturating (R36). -/
def e4m3 : Fmt := { eb := 4, mb := 3, bias := 7, maxFin := 0x7E, hasInf := false, nan := 0x7F }
/-- FP8 E5M2. -/
def e5m2 : Fmt := { eb := 5, mb := 2, bias := 15, maxFin := 0x7B, hasInf := true, nan := 0x7E }
/-- E2M1: no infinity and no NaN; NaN converts to code 0 (R36). -/
def e2m1 : Fmt := { eb := 2, mb := 1, bias := 1, maxFin := 7, hasInf := false, nan := 0 }

/-- The sign bit's weight in a format. -/
def signW (f : Fmt) : Nat := 2 ^ (f.eb + f.mb)

/-- The exponent of the smallest subnormal. -/
def minQ (f : Fmt) : Int := 1 - (f.bias : Int) - (f.mb : Int)

/-- The exact value of a code (R25, R26). -/
def dec (f : Fmt) (x : Nat) : Ex :=
  let neg := bitAt x (f.eb + f.mb)
  let mag := x % signW f
  let e := mag / 2 ^ f.mb
  let m := mag % 2 ^ f.mb
  if f.hasInf && decide (f.maxFin < mag) then (if m = 0 then .inf neg else .nan)
  else if decide (f.maxFin < mag) then .nan
  else if e = 0 then .fin neg m (minQ f) false
  else .fin neg (m + 2 ^ f.mb) (minQ f + (e : Int) - 1) false

/-- The rounded magnitude of m × 2^e in units of 2^q, by mode code (R34, R37): 0 RNE, 1 RTZ, 2 RUP, 3 RDN, 4 SR with the
random word `w`. -/
def roundUnits (mode w : Nat) (neg : Bool) (m : Nat) (e q : Int) (sticky : Bool) : Nat :=
  if q ≤ e then m * 2 ^ (e - q).toNat
  else
    let sh := (q - e).toNat
    let lo := m / 2 ^ sh
    let rem := m % 2 ^ sh
    let inexact := rem != 0 || sticky
    match mode with
    | 1 => lo
    | 2 => if inexact && !neg then lo + 1 else lo
    | 3 => if inexact && neg then lo + 1 else lo
    | 4 => if w / 256 < rem * 2 ^ 24 / 2 ^ sh then lo + 1 else lo
    | _ =>
      if 2 * rem > 2 ^ sh || (2 * rem == 2 ^ sh && (sticky || lo % 2 == 1)) then lo + 1 else lo

/-- The magnitude code of a rounded value, before the overflow test. -/
def codeOf (f : Fmt) (mode w : Nat) (neg : Bool) (m : Nat) (e : Int) (sticky : Bool) : Nat :=
  if m = 0 && !sticky then 0
  else
    let top : Int := (Nat.log2 m : Int) + e
    let q := max (top - (f.mb : Int)) (minQ f)
    ((q - minQ f).toNat) * 2 ^ f.mb + roundUnits mode w neg m e q sticky

/-- Rounds an exact value into a format (R29-R37): RNE decides overflow for SR, formats without infinities saturate, a
NaN is the canonical one, a zero keeps the sign it is given. -/
def rnd (f : Fmt) (mode w : Nat) (x : Ex) : Nat :=
  match x with
  | .nan => f.nan
  | .inf neg => (if neg then signW f else 0) + (if f.hasInf then f.maxFin + 1 else f.maxFin)
  | .fin neg m e sticky =>
    let s := if neg then signW f else 0
    let near := codeOf f 0 0 neg m e sticky
    let c := if mode = 4 then
        (if f.maxFin < near then near
         else let c4 := codeOf f 4 w neg m e sticky
              let up := codeOf f 2 0 false m e true
              if f.maxFin < up then near else c4)
      else codeOf f mode w neg m e sticky
    if c ≤ f.maxFin then s + c
    else if !f.hasInf then s + f.maxFin
    else match mode with
      | 1 => s + f.maxFin
      | 2 => if neg then s + f.maxFin else s + f.maxFin + 1
      | 3 => if neg then s + f.maxFin + 1 else s + f.maxFin
      | _ => s + f.maxFin + 1

/-- The sign of an exact value. -/
def exNeg (x : Ex) : Bool := match x with | .nan => false | .inf n => n | .fin n _ _ _ => n

/-- Whether an exact value is zero. -/
def exZero (x : Ex) : Bool := match x with | .fin _ 0 _ false => true | _ => false

/-- Negation. -/
def exOpp (x : Ex) : Ex := match x with | .nan => .nan | .inf n => .inf (!n) | .fin n m e t => .fin (!n) m e t

/-- A finite value as a signed multiple of 2^q, for q at or below its exponent. -/
def exInt (neg : Bool) (m : Nat) (e q : Int) : Int :=
  let k : Int := (m * 2 ^ (e - q).toNat : Nat)
  if neg then -k else k

/-- The exact sum, with the zero signs of R32 for the modes other than RDN. -/
def exAdd (x y : Ex) : Ex :=
  match x, y with
  | .nan, _ => .nan
  | _, .nan => .nan
  | .inf a, .inf b => if a = b then .inf a else .nan
  | .inf a, _ => .inf a
  | _, .inf b => .inf b
  | .fin a m e _, .fin b n g _ =>
    if m = 0 && n = 0 then .fin (a && b) 0 0 false
    else
      let q := min e g
      let k := exInt a m e q + exInt b n g q
      .fin (decide (k < 0)) k.natAbs q false

/-- The exact product; ∞ × 0 is NaN (R45). -/
def exMul (x y : Ex) : Ex :=
  match x, y with
  | .nan, _ => .nan
  | _, .nan => .nan
  | .inf a, .inf b => .inf (a != b)
  | .inf a, .fin b n _ _ => if n = 0 then .nan else .inf (a != b)
  | .fin a m _ _, .inf b => if m = 0 then .nan else .inf (a != b)
  | .fin a m e _, .fin b n g _ => .fin (a != b) (m * n) (e + g) false

/-- The quotient to 64 bits and a sticky bit (R188). -/
def exDiv (x y : Ex) : Ex :=
  match x, y with
  | .nan, _ => .nan
  | _, .nan => .nan
  | .inf _, .inf _ => .nan
  | .inf a, .fin b _ _ _ => .inf (a != b)
  | .fin a _ _ _, .inf b => .fin (a != b) 0 0 false
  | .fin a m e _, .fin b n g _ =>
    if n = 0 then (if m = 0 then .nan else .inf (a != b))
    else if m = 0 then .fin (a != b) 0 0 false
    else
      let k := 64 + Nat.log2 n
      .fin (a != b) (m * 2 ^ k / n) (e - g - (k : Int)) (m * 2 ^ k % n != 0)

/-- The integer square root, bit by bit from bit `n` − 1 down. -/
def isqrt (x : Nat) : Nat → Nat → Nat
  | 0, r => r
  | n + 1, r => let t := r + 2 ^ n; if t * t ≤ x then isqrt x n t else isqrt x n r

/-- The square root to 64 bits and more, and a sticky bit (R189). -/
def exSqrt (x : Ex) : Ex :=
  match x with
  | .nan => .nan
  | .inf n => if n then .nan else .inf false
  | .fin n m e _ =>
    if m = 0 then .fin n 0 0 false
    else if n then .nan
    else
      let (m1, e1) := if e % 2 = 0 then (m, e) else (2 * m, e - 1)
      let big := m1 * 2 ^ 128
      let r := isqrt big (Nat.log2 big / 2 + 1) 0
      .fin false r (e1 / 2 - 64) (r * r != big)

/-- 1 / √a (R189). -/
def exRsqrt (x : Ex) : Ex :=
  match x with
  | .nan => .nan
  | .inf n => if n then .nan else .fin false 0 0 false
  | .fin n m e _ =>
    if m = 0 then .inf n
    else if n then .nan
    else
      let (m1, e1) := if e % 2 = 0 then (m, e) else (2 * m, e - 1)
      let big := 2 ^ 256 / m1
      let r := isqrt big 129 0
      .fin false r (-128 - e1 / 2) (r * r * m1 != 2 ^ 256)

/-! ### The functions that are not algebraic, in fixed point with 200 fraction bits (notes/assumptions/14.md) -/

/-- ln 2 × 2^200, rounded down. -/
def ln2Fix : Nat := 1113844574712631719546256151097547306333272293549090750737802

/-- Σ y^k / k! from k = 1, for y in fixed point (e^y − 1). -/
def expm1Sum (y : Nat) : Nat → Nat → Nat → Nat
  | 0, _, _ => 0
  | n + 1, k, t => let t1 := t * y / (k * 2 ^ 200); t1 + expm1Sum y n (k + 1) t1

/-- e^y − 1 for 0 ≤ y < 1 in fixed point. -/
def expm1Fix (y : Nat) : Nat := expm1Sum y 60 1 (2 ^ 200)

/-- 2^a (R189). -/
def exExp2 (x : Ex) : Ex :=
  match x with
  | .nan => .nan
  | .inf n => if n then .fin false 0 0 false else .inf false
  | .fin n m e _ =>
    if m = 0 then .fin false 1 0 false
    else if 12 < (Nat.log2 m : Int) + e then (if n then .fin false 1 (-5000) true else .fin false 1 5000 false)
    else
      let v : Int := if 0 ≤ e + 200 then (m * 2 ^ (e + 200).toNat : Nat) else (m / 2 ^ (-(e + 200)).toNat : Nat)
      let lost := decide (e + 200 < 0) && m % 2 ^ (-(e + 200)).toNat != 0
      let v := if n then (if lost then -v - 1 else -v) else v
      let f := (v % (2 ^ 200 : Int)).toNat
      let k := v / (2 ^ 200 : Int)
      if f = 0 && !lost then .fin false 1 k false
      else .fin false (2 ^ 200 + expm1Fix (f * ln2Fix / 2 ^ 200)) (k - 200) true

/-- Σ z^(2k+1) / (2k+1), for z in fixed point. -/
def atanhSum (z2 : Nat) : Nat → Nat → Nat → Nat
  | 0, _, _ => 0
  | n + 1, k, t => t / k + atanhSum z2 n (k + 2) (t * z2 / 2 ^ 200)

/-- log2 a (R189). -/
def exLog2 (x : Ex) : Ex :=
  match x with
  | .nan => .nan
  | .inf n => if n then .nan else .inf false
  | .fin n m e _ =>
    if m = 0 then .inf true
    else if n then .nan
    else
      let t := Nat.log2 m
      let k : Int := (t : Int) + e
      if m = 2 ^ t then .fin (decide (k < 0)) k.natAbs 0 false
      else
        let z := (m - 2 ^ t) * 2 ^ 200 / (m + 2 ^ t)
        let l := 2 * atanhSum (z * z / 2 ^ 200) 70 1 z
        let v : Int := k * 2 ^ 200 + (l * 2 ^ 200 / ln2Fix : Nat)
        .fin (decide (v < 0)) v.natAbs (-200) true

/-- tanh a (R189). -/
def exTanh (x : Ex) : Ex :=
  match x with
  | .nan => .nan
  | .inf n => .fin n 1 0 false
  | .fin n m e _ =>
    if m = 0 then .fin n 0 0 false
    else if (Nat.log2 m : Int) + e < -40 then .fin n m e false
    else if 5 < (Nat.log2 m : Int) + e then .fin n (2 ^ 200 - 1) (-200) true
    else
      let y := m * 2 ^ (e + 201).toNat
      let k := y / ln2Fix
      let em1 := if y < 2 ^ 199 then expm1Fix y
        else (2 ^ 200 + expm1Fix (y - k * ln2Fix)) * 2 ^ k - 2 ^ 200
      .fin n (em1 * 2 ^ 200 / (em1 + 2 ^ 201)) (-200) true

/-- The largest integer at or below (`up` = false) or the smallest at or above (`up` = true) the value (R189). -/
def exFloor (up : Bool) (x : Ex) : Ex :=
  match x with
  | .nan => .nan
  | .inf n => .inf n
  | .fin n m e _ =>
    if 0 ≤ e then .fin n m e false
    else .fin n (roundUnits (if up then 2 else 3) 0 n m e 0 false) 0 false

/-- Compares two values that are not NaN. -/
def exLt (x y : Ex) : Bool :=
  match x, y with
  | .nan, _ => false
  | _, .nan => false
  | .inf a, .inf b => a && !b
  | .inf a, _ => a
  | _, .inf b => !b
  | .fin a m e _, .fin b n g _ => decide (exInt a m e (min e g) < exInt b n g (min e g))

/-- Equality of values; −0 equals +0 and NaN equals nothing (R191). -/
def exEq (x y : Ex) : Bool :=
  match x, y with
  | .nan, _ => false
  | _, .nan => false
  | .inf a, .inf b => a == b
  | .inf _, _ => false
  | _, .inf _ => false
  | .fin a m e _, .fin b n g _ => decide (exInt a m e (min e g) = exInt b n g (min e g))

/-- The larger of two values under R32: NaN if either is, and +0 above −0. -/
def exMax (x y : Ex) : Ex :=
  match x, y with
  | .nan, _ => .nan
  | _, .nan => .nan
  | _, _ => if exLt x y then y else if exLt y x then x else if exNeg x then y else x

/-- The smaller of two values under R32. -/
def exMin (x y : Ex) : Ex :=
  match x, y with
  | .nan, _ => .nan
  | _, .nan => .nan
  | _, _ => if exLt x y then x else if exLt y x then y else if exNeg x then x else y

/-- A value times a power of two. -/
def exScale (x : Ex) (k : Int) : Ex := match x with | .fin n m e t => .fin n m (e + k) t | y => y

/-- An integer's exact value. -/
def exOfInt (k : Int) : Ex := .fin (decide (k < 0)) k.natAbs 0 false

/-- Converts to an integer between lo and hi, saturating; NaN gives 0 (R28). -/
def exToInt (mode w : Nat) (lo hi : Int) (x : Ex) : Int :=
  match x with
  | .nan => 0
  | .inf n => if n then lo else hi
  | .fin n m e t =>
    let k : Int := (roundUnits mode w n m e 0 t : Nat)
    let v := if n then -k else k
    if v < lo then lo else if hi < v then hi else v

/-- The FP32 word of a value, rounded with RNE (rne32 of R9). -/
def rne32 (x : Ex) : Word := BitVec.ofNat 32 (rnd f32 0 0 x)
/-- The exact value of an FP32 word. -/
def dec32 (w : Word) : Ex := dec f32 w.toNat
/-- rne32 of a sum. -/
def add32 (x y : Word) : Word := rne32 (exAdd (dec32 x) (dec32 y))
/-- rne32 of a difference. -/
def sub32 (x y : Word) : Word := rne32 (exAdd (dec32 x) (exOpp (dec32 y)))
/-- rne32 of a product. -/
def mul32 (x y : Word) : Word := rne32 (exMul (dec32 x) (dec32 y))
/-- rne32 of a quotient. -/
def div32 (x y : Word) : Word := rne32 (exDiv (dec32 x) (dec32 y))
/-- rne32 of a square root. -/
def sqrt32 (x : Word) : Word := rne32 (exSqrt (dec32 x))
/-- The FP32 maximum of R32. -/
def max32 (x y : Word) : Word := rne32 (exMax (dec32 x) (dec32 y))

/-- The fixed tree of R43 over 2^d leaves from `lo`: the left operand first, every node by `op`. -/
def treeD {α : Type} (op : α → α → α) (v : Nat → α) : Nat → Nat → α
  | 0, lo => v lo
  | d + 1, lo => op (treeD op v d lo) (treeD op v d (lo + 2 ^ d))

/-- The depth of the tree over `n` leaves padded to a power of two (R43). -/
def treeDepth (n : Nat) : Nat := if n ≤ 1 then 0 else Nat.log2 (n - 1) + 1

/-- A node of a sum: exact values in, one rounding to FP32 out (R43). -/
def sumNode (x y : Ex) : Ex := dec32 (rne32 (exAdd x y))

/-- treeN of R9 over `n` exact leaves, padded with +0. -/
def treeSum (v : Nat → Ex) (n : Nat) : Ex :=
  treeD sumNode (fun i => if i < n then v i else .fin false 0 0 false) (treeDepth n) 0

end Sys2Proof.Machine
end

