-- ==== Sys2Proof/Machine/Numbers.lean ====
section
/-! DEFINITION. Block formats (spec/02_numbers.md R38-R42), random numbers (R49-R53) and the sums of R44. -/

namespace Sys2Proof.Machine

/-- Bytes of a block (R38, R199). -/
def blkSize (b : Blk) : Nat := match b with | .mx => 17 | .x => 18 | .e4 => 33 | .e5 => 33

/-- The value of element `i` of a block image (R39). -/
def blkElem (b : Blk) (img i : Nat) : Ex :=
  match b with
  | .e4 => let sc := fld img 263 256
           if sc = 255 then .nan else exScale (dec e4m3 (img / 256 ^ i % 256)) ((sc : Int) - 127)
  | .e5 => let sc := fld img 263 256
           if sc = 255 then .nan else exScale (dec e5m2 (img / 256 ^ i % 256)) ((sc : Int) - 127)
  | .mx => let sc := fld img 135 128
           if sc = 255 then .nan else exScale (dec e2m1 (img / 16 ^ i % 16)) ((sc : Int) - 127)
  | .x => let sc := fld img 135 128
          let alt := fld img 143 136
          let c := img / 16 ^ i % 16
          if sc = 255 then .nan
          else if c = 8 && alt != 0x80 then exScale (dec e4m3 alt) ((sc : Int) - 127)
          else exScale (dec e2m1 c) ((sc : Int) - 127)

/-- The scale byte of a block image. -/
def blkScale (b : Blk) (img : Nat) : Nat := match b with | .mx | .x => fld img 135 128 | _ => fld img 263 256

/-- floor(log2 |x|) of a finite nonzero value; a very low exponent for zero. -/
def exTop (x : Ex) : Int := match x with | .fin _ m e _ => if m = 0 then -1000000 else (Nat.log2 m : Int) + e | _ => 1000000

/-- Whether a value is NaN or an infinity. -/
def exSpecial (x : Ex) : Bool := match x with | .fin _ _ _ _ => false | _ => true

/-- |x|. -/
def exAbs (x : Ex) : Ex := match x with | .fin _ m e t => .fin false m e t | .inf _ => .inf false | .nan => .nan

/-- The exact error of rounding `s` to E2M1 with RNE (R42). -/
def e2m1Err (s : Ex) : Ex := exAbs (exAdd s (exOpp (dec e2m1 (rnd e2m1 0 0 s))))

/-- The lowest index with the largest error, and that error (R42). -/
def worstErr (s : Nat → Ex) : Nat → Nat × Ex
  | 0 => (0, e2m1Err (s 0))
  | n + 1 => let (k, e) := worstErr s n
             if exLt e (e2m1Err (s (n + 1))) then (n + 1, e2m1Err (s (n + 1))) else (k, e)

/-- The E2M1X code of one element given alt (R42). -/
def e2m1xCode (alt : Nat) (s : Ex) : Nat :=
  let r := rnd e2m1 0 0 s
  if alt != 0x80 && exLt (exAbs (exAdd s (exOpp (dec e4m3 alt)))) (e2m1Err s) then 8
  else if r = 8 then (if alt = 0x80 && exZero s then 8 else 0) else r

/-- One quantised block of 32 values, as a byte image (R40-R42). `w i` is element i's random word under SR. -/
def blkQuant (b : Blk) (mode : Nat) (w : Nat → Nat) (x : Nat → Ex) : Nat :=
  let n32 := List.range 32
  let emax : Int := match b with | .mx | .x => 2 | .e4 => 8 | .e5 => 15
  let f := match b with | .e4 => e4m3 | .e5 => e5m2 | _ => e2m1
  let pack := fun (c : Nat → Nat) (sc alt : Nat) => match b with
    | .mx => packN 4 c 32 + sc * 2 ^ 128
    | .x => packN 4 c 32 + sc * 2 ^ 128 + alt * 2 ^ 136
    | _ => packN 8 c 32 + sc * 2 ^ 256
  if n32.any fun i => exSpecial (x i) then pack (fun _ => 0) 255 0x80
  else if n32.all fun i => exZero (x i) then pack (fun i => if exNeg (x i) then signW f else 0) 0 0x80
  else
    let top := n32.foldl (fun t i => max t (exTop (x i))) (-1000000)
    let e := min 127 (max (-127) (top - emax))
    let s := fun i => exScale (x i) (-e)
    match b with
    | .x =>
      let (k, err) := worstErr s 31
      let alt := if exZero err then 0x80 else rnd e4m3 0 0 (s k)
      pack (fun i => e2m1xCode alt (s i)) (e + 127).toNat alt
    | _ => pack (fun i => rnd f mode (w i) (s i)) (e + 127).toNat 0

/-! ### Random numbers -/

/-- One round of the mix function (R49). -/
def mixRound (k0 k1 : Word) (j : Nat) (x : Word × Word × Word × Word) : Word × Word × Word × Word :=
  let (x0, x1, x2, x3) := x
  let x0 := x0 + x1
  let x3 := (x3 ^^^ x0).rotateLeft 16
  let x2 := x2 + x3
  let x1 := (x1 ^^^ x2).rotateLeft 12
  let x0 := x0 + x1
  let x3 := (x3 ^^^ x0).rotateLeft 8
  let x2 := x2 + x3
  let x1 := (x1 ^^^ x2).rotateLeft 7
  (x0 ^^^ (k0 + BitVec.ofNat 32 (j * 0x9E3779B9)), x1, x2 ^^^ (k1 + BitVec.ofNat 32 (j * 0x6A09E667)), x3)

/-- The mix function (R49). -/
def mix (key : BitVec 64) (c0 c1 c2 c3 : Word) : Word × Word × Word × Word :=
  let k0 := key.setWidth 32
  let k1 := (key >>> 32).setWidth 32
  let x := loopN (fun i x => mixRound k0 k1 (i + 1) x) 8 (c0, c1 ^^^ k0, c2, c3 ^^^ k1)
  (x.1 + c0, x.2.1 + c1, x.2.2.1 + c2, x.2.2.2 + c3)

/-- The random word w(L, n) of vector lane L for draw index n (R50). -/
def draw (key : BitVec 64) (l : Nat) (n : BitVec 64) : Word :=
  let x := mix key (n.setWidth 32) ((n >>> 32).setWidth 32) (BitVec.ofNat 32 (l / 4)) 0
  match l % 4 with | 0 => x.1 | 1 => x.2.1 | 2 => x.2.2.1 | _ => x.2.2.2

/-- The key of sibling `s` of a group with id `g` forked under `key` (R52). -/
def sibKey (key : BitVec 64) (g : Word) (s : Nat) : BitVec 64 :=
  let x := mix key g (BitVec.ofNat 32 s) 0 1
  x.1.setWidth 64 ||| (x.2.1.setWidth 64 <<< 32)

/-- The FP32 uniform variate of a random word (R53). -/
def uniform (w : Word) : Word := rne32 (.fin false (w.toNat / 256) (-24) false)

/-! ### The product of R44 -/

/-- Element formats by TCFG type (R210). -/
def tileBits (t : TileFmt) : Nat := match t with | .bf16 | .f16 => 16 | .e4m3 | .e5m2 => 8 | .mx | .x => 4
/-- Elements per row (R210). -/
def tileK (t : TileFmt) : Nat := match t with | .bf16 | .f16 => 128 | .e4m3 | .e5m2 => 256 | .mx | .x => 512
/-- The format of a TCFG type or BFMT code (R215). -/
def tileFmt (t : TileFmt) : Fmt := match t with | .bf16 => bf16 | .f16 => f16 | .e4m3 => e4m3 | .e5m2 => e5m2 | _ => e2m1
/-- The TCFG type of a code of R215. -/
def fmtOfCode (n : Nat) : TileFmt := match n with | 0 => .bf16 | 1 => .f16 | 2 => .e4m3 | 3 => .e5m2 | 4 => .mx | _ => .x
/-- The code of a TCFG type. -/
def codeOfFmt (t : TileFmt) : Nat := match t with | .bf16 => 0 | .f16 => 1 | .e4m3 => 2 | .e5m2 => 3 | .mx => 4 | .x => 5

/-- The code of element k of row r of a tile image (R210). -/
def tileCode (t : TileFmt) (img r k : Nat) : Nat := img / 2 ^ (2048 * r + tileBits t * k) % 2 ^ tileBits t

/-- Image size S of a slot mode and element width (R219). -/
def imgSize (m : WMode) (w : Nat) : Nat :=
  match m with
  | .dense => 32768
  | .s24 => if w = 16 then 18432 else 20480
  | .s48 => if w = 16 then 20480 else 24576
  | .mx => 34816
  | .x => 36864

/-- W(k, j) of a slot image as an exact element before scaling (R220). -/
def slotElem (s : WSlot) (k j : Nat) : Ex :=
  let t := fmtOfCode s.fmt
  let w := tileBits t
  let esz := w / 8
  let img := s.img.toNat
  let val := fun (off : Nat) => dec (tileFmt t) (img / 256 ^ off % 2 ^ w)
  match s.mode with
  | .dense => val ((128 * k + j) * esz)
  | .s24 =>
    let g := k / 4
    let nib := img / 256 ^ (16384 + g / 2 * 128 + j) % 256 / 2 ^ (4 * (g % 2)) % 16
    if nib / 4 = k % 4 then val (((2 * g + 1) * 128 + j) * esz)
    else if nib % 4 = k % 4 then val (((2 * g) * 128 + j) * esz)
    else .fin false 0 0 false
  | .s48 =>
    let g := k / 8
    let ix := img / 256 ^ (16384 + 2 * (128 * g + j)) % 65536
    let at_ := fun (s : Nat) => if ix / 2 ^ (3 * s) % 8 = k % 8 then some (val (((4 * g + s) * 128 + j) * esz)) else none
    ((at_ 3).orElse fun _ => (at_ 2).orElse fun _ => (at_ 1).orElse fun _ => at_ 0).getD (.fin false 0 0 false)
  | .mx =>
    dec e2m1 (img / 256 ^ (17 * (16 * j + k / 32)) % 2 ^ 136 / 16 ^ (k % 32) % 16)
  | .x =>
    let b := img / 256 ^ (18 * (16 * j + k / 32)) % 2 ^ 144
    let c := b / 16 ^ (k % 32) % 16
    if c = 8 && fld b 143 136 != 0x80 then dec e4m3 (fld b 143 136) else dec e2m1 c

/-- sb(b, j): the scale byte of column j's block b of a slot (R220). -/
def slotScale (s : WSlot) (b j : Nat) : Nat :=
  match s.mode with
  | .mx => s.img.toNat / 256 ^ (17 * (16 * j + b) + 16) % 256
  | .x => s.img.toNat / 256 ^ (18 * (16 * j + b) + 16) % 256
  | _ => 0x7F

/-- Element (i, j) of an accumulator. -/
def accElem (a : Acc) (i j : Nat) : Word := a.extractLsb' (32 * (128 * i + j)) 32

/-- An accumulator from its elements. -/
def ofAcc (f : Nat → Nat → Word) : Acc :=
  BitVec.ofNat 262144 (packTree 32 (fun e => (f (e / 128) (e % 128)).toNat) 13 0)

/-- One output element of an MMA: ascending blocks of 32, each a tree, a scaling and an addition (R44, R45, R222,
R223). -/
def mmaElem (o : MmaOp) (acc : Word) (i j : Nat) : Word :=
  let t := o.tile.ty
  let e := o.entry.toNat
  let asc := bitAt e 6
  let slot := fld e 12 10
  let img := o.tile.bits.toNat
  let simg := o.scale.bits.toNat
  let sByte := fun (off : Nat) => simg / 256 ^ (256 * i + 32 * slot + off) % 256
  loopN (fun b acc =>
    let alt := sByte (16 + b)
    let a := fun (x : Nat) =>
      let c := tileCode t img i (32 * b + x)
      if t = .x && c = 8 && alt != 0x80 then dec e4m3 alt else dec (tileFmt t) c
    let bv := fun (x : Nat) => if o.transp then slotElem o.slot j (32 * b + x) else slotElem o.slot (32 * b + x) j
    let s := treeSum (fun x => exMul (a x) (bv x)) 32
    let sa := if asc then sByte b else 0x7F
    let sb := slotScale o.slot b j
    let s := if sa = 255 || sb = 255 then Ex.nan else dec32 (rne32 (exScale s ((sa : Int) + sb - 254)))
    rne32 (exAdd (dec32 acc) s)) (tileK t / 32) acc

/-- The accumulator after an MMA or MMAT: rows of the tile are computed, the others unchanged (R222). -/
def mmaResult (o : MmaOp) (a : Acc) : Acc :=
  ofAcc fun i j => if i < o.tile.rows then mmaElem o (accElem a i j) i j else accElem a i j

end Sys2Proof.Machine
end

