-- ==== Sys2Proof/Machine/Groups.lean ====
section
/-! DEFINITION. The group table and its record, closing and scoring, and release (spec/14_group.md R351-R364,
spec/15_page.md R372-R374); the logs of a die; and the end of a tile and of a node (spec/18_dispatch.md R423, R424). -/

namespace Sys2Proof.Machine

/-- Appends a 32-byte record to a die's log; record i stands at i mod 2,046 (R477). -/
def addLog (f : File Log) (die : Nat) (r : BitVec 256) : File Log :=
  let l := fget {} f die
  fput f die { count := l.count + 1, recs := fput l.recs (l.count % 2046) r }

/-- The fault-log record of a failed walk (R379). -/
def faultRec (s : State) (ctx cause level count va : Nat) : BitVec 256 :=
  BitVec.ofNat 256 (ctx + cause * 2 ^ 16 + level * 2 ^ 24 + (min count (2 ^ 32 - 1)) * 2 ^ 32
    + (va / 65536 * 65536 % 2 ^ 64) * 2 ^ 64 + s.ns % 2 ^ 64 * 2 ^ 128)

/-- Appends a record to a die's fault log. -/
def logFault (s : State) (die ctx cause level count va : Nat) : State :=
  { s with faultLog := addLog s.faultLog die (faultRec s ctx cause level count va) }

/-- A walk of the device's own, for a byte of an address space, is in the fault log where it fails (R379). -/
def logWalk (s : State) (die ctx va : Nat) : State :=
  if 2 ^ 48 ≤ va then s
  else match walkKey s ctx (va / 65536) with
    | .bad c lv => logFault s die ctx c lv 1 va
    | .leaf _ _ _ => s

/-- A device write into an address space, whatever W, page by page: the part in a page without a valid leaf or a key is
discarded and logged (R352, R379, R389). -/
def deviceWrite (s : State) (die ctx : Nat) (sib : List (Nat × Nat)) (va : Nat) (bs : List Byte) : State :=
  (pagesOf va bs.length).foldl (fun t pa => match walkKey t ctx pa.1 with
    | .leaf _ _ _ => spacePuts t ctx sib pa.2 ((bs.drop (pa.2 - va)).take ((pa.1 + 1) * 65536 - pa.2))
    | .bad c lv => logFault t die ctx c lv 1 pa.2) s

/-- The CTXID word of a context and its sibling path (R278). -/
def ctxidOf (ctx : Nat) (sib : List (Nat × Nat)) : Word :=
  BitVec.ofNat 32 (ctx + (match sib with | [] => 0 | (_, i) :: _ => 2 ^ 10 + i * 2 ^ 11) + min 7 sib.length * 2 ^ 17)

/-- The FLAGS word of a group (R354). -/
def groupFlags (g : Group) : Word := BitVec.ofNat 32 (b2n g.zv + 2 * b2n g.tmo + 4 * b2n g.pre + 8 * b2n g.wascol)

/-- The LEFT field (R353). -/
def groupLeft (g : Group) : Nat := match g.left with | none => 2 ^ 64 - 1 | some n => n

/-- The 640 bytes of a group record (R353). -/
def groupBytes (g : Group) : List Byte :=
  leBytes 8 (g.st + g.n * 2 ^ 8 + g.minN * 2 ^ 16 + popN g.arrive.toNat 64 * 2 ^ 24 + popN g.cancel.toNat 64 * 2 ^ 32
    + popN g.save.toNat 64 * 2 ^ 40)
  ++ leBytes 8 g.arrive.toNat ++ leBytes 8 g.cancel.toNat ++ leBytes 8 g.save.toNat
  ++ leBytes 4 (groupFlags g).toNat ++ leBytes 4 g.gid.toNat ++ leBytes 4 g.eps.toNat
  ++ leBytes 4 g.mean.toNat ++ leBytes 8 g.std.toNat ++ leBytes 8 (groupLeft g)
  ++ leBytes 8 g.cont.toNat ++ leBytes 4 g.node ++ leBytes 4 (ctxidOf g.ctx g.owner).toNat
  ++ leBytes 8 g.done.toNat ++ leBytes 40 0
  ++ ((List.range 64).flatMap fun i => leBytes 4 (fget 0 g.reward i).toNat)
  ++ ((List.range 64).flatMap fun i => leBytes 4 (fget 0 g.adv i).toNat)

/-- The fields of a group record: first byte and bytes (R353). -/
def groupFields : List (Nat × Nat) :=
  [(0, 1), (1, 1), (2, 1), (3, 1), (4, 1), (5, 1), (8, 8), (16, 8), (24, 8), (32, 4), (36, 4), (40, 4), (44, 4), (48, 4), (56, 8),
   (64, 8), (72, 4), (76, 4), (80, 8)] ++ (List.range 128).map fun i => (128 + 4 * i, 4)

/-- The live group of a context whose record stands at an address (R353). -/
def groupAtRec (s : State) (ctx : Nat) (rec : Addr) : Option Group :=
  s.groups.find? fun g => g.ctx == ctx && g.record == rec

/-- The live group of a number. -/
def groupOf (s : State) (uid : Nat) : Option Group := s.groups.find? fun g => g.uid == uid

/-- Writes every byte of a group's record, as GFORK does (R353). -/
def writeRecordAll (s : State) (g : Group) : State := deviceWrite s 0 g.ctx g.owner g.record.toNat (groupBytes g)

/-- An event on a group: the table takes the group's new state, and the record's fields that it changes are written
(R353). A write that is discarded goes to the fault log of die 0, for the spec names no die (R352; DESIGN CHOICE,
notes/assumptions/49.md). -/
def putGroup (s : State) (g : Group) : State :=
  let part := fun (x : Group) (f : Nat × Nat) => ((groupBytes x).drop f.1).take f.2
  let t := { s with groups := lmap (fun x => x.uid == g.uid) (fun _ => g) s.groups }
  match groupOf s g.uid with
  | none => t
  | some old => (groupFields.filter fun f => part old f != part g f).foldl (fun t f =>
      deviceWrite t 0 g.ctx g.owner (g.record.toNat + f.1) (part g f)) t

/-- Bits 0 to n − 1. -/
def lowMask (n : Nat) : BitVec 64 := BitVec.ofNat 64 (2 ^ n - 1)

/-- ARRIVE | CANCEL covers the siblings (R357). -/
def covered (g : Group) : Bool := (g.arrive ||| g.cancel) &&& lowMask g.n == lowMask g.n

/-- The scoring of a closed group (R359, R360). -/
def score (g : Group) : Group :=
  let m := (List.range g.n).filter fun i => g.arrive.getLsbD i
  let n := m.length
  if n = 0 || n < g.minN then { g with st := 5 }
  else
    let nth := fun (i : Nat) => m.getD i 0
    let nEx := exOfInt n
    let mean := rne32 (exDiv (treeSum (fun i => dec32 (fget 0 g.reward (nth i))) n) nEx)
    let d := fun (i : Nat) => sub32 (fget 0 g.reward (nth i)) mean
    let var := rne32 (exDiv (treeSum (fun i => dec32 (mul32 (d i) (d i))) n) nEx)
    let std := sqrt32 var
    let den := max32 std g.eps
    let zero := exZero (dec32 var)
    { g with st := 4, mean := mean, std := std, zv := zero,
             adv := (List.range n).foldl (fun a i => fput a (nth i) (if zero then 0 else div32 (d i) den)) g.adv }

/-- A group that has become Closed: its scoring ends in a step of its own (R357, R359). -/
def closeGroup (g : Group) : Group := { g with st := 3 }

/-- Makes a frame the view that `path` has of a page, without a copy: in the newest group that it forked, as a sibling of its
group, further out, and at last in the leaf (R373, R374, R376). -/
def setView (s : State) (ctx page f : Nat) : List (Nat × Nat) → State
  | [] => match ownEntry s ctx [] page with
    | some (g, m) => if entryFrame m 64 = f then s else setCopy s (fun x => x.uid == g.uid) page 64 f
    | none => match walkTable s (ctxAt s ctx).ptroot page with
      | .leaf l a _ => setLeaf s a (setFld l.toNat 52 17 f)
      | .bad _ _ => s
  | (u, i) :: rest =>
    match ownEntry s ctx ((u, i) :: rest) page with
    | some (g, m) => if entryFrame m 64 = f then s else setCopy s (fun x => x.uid == g.uid) page 64 f
    | none => match forkEntry s u page with
      | some m => if entryFrame m i = f then s else setCopy s (fun x => x.uid == u) page i f
      | none => setView s ctx page f rest

/-- A live group, or the leaf of the page, still needs a frame. -/
def stillNeeded (s : State) (ctx page tier f : Nat) : Bool :=
  (s.groups.any fun g => g.ctx == ctx && g.maps.any fun m => m.tier == tier && (m.orig == f || m.copies.any fun c => c.2 == f))
    || (match walkTable s (ctxAt s ctx).ptroot page with
        | .leaf l _ _ => leafTier l == tier && leafPfn l == f
        | .bad _ _ => false)

/-- Frees those of some frames of a page that nothing needs any more. -/
def dropFrames (ctx page tier : Nat) (fs : List Nat) (s : State) : State :=
  fs.eraseDups.foldl (fun s f => if stillNeeded s ctx page tier f then s else freeFrame s tier f) s

/-- The newest live group older than `uid` that `owner` forked and that forks a page, with its entry. -/
def olderEntry (s : State) (ctx : Nat) (owner : List (Nat × Nat)) (page uid : Nat) : Option (Group × Fork) :=
  ((ownGroups s ctx owner page).filter fun g => decide (g.uid < uid)).getLast?.bind fun g =>
    (g.maps.find? fun m => m.page == page).map fun m => (g, m)

/-- Makes a frame what the owner of group `uid` sees of a page without that group, and without the groups that it forked later: its copy
in an older group, as a sibling of its own group, or further out (R373, R374). -/
def setOuter (s : State) (ctx page f uid : Nat) (owner : List (Nat × Nat)) : State :=
  match olderEntry s ctx owner page uid with
  | some (g, m) => if entryFrame m 64 = f then s else setCopy s (fun x => x.uid == g.uid) page 64 f
  | none => match owner with
    | [] => match walkTable s (ctxAt s ctx).ptroot page with
      | .leaf l a _ => setLeaf s a (setFld l.toNat 52 17 f)
      | .bad _ _ => s
    | (u, i) :: rest => match forkEntry s u page with
      | some m => if entryFrame m i = f then s else setCopy s (fun x => x.uid == u) page i f
      | none => setView s ctx page f rest

/-- The frames of a page that the leaf and the live groups name. -/
def framesNamed (s : State) (ctx page : Nat) : List Nat :=
  (match walkTable s (ctxAt s ctx).ptroot page with | .leaf l _ _ => [leafPfn l] | .bad _ _ => [])
    ++ (s.groups.filter fun g => g.ctx == ctx).flatMap fun g => (g.maps.filter fun m => m.page == page).flatMap fun m => m.orig :: m.copies.map fun c => c.2

/-- Frees what a released group, no longer in the table, held for one page, and what its owner's copy takes the place of: that copy
becomes the page's frame, as the owner saw the page before it forked the group, and F is cleared when no live group forks the page
(R374). -/
def releasePage (g : Group) (s : State) (m : Fork) : State :=
  let fs := m.orig :: m.copies.map (fun c => c.2) ++ framesNamed s g.ctx m.page
  let s := if fhas m.copies 64 then setOuter s g.ctx m.page (fget 0 m.copies 64) g.uid g.owner else s
  let s := dropFrames g.ctx m.page m.tier fs s
  if s.groups.any fun x => x.ctx == g.ctx && x.maps.any fun y => y.page == m.page then s
  else match walkTable s (ctxAt s g.ctx).ptroot m.page with
    | .leaf l a _ => setLeaf s a (setFld l.toNat 8 8 0)
    | .bad _ _ => s

/-- A sibling tile of a group, or of a group forked inside one, runs on a core. -/
def groupRuns (s : State) (uid : Nat) : Bool :=
  s.cores.any fun nc => nc.2.busy && nc.2.task.sib.any fun x => x.1 == uid

/-- Releases a group that is terminal when DONE | CANCEL covers its siblings and none of them runs (R353, R374). -/
def releaseGroup (s : State) (uid : Nat) : State :=
  match groupOf s uid with
  | none => s
  | some g =>
    if 4 ≤ g.st && g.st ≤ 6 && (g.done ||| g.cancel) &&& lowMask g.n == lowMask g.n && !groupRuns s uid then
      dropLook (g.maps.foldl (releasePage g) { s with groups := s.groups.filter fun x => x.uid != uid }) g.ctx
    else s

/-- The state after a save or tile end: Suspended once SAVE, DONE and CANCEL cover the siblings (R357). -/
def suspendCheck (g : Group) : Group :=
  if g.pre && (g.st = 1 || g.st = 2) && (g.save ||| g.done ||| g.cancel) &&& lowMask g.n == lowMask g.n
  then { g with st := 7, wascol := g.st == 2 } else g

/-- A pre-emption request reaches the groups that a sibling forked once it has saved, ended or been cancelled: one that its
own group is under, or one that is pending for the rank context (R290, R361). -/
def preInner (s : State) (g : Group) (i : Nat) : State :=
  if !g.pre && (ctxAt s g.ctx).pending == 0 then s
  else (s.groups.filter fun x => x.ctx == g.ctx && x.owner == (g.uid, i) :: g.owner && (x.st == 1 || x.st == 2) && !x.pre).foldl
    (fun s x => putGroup s { x with pre := true }) s

/-- A sibling's tile has ended without a saved continuation: DONE is set (R356, R357). -/
def siblingDone (s : State) (uid i : Nat) : State :=
  match groupOf s uid with
  | none => s
  | some g => releaseGroup (preInner (putGroup s (suspendCheck { g with done := g.done ||| (1 <<< i) })) g i) uid

/-- The pre-emption request of R361: PRE on every Forked or Collecting group of the context whose forker is the rank
context, or a sibling that has saved, ended or been cancelled. -/
def requestPre (s : State) (ctx : Nat) : State :=
  (s.groups.filter fun g => g.ctx == ctx && (g.st == 1 || g.st == 2) && !g.pre &&
      (match g.owner with
       | [] => true
       | (u, i) :: _ => match groupOf s u with
         | some o => (o.save ||| o.done ||| o.cancel).getLsbD i
         | none => true)).foldl (fun s g => putGroup s { g with pre := true }) s

/-! ### The end of a tile and of a node -/

/-- The trace record of R446: type, cluster, core, time since the sync record, payload. -/
def traceRec (ty cl core delta payload : Nat) : BitVec 128 :=
  BitVec.ofNat 128 (ty + cl * 2 ^ 8 + core * 2 ^ 16 + (min delta (2 ^ 32 - 1)) * 2 ^ 32 + payload % 2 ^ 64 * 2 ^ 64)

/-- Writes records to a die's ring of 65,536 records; what does not fit is counted as lost (R446, R447). -/
def ringPut (s : State) (n : Nat) (r : BitVec 128) : State :=
  let die := dieOf n
  let ring := fget [] s.trace die
  let c := coreAt s n
  if ring.length < 65536 then { s with trace := fput s.trace die (ring ++ [r]) }
  else setCoreAt s n { c with lost := c.lost + 1, lostTime := if c.lost = 0 then s.ns else c.lostTime }

/-- Writes a trace record of a core, with the loss and sync records that R447 puts before it. -/
def traceOut (s : State) (n ty cl payload : Nat) : State :=
  let c := coreAt s n
  if !(c.kctl.getLsbD 3 || (ty == 1 && c.kctl.getLsbD 4)) || !c.trctl.getLsbD cl then s
  else
    let roomy := (fget [] s.trace (dieOf n)).length < 65536
    let loss := decide (0 < c.lost) && roomy
    let s := if loss then
        setCoreAt (ringPut s n (traceRec 4 cl n (s.ns - c.syncTime) (c.lost + c.lostTime % 2 ^ 32 * 2 ^ 32))) n { c with lost := 0 }
      else s
    let c := coreAt s n
    let s := if c.traced % 65536 = 0 || loss || 2 ^ 32 ≤ s.ns - c.syncTime then
        let t := ringPut s n (traceRec 3 cl n 0 s.ns)
        if (fget [] s.trace (dieOf n)).length < 65536 then setCoreAt t n { coreAt t n with syncTime := s.ns } else t
      else s
    let c := coreAt s n
    ringPut (setCoreAt s n { c with traced := c.traced + 1 }) n (traceRec ty cl n (s.ns - c.syncTime) payload)

/-- A node completes when its last tile has ended: its benches are free, its run learns of it, and a STEP that a tile
executed asks for a boundary. One that Rescue interrupted has not completed: it runs again (R272, R423, R424, R436). -/
def nodeCheck (s : State) (id : Nat) : State :=
  match runAt s id with
  | none => s
  | some r =>
    if r.live = 0 && r.tasks.isEmpty then
      let c := ctxAt s r.ctx
      let done := { c with stepReq := c.stepReq || r.stepReq
                           run := c.run.map fun u => if r.gang.isSome then u else
                             { u with doneNodes := u.doneNodes ++ [r.node], tiles := u.tiles + r.ran } }
      let c := if c.rerun.any fun x => x.2 == id then c else done
      setCtx { s with runs := s.runs.filter fun x => x.id != id } r.ctx c
    else s

/-- A cluster whose tile has ended: it waits for nothing, and its tokens are gone; its registers stay until the next tile starts
(R55, R271, R436). -/
def idleClu (k : Clu) : Clu :=
  { k with wait := .none, inner := .none, need := 1, rvDone := false, closing := false, tokPend := [], tokHeld := [] }

/-- A queue whose contents are discarded: its sequence numbers stay until the next tile starts (R271, R333). -/
def emptyQueue (q : Queue) : Queue := { q with ents := [], tags := [], refill := none }

/-- A core whose tile has ended: the contents of its queues and its commands are gone, its tiles are Unconfigured, and it runs no handler;
all else that the words of the tile left in registers, counters and arrays stays until the next tile starts (R55, R211, R271, R333,
R432). -/
def idleCore (c : Core) : Core :=
  { c with
    busy := false, task := {}, clu := c.clu.map fun k => (k.1, idleClu k.2), q := c.q.map fun x => (x.1, emptyQueue x.2)
    cmds := [], late := [], t := [], level := 0, treq := [], tacked := false, tackOk := true, walkBad := [], lentOk := [], qdead := 0, sleep := none, sysc := none
    soft := c.soft.filter fun x => match x with | .q _ _ => false | .tile _ => false | _ => true }

/-- The context becomes Suspended for a reason; one that is Suspended already keeps its reason (R281, R289). -/
def suspendCtx (s : State) (ctx reason : Nat) : State :=
  let c := ctxAt s ctx
  if c.st = .hot then setCtx s ctx { c with st := .suspended, reason := reason } else s

/-- No further tile of the context starts, and it becomes Suspended for a reason once its running tiles have ended
(R273, R296). -/
def haltCheck (s : State) (ctx : Nat) : State :=
  let c := ctxAt s ctx
  match c.halt with
  | none => s
  | some r =>
    if s.cores.any fun nc => nc.2.busy && nc.2.task.ctx == ctx then s
    else suspendCtx (setCtx s ctx { c with halt := none }) ctx r

/-- Asks a Hot context to stop for a reason; an earlier request keeps its own. -/
def haltCtx (s : State) (ctx reason : Nat) : State :=
  let c := ctxAt s ctx
  if c.st = .hot && c.halt.isNone then haltCheck (setCtx s ctx { c with halt := some reason }) ctx else s

/-- Stale entries that the last tile using them has left are gone (R313). -/
def dropStale (s : State) : State := { s with xlates := s.xlates.filter fun x => x.st != .stale || !x.users.isEmpty }

/-- Core `n` leaves the entries that satisfy `p` (R313). -/
def leaveCode (n : Nat) (p : Xlate → Bool) (s : State) : State :=
  { s with xlates := lmap p (fun x => { x with users := x.users.filter fun m => m != n }) s.xlates }

/-- Benches that were asked back leave their node's grant once every core of them is idle (R424). -/
def leaveBenches (s : State) : State :=
  let idle := fun (b : Nat) => (List.range 4).all fun i => !(coreAt s (4 * b + i)).busy
  { s with runs := lmap (fun r => !r.giving.isEmpty) (fun r => { r with
      benches := r.benches.filter (fun b => !(r.giving.contains b && idle b)), giving := r.giving.filter fun b => !idle b }) s.runs }

/-- The tile of core `n` has ended; `saved` says that a continuation was saved (R271, R356, R362). -/
def tileOver (s : State) (n : Nat) (saved : Bool) : State :=
  let c := coreAt s n
  let k := c.task
  let s := traceOut s n 9 3 ((ctxidOf k.ctx k.sib).toNat + k.t * 2 ^ 32)
  let c := coreAt s n
  let s := setCoreAt s n (idleCore c)
  let s := { s with runs := lmap (fun r => r.id == k.run) (fun r => { r with live := r.live - 1, ran := r.ran + 1 }) s.runs,
                    sent := lmap (fun m => m.core == n + 1) (fun m => { m with core := 0 }) s.sent,
                    walks := lmap (fun _ => true) (fun w => { w with waiters := w.waiters.filter fun x => x.1 != n }) s.walks }
  let s := match k.sib with
    | [] => s
    | (u, i) :: r => r.foldl (fun s x => releaseGroup s x.1) (if saved then s else siblingDone s u i)
  haltCheck (nodeCheck (leaveBenches (dropStale (leaveCode n (fun _ => true) s))) k.run) k.ctx

end Sys2Proof.Machine
end

