-- ==== Sys2Proof/Machine/Code.lean ====
section
/-! DEFINITION. Reading code words, keeping translation entries, and fetching a word (spec/11_kernel.md R311-R316,
spec/03_model.md R54). -/

namespace Sys2Proof.Machine

/-- One code word of a context's stream: the word, or the reason of its XLATE stub, the lowest that applies (R316). A page
whose lender is lost counts as not mapped (R370; notes/assumptions/32.md). -/
def codeWord (s : State) (ctx va : Nat) : XWord :=
  if 2 ^ 48 ≤ va then .stub 1 else
  match walkTable s (ctxAt s ctx).ptroot (va / 65536) with
  | .bad _ _ => .stub 1
  | .leaf l _ _ =>
    if lenderLost s l then .stub 1
    else if !leafX l then .stub 2
    else if !fhas (ctxAt s ctx).keys (leafKey l) then .stub 3
    else
      let k := readKey s ctx [] (va / 65536) l (va % 65536)
      let byte := fun (i : Nat) => (plainByte s (keyMat s ctx l) (k + i)).toNat
      if s.badSectors.contains (k / 64) then .stub 4
      else .word (BitVec.ofNat 32 (byte 0 + byte 1 * 2 ^ 8 + byte 2 * 2 ^ 16 + byte 3 * 2 ^ 24))

/-- The words of a section as memory holds them (R312). -/
def codeWords (s : State) (ctx va : Nat) : Nat → List XWord
  | 0 => []
  | n + 1 => codeWord s ctx va :: codeWords s ctx (va + 4) n

/-- The 512-byte lines that hold the words of a section (R313, R315). -/
def codeLines (s : State) (ctx va : Nat) : Nat → List Nat
  | 0 => []
  | n + 1 =>
    let r := codeLines s ctx (va + 4) n
    match walkTable s (ctxAt s ctx).ptroot (va / 65536) with
    | .bad _ _ => r
    | .leaf l _ _ =>
      let k := readKey s ctx [] (va / 65536) l (va % 65536) / 512
      if r.contains k then r else k :: r

/-- The entry of a section on its die that core `n` uses, or else the one that a tile would find (R311, R313). -/
def findXlate (s : State) (n ctx : Nat) (base : Addr) : Option Xlate :=
  let mine := fun (x : Xlate) => x.ctx == ctx && x.die == dieOf n && x.base == base
  s.xlates.find? (fun x => mine x && x.users.contains n) <|> s.xlates.find? fun x => mine x && x.st != .stale

/-- An entry built afresh from memory (R312). -/
def buildEntry (s : State) (x : Xlate) : Xlate :=
  { x with words := codeWords s x.ctx x.base.toNat x.words.length, st := .valid,
           lines := codeLines s x.ctx x.base.toNat x.words.length }

/-- The walks of a section that find no page are logged, one record for each page (R379). -/
def logCode (s : State) (x : Xlate) : State :=
  (pagesOf x.base.toNat (4 * x.words.length)).foldl (fun t pa => match walkKey s x.ctx pa.1 with
    | .bad c lv => logFault t x.die x.ctx c lv 1 pa.2
    | .leaf _ _ _ => t) s

/-- Looks a section up on a die: where no entry of it is Building or Valid, one begins to be built; tiles that use a Stale one keep it
(R311-R313). -/
def lookStream (s : State) (ctx die : Nat) (x : Addr × Nat) : State :=
  if s.xlates.any fun e => e.ctx == ctx && e.die == die && e.base == x.1 && e.st != .stale then s
  else { s with xlates := s.xlates ++ [{ ctx := ctx, die := die, base := x.1, st := .building, words := codeWords s ctx x.1.toNat x.2 }] }

/-- Core `n` looks a section up afresh: it leaves its entry, and uses from now on the one that is Valid or being built (R313, R315). -/
def lookCode (n ctx : Nat) (s : State) (x : Addr × Nat) : State :=
  let mine := fun (e : Xlate) => e.ctx == ctx && e.die == dieOf n && e.base == x.1
  let t := lookStream (leaveCode n mine s) ctx (dieOf n) x
  dropStale { t with xlates := lmap (fun e => mine e && e.st != .stale) (fun e => { e with users := n :: e.users }) t.xlates }

/-- Core `n` looks the sections of its active clusters up afresh (R315). -/
def refreshCode (s : State) (n ctx : Nat) : State :=
  ((coreAt s n).clu.filter fun k => k.2.active).foldl (fun s k => lookCode n ctx s (k.2.base, k.2.words)) s

/-- A fence with the code class: what the core has stored to code of its context is performed at device scope, and its sections are
looked up afresh (R142, R315). -/
def fenceCode (s : State) (n ctx : Nat) : State :=
  let die := dieOf n
  let lines := (s.xlates.filter fun x => x.ctx == ctx && x.die == die).flatMap fun x => codeLines s ctx x.base.toNat x.words.length
  refreshCode (writeBack (fun x => lines.contains (x.key / 8)) n s) n ctx

/-- Marks the entries of a section Stale (R313, R316). -/
def staleCode (s : State) (ctx die : Nat) (base : Addr) : State :=
  { s with xlates := lmap (fun x => x.ctx == ctx && x.die == die && x.base == base) (fun x => { x with st := .stale }) s.xlates }

/-! ### Fetch (R54, R106, R311, R316) -/

/-- The next word of cluster `cl` of core `n`, as its translation holds it, or memory while its translation is being built; none where the
virtual PC lies outside the cluster's stream section. A PC in the section that is no multiple of 4 from its base, which only a write of
XVPC gives, counts as outside, for the spec names no outcome (DESIGN CHOICE, notes/assumptions/49.md). -/
def fetchWord (s : State) (n cl : Nat) : Option XWord :=
  let c := coreAt s n
  let k := cluAt c cl
  let d := (k.pc - k.base).toNat
  if d % 4 = 0 && d / 4 < k.words then
    some (((findXlate s n c.task.ctx k.base).bind fun x => if x.st = .building then none else x.words[d / 4]?).getD (codeWord s c.task.ctx k.pc.toNat))
  else none

/-- The next word of a cluster and the instruction that it is: outside the section and for a reserved encoding a stub
that raises ILLEGAL, and for a word that could not be read the XLATE stub with its reason. -/
def nextInstr (s : State) (n cl : Nat) : Word × Instr :=
  match fetchWord s n cl with
  | none => (0, .trapStub)
  | some (.stub r) => (BitVec.ofNat 32 r, .xlateStub)
  | some (.word w) =>
    match decode cl w.toNat with
    | .ok i => (w, i)
    | .error _ => (w, .trapStub)

end Sys2Proof.Machine
end

