-- ==== Sys2Proof/Machine/Ops.lean ====
section
/-! DEFINITION. What every word shares: the registers and their latency windows, the scoreboard, issue and retirement,
the advance past a loop's last word, taking a trap and returning from one (spec/03_model.md R54-R78,
spec/05_isa_shared.md R111-R124, spec/19_traps.md R429-R438). -/

namespace Sys2Proof.Machine

/-- The core whose turn it is. -/
def core (s : State) : Core := coreAt s s.cur
/-- Writes the core whose turn it is. -/
def setCore (s : State) (c : Core) : State := setCoreAt s s.cur c
/-- Changes the core whose turn it is. -/
def onCore (f : Core → Core) (s : State) : State := setCore s (f (core s))
/-- The cluster whose turn it is. -/
def clu (s : State) : Clu := cluAt (core s) s.cl
/-- Changes the cluster whose turn it is. -/
def onClu (f : Clu → Clu) (s : State) : State := onCore (fun c => putClu c s.cl (f (cluAt c s.cl))) s

/-- The core as a word sees it: inside a rendezvous, as it stood before the cycle (R73). -/
def coreSeen (s : State) : Core := match s.view with | some v => v.was | none => core s

/-- KCTL.LATCHK (R139). -/
def latchk (c : Core) : Bool := c.kctl.getLsbD 0
/-- KCTL.TCHK. -/
def tchk (c : Core) : Bool := c.kctl.getLsbD 1
/-- KCTL.ERRMODE. -/
def errmode (c : Core) : Bool := c.kctl.getLsbD 2

/-- The cluster waits for `n` entries, or for room for them; its word is unperformed (R236). -/
def waitFor (n : Nat) (w : Wait) (s : State) : State := onClu (fun k => { k with wait := w, need := n }) s
/-- The cluster waits; its word is unperformed (R236). -/
def waitOn (w : Wait) (s : State) : State := waitFor 1 w s

/-- An entry that has arrived. -/
def arrived : QEnt → Bool
  | .hole _ => false
  | _ => true

/-- An entry is a marker (R130). -/
def isMarker : QEnt → Bool
  | .marker => true
  | _ => false

/-- What a cluster waits on at a queue, an outcome queue or a handshake has come: entries, with `need` 0 a marker and all before it (R134),
or with `need` 0 room for an outcome. -/
def comeFor (c : Core) (w : Wait) (k : Clu) : Bool :=
  match w with
  | .pop q => let e := (fget ({} : Queue) c.q q).ents
              if k.need = 0 then (e.takeWhile arrived).any isMarker else let l := e.take k.need; decide (l.length = k.need) && l.all arrived
  | .push q => let x := fget ({} : Queue) c.q q; decide (x.ents.length + k.need ≤ x.depth)
  | .hs h => (fget ({} : HCnt) c.h h).val != 0
  | .outq t => let n := (cluAt c t).outq.length; if k.need = 0 then decide (n < 32) else decide (0 < n)
  | _ => false

/-- What the Y = 1 word of a cluster asks for, before the others are looked at, has come (R73). -/
def innerCome (c : Core) (k : Clu) : Bool := k.wait == .rv && (k.inner == .none || comeFor c k.inner k)

/-- Every active cluster stands at a Y = 1 word that is free to issue (R73). -/
def rvCome (c : Core) : Bool := (List.range 4).all fun i => let k := cluAt c i; !k.active || innerCome c k

/-- Cluster `i` waits as TEND asks: at a Y = 1 word, a queue, an outcome queue or a handshake, for something that has not come
(R79, R271). -/
def tendWait (c : Core) (i : Nat) : Bool :=
  let k := cluAt c i
  !k.active || (match k.wait with
    | .pop _ => !comeFor c k.wait k
    | .push _ => !comeFor c k.wait k
    | .hs _ => !comeFor c k.wait k
    | .outq _ => !comeFor c k.wait k
    | .rv => !rvCome c
    | _ => false)

/-- What a cluster waits on has come: its next try goes on. The waits on units end at the cluster's own turn (R69, R271, R335). -/
def waitOver (c : Core) (k : Clu) : Bool :=
  match k.wait with
  | .rv => rvCome c
  | .tend => tendWait c clA && tendWait c clV && tendWait c clM
  | w => comeFor c w k

/-! ### Registers and latency windows -/

/-- The results of one register whose window has closed for the next word, oldest first (R74). -/
def closedFor (ls : List Land) (k : RegKind) (r : Nat) : List Land :=
  ls.filter fun l => l.kind == k && l.reg == r && decide (l.remain ≤ 1)

/-- A scalar as the next word reads it: the latest producer whose window has closed (R75). -/
def readS (k : Clu) (r : Nat) : Scalar :=
  match (closedFor k.pend .s r).getLast? with
  | some l => { val := l.bits.setWidth 32, pois := l.pois.getLsbD 0 }
  | none => fget {} k.s r

/-- An address register as the next word reads it. -/
def readA (k : Clu) (r : Nat) : Addr :=
  match (closedFor k.pend .a r).getLast? with
  | some l => l.bits.setWidth 64
  | none => fget 0 k.a r

/-- Lays the lanes of a closed result over a vector. -/
def overlay (v : VVal) (l : Land) : VVal :=
  { bits := blend (laneMask l.mask) l.bits v.bits, pois := blend l.mask l.pois v.pois }

/-- The physical register of a vector name (R60). -/
def physV (rotb : BitVec 5) (n : Nat) : Nat := if n < 32 then n else 32 + (n - 32 + rotb.toNat) % 32
/-- The physical register of a predicate name (R60). -/
def physP (rotb : BitVec 5) (n : Nat) : Nat := if n < 8 then n else 8 + (n - 8 + rotb.toNat) % 8

/-- Physical vector register `r` as the next word reads it. -/
def readV (c : Core) (r : Nat) : VVal :=
  (closedFor (cluAt c clV).pend .v r).foldl overlay (fget {} c.v r)

/-- Physical predicate `r` as the next word reads it; p0 reads all true (R56). -/
def readP (c : Core) (r : Nat) : BitVec 512 :=
  if r = 0 then BitVec.allOnes 512
  else (closedFor (cluAt c clV).pend .p r).foldl (fun b l => blend l.mask (l.bits.setWidth 512) b) (fget 0 c.p r)

/-- Writes a result into its register, and ends the error of what it writes over: a lane, or 32 lanes of a predicate, that a guarded word
leaves alone keeps its own (R182, R471). A write to p0 is discarded (R56). -/
def commitLand (cl : Nat) (c : Core) (l : Land) : Core :=
  match l.kind with
  | .s => let k := cluAt c cl
          putClu { c with soft := c.soft.filter fun x => x != .s cl l.reg } cl
            { k with s := fput k.s l.reg { val := l.bits.setWidth 32, pois := l.pois.getLsbD 0 }, tokHeld := fdel k.tokHeld l.reg }
  | .a => let k := cluAt c cl
          putClu { c with soft := c.soft.filter fun x => x != .a cl l.reg } cl { k with a := fput k.a l.reg (l.bits.setWidth 64) }
  | .v => { c with v := fput c.v l.reg (overlay (fget {} c.v l.reg) l),
                   soft := c.soft.filter fun x => match x with | .v r i => !(r == l.reg && l.mask.getLsbD i) | _ => true }
  | .p => if l.reg = 0 then c else { c with p := fput c.p l.reg (blend l.mask (l.bits.setWidth 512) (fget 0 c.p l.reg)),
                                            soft := c.soft.filter fun x => match x with
                                              | .p r i => !(r == l.reg && (l.mask.extractLsb' (32 * i) 32 == BitVec.allOnes 32))
                                              | _ => true }

/-- Takes from an older pending result the lanes that a newer result of the same register has written (R75); it is then no
longer the register's latest producer (R77). -/
def shadowLand (newer : List Land) (l : Land) : Land :=
  { l with mask := newer.foldl (fun m x => if x.kind == l.kind && x.reg == l.reg then m &&& ~~~x.mask else m) l.mask
           old := l.old || newer.any fun x => x.kind == l.kind && x.reg == l.reg }

/-- The pending results after a word issues, oldest first: results whose window has closed leave, the others come one
word nearer, and what a newer closed result has written never comes back (R74, R75). -/
def agePend : List Land → List Land
  | [] => []
  | l :: r =>
    if l.remain ≤ 1 then agePend r
    else
      let l1 := shadowLand (r.filter fun x => decide (x.remain ≤ 1)) l
      if l1.mask = 0 then agePend r else { l1 with remain := l1.remain - 1 } :: agePend r

/-- A word has issued with the results `new`: closed windows are written, the others count the word (R74); the deadlock
count starts again (R335). A result of latency 1 is written with its word, and no trap finds it pending: the frames of R483
have LAND 0 just after an ADDI (notes/assumptions/45.md). -/
def commitWord (new : List Land) (s : State) : State :=
  onCore (fun c =>
    let all := (cluAt c s.cl).pend ++ (new.map fun l => if l.remain ≤ 1 then l else { l with remain := l.remain + 1 })
    let c := (all.filter fun l => decide (l.remain ≤ 1)).foldl (commitLand s.cl) c
    { putClu c s.cl { cluAt c s.cl with pend := agePend all } with qdead := 0 }) s

/-- A scalar result with latency `n` (R74). -/
def landS (n r : Nat) (v : Scalar) : Land :=
  { kind := .s, reg := r, remain := n, bits := v.val.setWidth 16384, pois := if v.pois then 1 else 0, mask := BitVec.allOnes 512 }
/-- An address result. -/
def landA (r : Nat) (v : Addr) : Land :=
  { kind := .a, reg := r, remain := 1, bits := v.setWidth 16384, pois := 0, mask := BitVec.allOnes 512 }
/-- A vector result in the lanes of `mask`. -/
def landV (n r : Nat) (v : VVal) (mask : BitVec 512) : Land :=
  { kind := .v, reg := r, remain := n, bits := v.bits, pois := v.pois, mask := mask }
/-- A predicate result in the lanes of `mask`. -/
def landP (n r : Nat) (v mask : BitVec 512) : Land :=
  { kind := .p, reg := r, remain := n, bits := v.setWidth 16384, pois := 0, mask := mask }

/-! ### Retirement -/

/-- Moves past the word at `last`: the closing branch of a level with that last word is due (R124). -/
def passWord (last : Addr) (k : Clu) : Clu :=
  { k with pc := last + 4, closing := k.loops.any fun x => x.2.active && x.2.last == last, wait := .none, rvDone := false }

/-- The word has issued and control goes to the next word (R111). -/
def retire (new : List Land) (s : State) : State :=
  onClu (fun k => passWord k.pc k) (commitWord new s)

/-- The word has issued and control goes to `pc`. -/
def retireTo (pc : Addr) (new : List Land) (s : State) : State :=
  onClu (fun k => { k with pc := pc, closing := false, wait := .none, rvDone := false }) (commitWord new s)

/-- The word has issued and transfers control to `pc`: a branch record is written when tracing is on (R446). -/
def branchTo (pc : Addr) (new : List Land) (s : State) : State :=
  let from_ := (clu s).pc
  traceOut (retireTo pc new s) s.cur 2 s.cl (from_.toNat % 2 ^ 32 + pc.toNat % 2 ^ 32 * 2 ^ 32)

/-! ### What a cluster knows of A's weak stores (R72, R245) -/

/-- The number of the latest weak store of A that cluster `cl` comes after: A's own are all before it. -/
def knows (c : Core) (cl : Nat) : Nat := if cl = clA then c.stores else (cluAt c cl).know
/-- Cluster `cl` comes after the stores up to `n`. -/
def learn (cl n : Nat) (c : Core) : Core :=
  if n ≤ (cluAt c cl).know then c else putClu c cl { cluAt c cl with know := n }

/-! ### Queues and closing branches (R66-R72, R124) -/

/-- Queue `q` of the core. -/
def queueAt (s : State) (q : Nat) : Queue := fget {} (core s).q q
/-- The tags of a queue whose entries have changed from `old` to `x`: a push takes what the producer knows, and a pop's tags
leave (R72). -/
def queueTags (c : Core) (old x : Queue) : List Nat :=
  let pushed := (x.pseq - old.pseq).toNat
  (old.tags ++ List.replicate pushed (knows c x.prod)).drop (x.cseq - old.cseq).toNat

/-- What the consumer of a queue learns from the entries that it pops (R72). -/
def queueNews (old x : Queue) : Nat := (old.tags.take (x.cseq - old.cseq).toNat).foldl max 0

/-- Writes queue `q`; a pop tells its cluster what the producer knew, and at a push of A the queue loads before it have read their
bytes (R72, R407). -/
def setQueue (s : State) (q : Nat) (x : Queue) : State :=
  onCore (fun c =>
    let old := fget ({} : Queue) c.q q
    learn s.cl (queueNews old x) { c with q := fput c.q q { x with tags := queueTags c old x },
                                          late := if s.cl = clA && x.pseq != old.pseq then [] else c.late }) s

/-- The head has not arrived: the queue is empty or its head is a hole (R157). -/
def headMissing (x : Queue) : Bool := match x.ents with | [] => true | .hole _ :: _ => true | _ => false
/-- The head is a marker (R130). -/
def headMarker (x : Queue) : Bool := match x.ents with | .marker :: _ => true | _ => false

/-- Pops `n` entries: the consumed sequence number advances by n (R67). -/
def popN_ (x : Queue) (n : Nat) : Queue := { x with ents := x.ents.drop n, cseq := x.cseq + BitVec.ofNat 32 n }

/-- Loop level n of a cluster. -/
def loopAt (k : Clu) (n : Nat) : Loop := fget {} k.loops n

/-- The innermost active level whose last word is `last`. -/
def innermost (k : Clu) (last : Addr) : Option Nat :=
  ((List.range 4).reverse).find? fun n => (loopAt k n).active && (loopAt k n).last == last

/-- One closing branch of the innermost level that ends at the word just issued (R124). -/
def closeOnce (s : State) : State :=
  let k := clu s
  let last := k.pc - 4
  match innermost k last with
  | none => onClu (fun k => { k with closing := false, wait := .none }) s
  | some m =>
    let l := loopAt k m
    let x := queueAt s l.queue
    if l.stream && headMissing x then waitOn (.pop l.queue) s
    else
      let exits := if l.stream then headMarker x else decide (l.count ≤ (fget 0 k.l m).toNat + 1)
      let s := if l.stream && exits then setQueue s l.queue (popN_ x 1) else s
      if exits then
        onClu (fun k =>
          let k := { k with loops := fput k.loops m { l with active := false }, wait := .none }
          { k with closing := k.loops.any fun x => x.2.active && x.2.last == last }) s
      else
        let s := onClu (fun k => { k with l := fput k.l m (fget 0 k.l m + 1), pc := l.start, closing := false, wait := .none }) s
        let s := if l.rot && s.cl = clV then onCore (fun c => { c with rotb := c.rotb - 1 }) s else s
        if (core s).trctl.getLsbD 9 then
          traceOut s s.cur 2 s.cl (last.toNat % 2 ^ 32 + l.start.toNat % 2 ^ 32 * 2 ^ 32)
        else s

/-- The closing branches that are due, innermost first, each at once after the one inside it (R124). -/
def closeAll : Nat → State → State
  | 0, s => s
  | n + 1, s => if (clu s).closing && (clu s).wait == .none then closeAll n (closeOnce s) else s

/-- The closing branches that are due on any cluster act, as far as none waits for its queue: a trap finds every cluster at its next word
(R124, R318, R431; notes/assumptions/41.md). -/
def closeDue (s : State) : State :=
  (List.range 4).foldl (fun t i =>
    if (cluAt (core t) i).active && (cluAt (core t) i).closing then
      { closeAll 4 (onClu (fun k => { k with wait := .none }) { t with cl := i }) with cl := s.cl }
    else t) s

/-! ### Traps -/

/-- A scalar result lands: older pending results of the register are superseded, and the frames of the levels that run note that none
of them is to be re-armed (R75, R76, R438). Once a trap has been raised they stay, as overtaken ones, for its landing records (R431). A
result of C that lands in a handler is the handler's own (R276). -/
def landScalar (cl r : Nat) (v : Scalar) (c : Core) : Core :=
  let c := commitLand cl c (landS 1 r v)
  let of := fun (l : Land) => l.kind == .s && l.reg == r
  let cut := fun (k : Clu) => { k with
    pend := if c.treq.isEmpty then k.pend.filter (fun l => !of l) else lmap of (fun l => { l with old := true }) k.pend }
  { putClu c cl (cut (cluAt c cl)) with
    frames := if cl = clC then c.frames else c.frames.map fun f =>
      if f.1 ≤ c.level then (f.1, { f.2 with landed := (cl, r) :: f.2.landed }) else f }

/-- Lands the scoreboarded results of cluster `cl` (R76). -/
def landSb (cl : Nat) (c : Core) : Core :=
  let k := cluAt c cl
  k.sb.foldl (fun c x => landScalar cl x.reg x.val c) (putClu c cl { k with sb := [] })

/-- Completes the issued MMAs in the order of issue (R206). -/
def finishMma (c : Core) : Core :=
  c.mma.foldl (fun c o => { c with c := fput c.c o.acc (mmaResult o (fget 0 c.c o.acc)),
                                   badAcc := c.badAcc }) { c with mma := [] }

/-- The RVDONE bits: clusters whose resume word's rendezvous has taken place (R432). -/
def rvBits (c : Core) : Nat := (List.range 4).foldl (fun n i => n + b2n (cluAt c i).rvDone * 2 ^ i) 0
/-- The ACTIVE bits (R432). -/
def activeBits (c : Core) : Nat := (List.range 4).foldl (fun n i => n + b2n (cluAt c i).active * 2 ^ i) 0
/-- The LAND bits: clusters with landing records (R432). -/
def landBits (c : Core) : Nat := (List.range 4).foldl (fun n i => n + b2n (!(cluAt c i).pend.isEmpty) * 2 ^ i) 0

/-- XCUTP: queues that hold a hole, and queues that are not empty (R432). -/
def cutBits (c : Core) : Word :=
  BitVec.ofNat 32 (c.q.foldl (fun n x =>
    n + (b2n (x.2.ents.any fun e => match e with | .hole _ => true | _ => false) + b2n (!x.2.ents.isEmpty) * 65536) * 2 ^ x.1) 0)

/-- XFRAME (R432). -/
def frameWord (c : Core) (cl level : Nat) (tacked : Bool) : Word :=
  BitVec.ofNat 32 (cl + level * 4 + b2n tacked * 16 + activeBits c * 32 + landBits c * 512 + rvBits c * 8192)

/-- The COREID word of a core: the logical number of a program core, FW and DIE of a firmware core (R12). -/
def coreidOf (n : Nat) : Word := BitVec.ofNat 32 (if n < 512 then n else 512 + dieOf n * 128)

/-- The WINDOW word of a frame (R433). -/
def windowWord (c : Core) : Word := BitVec.ofNat 32 (c.winTag % 65536 + b2n c.winOver * 65536 + min 16 c.win.length * 131072)

/-- What a word on a queue asks for: entries to pop or room to push, and how many (R68, R333). A word with MU = 1 raises MUSTU and asks for
none (R104). -/
def queueUse (c : Core) (i : Instr) : Wait × Nat :=
  let guarded := fun (pg : Nat) (pn : Bool) (w : Wait) =>
    if (if pn then ~~~readP c (physP c.rotb pg) else readP c (physP c.rotb pg)) = 0 then (Wait.none, 1) else (w, 1)
  match i with
  | .qget _ q => (.pop q, 1)
  | .qdrop q => (.pop q, 1)
  | .loopq _ q _ _ => (.pop q, 1)
  | .stq q _ _ _ mu _ => if mu then (.none, 1) else (.pop q, 1)
  | .stt q _ _ _ mu _ => if mu then (.none, 1) else (.pop q, 1)
  | .tpop _ q => (.pop q, 1)
  | .vpop _ q pg pn => guarded pg pn (.pop q)
  | .wld w q => (.pop q, match (fget ({} : WSlot) c.w w).mode with | .mx => 3 | .x => 3 | _ => 2)
  | .cpop _ q => (.pop q, 2)
  | .qput q _ => (.push q, 1)
  | .qmark q => (.push q, 1)
  | .ldq q _ _ _ mu _ => if mu then (.none, 1) else (.push q, 1)
  | .ldqs q _ _ _ mu _ => if mu then (.none, 1) else (.push q, 1)
  | .ldt q _ _ _ mu _ => if mu then (.none, 1) else (.push q, 1)
  | .tpsh q _ => (.push q, 1)
  | .vpsh q _ pg pn => guarded pg pn (.push q)
  | .cpsh _ q => (.push q, 2)
  | .cemit _ q _ d _ => (.push q, if d = .f32 then 2 else 1)
  | _ => (.none, 1)

/-- The cluster has the end of the queue that its word uses. -/
def ownsEnd (c : Core) (i : Nat) (w : Wait) : Bool :=
  match w with
  | .pop q => (fget ({} : Queue) c.q q).declared && (fget ({} : Queue) c.q q).cons == i
  | .push q => (fget ({} : Queue) c.q q).declared && (fget ({} : Queue) c.q q).prod == i
  | _ => false

/-- A scoreboarded result holds back the scalar word on a queue (R76). -/
def queueStall (k : Clu) (i : Instr) : Bool :=
  let busy := fun (r : Nat) => fhas k.tokPend r || k.sb.any fun x => x.reg == r
  match i with
  | .qget d _ => busy d
  | .qput _ a => busy a
  | _ => false

/-- What a cluster that stops at a word boundary waits on there: a wait that it stands in and that has not come, or that of its next word
on a queue, which it reaches at once (R431, R435). Its closing branches have acted, or wait (`closeDue`). -/
def standsFor (s : State) (c : Core) (i : Nat) : Wait :=
  let k := cluAt c i
  if !k.active || c.level != 0 then k.wait
  else if k.wait != .none then (if waitOver c k then .none else k.wait)
  else
    let x := nextInstr (setCore s c) s.cur i
    let w := queueUse c x.2
    let held := match w.1 with | .push q => (fget ({} : Queue) c.q q).refill == some k.pc | _ => false
    if wordY x.1.toNat || !ownsEnd c i w.1 || queueStall k x.2 || held || comeFor c w.1 { k with need := w.2 } then .none else w.1

/-- The mark is on a register that a frame restores: a scalar or an address register of C (R434, R438). -/
def restored (x : SoftAt) : Bool :=
  match x with
  | .s cl _ => cl == clC
  | .a cl _ => cl == clC
  | .l cl _ => cl == clC
  | _ => false

/-- The frame of a trap (R433-R435). -/
def mkFrame (s : State) (c : Core) (t : TrapReq) : Frame :=
  { cause := t.cause, cl := t.cl, flags := rvBits c, info := t.info, addr := t.addr, vpc := (cluAt c t.cl).pc, time := s.ns,
    ctxid := ctxidOf c.task.ctx c.task.sib, coreid := coreidOf s.cur, kctl := c.kctl, window := windowWord c,
    clu := c.clu.map fun k => (k.1, { k.2 with wait := if k.1 = t.cl then k.2.wait else standsFor s c k.1 })
    q := c.q, h := c.h, tackOk := c.tackOk, soft := c.soft.filter restored }

/-- Every cluster's copy of the trap registers takes the values of the trap (R431, R432). -/
def setX (c : Core) (t : TrapReq) (vpc : Addr) (fw cut : Word) : Core :=
  loopN (fun i c =>
    let k := cluAt c i
    putClu c i { k with x := { k.x with cause := BitVec.ofNat 32 t.cause, info := t.info, vpc := vpc.setWidth 32,
                                        addr := t.addr, cutp := cut, frame := fw } }) 4 c

/-- Handler entry at C's XVEC: pending results are in the frame, C's loops are inactive, the other clusters stand still
(R431). -/
def enterHandler (c : Core) (level : Nat) : Core :=
  let c := loopN (fun i c => let k := cluAt c i
    putClu c i { k with pend := [], wait := .none, rvDone := false, closing := false }) 4 c
  let k := cluAt c clC
  let hidx := k.x.vec.toNat % 2 ^ 24
  { putClu c clC { k with loops := k.loops.map fun x => (x.1, { x.2 with active := false }),
                          pc := k.base + BitVec.ofNat 64 (4 * hidx) } with
    level := level, tacked := false, tackOk := true, treq := [], qdead := 0, sleep := none,
    sysc := none }

/-- The firmware core of a die is sent something (R436, R443). -/
def notify (die : Nat) (x : Notice) (s : State) : State := { s with notices := fput s.notices die (fget [] s.notices die ++ [x]) }

/-- The frames of levels 1 to `n` of the core go to the firmware core of its die (R436). -/
def sendFrames (n : Nat) (s : State) : State :=
  loopN (fun i t => notify (dieOf s.cur) (.frame s.cur (i + 1) (fget {} (core s).frames (i + 1))) t) n s

/-- The tile is abandoned: its frames, up to level `n`, go to the firmware core, its core discards it, the context is Suspended with
`reason`, and the node is recorded in CMDPTR[47:32] to run again from task 0 (R436). -/
def abandon (reason n : Nat) (s : State) : State :=
  let s := sendFrames n s
  let k := (core s).task
  let s := suspendCtx s k.ctx reason
  let x := ctxAt s k.ctx
  let s := setCtx s k.ctx { x with
    cmdptr := BitVec.ofNat 64 (x.taken % 2 ^ 32 + k.node % 2 ^ 16 * 2 ^ 32),
    rerun := if x.run.isSome then some (k.node, k.run) else x.rerun
    saved := x.gs }
  let s := { s with runs := lmap (fun r => r.id == k.run) (fun r => { r with tasks := [], stepReq := r.stepReq && x.run.isNone }) s.runs }
  tileOver s s.cur false

/-- Enters the handler at a level; its first words are looked up afresh (R315, R431). -/
def toHandler (s : State) (c : Core) (level : Nat) (t : TrapReq) (vpc : Addr) : State :=
  let s := refreshCode (setCore s (enterHandler { c with walkBad := [], lentOk := [] } level)) s.cur c.task.ctx
  let s := { s with walks := lmap (fun _ => true) (fun w => { w with waiters := w.waiters.filter fun x => x.1 != s.cur }) s.walks }
  traceOut s s.cur 5 t.cl (t.cause + 256 * level + vpc.toNat % 2 ^ 32 * 2 ^ 32)

/-- Takes the trap of the lowest-numbered cluster that raised one (R429, R431, R436). It waits while a die-engine token
of C is on its way; the closing branches that are due act, C's other scoreboarded results land, and issued MMAs complete, first. An
ENGERR that is taken reports its token (R167). -/
def takeTrap (s : State) : State :=
  match (core s).treq with
  | [] => s
  | r :: rs =>
    if !(cluAt (core s) clC).tokPend.isEmpty then s
    else
      let t := rs.foldl (fun a b => if b.cl < a.cl then b else a) r
      let s := closeDue s
      let c := landSb clC (finishMma (core s))
      let c := { c with cmds := lmap (fun x => t.tok == some x.id) (fun x => { x with reported := true }) c.cmds }
      let vpc := (cluAt c t.cl).pc
      let cut := cutBits c
      if c.level = 0 then
        let f := mkFrame s c t
        let fw := frameWord c t.cl 1 false
        let c := setX { c with frames := fput c.frames 1 f, treq := [] } t vpc fw cut
        if (cluAt c clC).x.vec = 0 then abandon 4 1 (setCore s c)
        else toHandler s c 1 t vpc
      else if c.level = 1 && c.tacked then
        let f := mkFrame s c t
        let fw := frameWord c t.cl 2 false
        let c := setX { c with frames := fput c.frames 2 f, treq := [] } t vpc fw cut
        if (cluAt c clC).x.vec = 0 then abandon 4 2 (setCore s c)
        else toHandler s c 2 t vpc
      else
        let k := cluAt c clC
        let c := putClu { c with treq := [] } clC { k with x := { k.x with cause := 0x11, info := BitVec.ofNat 32 t.cause, addr := t.addr } }
        let c := if c.level = 1 then
            { c with frames := fput c.frames 2 { mkFrame s c { t with cause := 0x11, info := BitVec.ofNat 32 t.cause } with cause := 0x11 } }
          else
            let f := fget {} c.frames 2
            { c with frames := fput c.frames 2 { f with nestCause := t.cause, nestInfo := t.info, nestAddr := t.addr } }
        abandon 3 2 (setCore s c)

/-- Raises a trap at the word of the cluster whose turn it is, which reports the token of the command `tok`: the word has no effect
(R429). Inside a rendezvous the trap is taken after it (R73). -/
def raiseTok (tok : Option Nat) (cause : Nat) (info : Word) (addr : Addr) (s : State) : State :=
  let s := onClu (fun k => { k with wait := .none }) s
  let s := onCore (fun c => { c with treq := c.treq ++ [{ cl := s.cl, cause := cause, info := info, addr := addr, tok := tok }] }) s
  if s.view.isSome then s else takeTrap s

/-- Raises a trap that reports no token. -/
def raise (cause : Nat) (info : Word) (addr : Addr) (s : State) : State := raiseTok none cause info addr s

/-- Trap causes of R430. -/
def cILLEGAL : Nat := 0x01
/-- MUSTU. -/
def cMUSTU : Nat := 0x02
/-- LATWIN. -/
def cLATWIN : Nat := 0x03
/-- MEMFAULT. -/
def cMEMFAULT : Nat := 0x04
/-- PROT. -/
def cPROT : Nat := 0x05
/-- VAULTX. -/
def cVAULTX : Nat := 0x06
/-- POISON. -/
def cPOISON : Nat := 0x07
/-- MEMERR. -/
def cMEMERR : Nat := 0x08
/-- SEMOVF. -/
def cSEMOVF : Nat := 0x09
/-- HSOVF. -/
def cHSOVF : Nat := 0x0A
/-- QPROTO. -/
def cQPROTO : Nat := 0x0B
/-- ALIGN. -/
def cALIGN : Nat := 0x0C
/-- TILEDISC. -/
def cTILEDISC : Nat := 0x0D
/-- XLATE. -/
def cXLATE : Nat := 0x0E
/-- SWTRAP. -/
def cSWTRAP : Nat := 0x0F
/-- BREAK. -/
def cBREAK : Nat := 0x10
/-- ENGERR. -/
def cENGERR : Nat := 0x12
/-- QDEAD. -/
def cQDEAD : Nat := 0x13
/-- GROUP. -/
def cGROUP : Nat := 0x14

/-- Raises a trap whose XINFO is the word (R430). -/
def fault (cause : Nat) (addr : Nat) (s : State) : State := raise cause s.word (BitVec.ofNat 64 addr) s

/-- Return from a handler (R276, R438): C's scalars, address registers and loops from the frame, with what is known of their errors
(R471), landing records re-armed but for those that a later result has overtaken (R75), every cluster at its saved PC, the trapping one at C's XVPC, plus 4 after SWTRAP and BREAK; the level drops.
Words of a rendezvous that waited on go on against what the handler left (R437). -/
def trapReturn (s : State) : State :=
  let c := core s
  let f := fget {} c.frames c.level
  let xv := (cluAt c clC).x.vpc
  let fc := fget ({} : Clu) f.clu clC
  let k := cluAt c clC
  let c := { putClu c clC { k with s := fc.s, a := fc.a, l := fc.l, loops := fc.loops, tokHeld := fc.tokHeld } with
    soft := (c.soft.filter fun x => !restored x) ++ f.soft }
  let c := loopN (fun i c =>
    let k := cluAt c i
    let fk := fget ({} : Clu) f.clu i
    let moved := i == f.cl && (xv != fk.pc.setWidth 32 || f.cause == cSWTRAP || f.cause == cBREAK)
    let pc := if i = f.cl then ((fk.pc >>> 32) <<< 32) ||| xv.setWidth 64 else fk.pc
    let pc := if i = f.cl && (f.cause = cSWTRAP || f.cause = cBREAK) then pc + 4 else pc
    putClu c i { k with pend := fk.pend.filter (fun l => !(l.kind == .s && (l.old || f.landed.contains (i, l.reg)))), pc := pc, wait := .none,
                        closing := fk.closing && !moved, rvDone := fk.rvDone && !moved }) 4 c
  let moved := f.cl == clA && xv != (fget ({} : Clu) f.clu clA).pc.setWidth 32
  let c := if moved then { c with q := c.q.map fun x => (x.1, { x.2 with refill := none }) } else c
  let lv := c.level - 1
  let s := { s with groupAt := fdel s.groupAt s.cur }
  let fix := fun (k : Clu) => { k with x := { k.x with frame := BitVec.ofNat 32 (setFld (setFld k.x.frame.toNat 3 2 lv) 4 4 0) } }
  let c := loopN (fun i c => putClu c i (fix (cluAt c i))) 4 { c with level := lv, tacked := false, tackOk := f.tackOk }
  traceOut (refreshCode (setCore s c) s.cur c.task.ctx) s.cur 6 f.cl (((cluAt c f.cl).pc.toNat % 2 ^ 32) * 2 ^ 32)

/-! ### Issue -/

/-- The registers that a word reads, and the scalars that it writes; `lanes` are the lanes that it reads of vector registers and
predicates, and `lv` those of its first vector registers where they are others. -/
structure Use where
  rs : List Nat := []
  ra : List Nat := []
  rl : List Nat := []
  rv : List Nat := []
  rp : List Nat := []
  ws : List Nat := []
  lanes : BitVec 512 := BitVec.allOnes 512
  lv : List (BitVec 512) := []
deriving DecidableEq, Repr, Inhabited

/-- A scoreboarded result is pending for a scalar that the word reads or overwrites (R76). -/
def blocked (k : Clu) (u : Use) : Bool :=
  (u.rs ++ u.ws).any fun r => fhas k.tokPend r || k.sb.any fun x => x.reg == r

/-- The latest producer of a register has a window that is still open for the next word (R77). -/
def openWin (k : Clu) (kd : RegKind) (r : Nat) : Bool :=
  match (k.pend.filter fun l => l.kind == kd && l.reg == r).getLast? with
  | some l => decide (1 < l.remain) && !l.old
  | none => false

/-- The first register that the word reads inside a window, as LATWIN's XADDRL names it (R430). -/
def latwinAt (c : Core) (cl : Nat) (u : Use) : Option Nat :=
  let k := cluAt c cl
  let kv := cluAt c clV
  ((u.rs.find? fun r => openWin k .s r).map fun r => r)
    <|> ((u.ra.find? fun r => openWin k .a r).map fun r => r + 256)
    <|> ((u.rv.find? fun r => openWin kv .v r).map fun r => r + 512)
    <|> ((u.rp.find? fun r => openWin kv .p r).map fun r => r + 768)

/-- The command whose token a scalar holds. -/
def heldCmd (c : Core) (cl r : Nat) : Option Cmd :=
  let k := cluAt c cl
  if fhas k.tokHeld r then c.cmds.find? fun x => x.id == fget 0 k.tokHeld r else none

/-- A token with E = 1 that a word would read and that no ENGERR has reported (R167). -/
def errToken (c : Core) (cl : Nat) (u : Use) : Option Cmd :=
  u.rs.findSome? fun r => (heldCmd c cl r).filter fun x => x.code != 0 && !x.reported

/-- The lanes of vector register `r` whose value for the next word is damaged: a pending result whose window has closed is not (R74,
R471). -/
def struckV (c : Core) (r : Nat) : BitVec 512 :=
  (closedFor (cluAt c clV).pend .v r).foldl (fun b l => b &&& ~~~l.mask)
    (c.soft.foldl (fun b x => match x with | .v v i => if v = r then b ||| (1#512 <<< i) else b | _ => b) 0)
/-- The lanes of predicate `r` whose value for the next word is damaged (R74, R471). -/
def struckP (c : Core) (r : Nat) : BitVec 512 :=
  (closedFor (cluAt c clV).pend .p r).foldl (fun b l => b &&& ~~~l.mask)
    (c.soft.foldl (fun b x => match x with | .p v i => if v = r then b ||| (0xFFFFFFFF#512 <<< (32 * i)) else b | _ => b) 0)

/-- A value that the word reads holds an uncorrectable error: a lane that it does not read cannot fault, and a pending result whose window
has closed is read in the place of the register (R59, R74, R471). -/
def softHit (c : Core) (cl : Nat) (u : Use) : Bool :=
  !c.soft.isEmpty &&
    ((u.rs.any fun r => c.soft.contains (.s cl r) && (closedFor (cluAt c cl).pend .s r).isEmpty)
      || (u.ra.any fun r => c.soft.contains (.a cl r) && (closedFor (cluAt c cl).pend .a r).isEmpty)
      || (u.rl.any fun r => c.soft.contains (.l cl r)) || (u.rv.zipIdx.any fun x => struckV c x.1 &&& u.lv.getD x.2 u.lanes != 0)
      || (u.rp.any fun r => struckP c r &&& u.lanes != 0))

/-- The tokens that the word reads are read (R165). -/
def markRead (u : Use) (s : State) : State :=
  onCore (fun c => { c with cmds := lmap (fun x => u.rs.any fun r =>
      fhas (cluAt c s.cl).tokHeld r && fget 0 (cluAt c s.cl).tokHeld r == x.id) (fun x => { x with read := true }) c.cmds }) s

/-- Issues a word: it stalls on the scoreboard (R76), raises MUSTU (R104), LATWIN (R77) or ENGERR (R167) by what it reads,
does `struck` where a register that it reads holds an uncorrectable error (R471), and otherwise does `body`. -/
def issueSoft (struck : State → State) (u : Use) (mu : Bool) (body : State → State) (s : State) : State :=
  let c := core s
  if blocked (cluAt c s.cl) u then waitOn .score s
  else if mu then fault cMUSTU 0 s
  else match (if latchk (coreSeen s) then latwinAt c s.cl u else none) with
    | some a => fault cLATWIN a s
    | none =>
      match (if errmode (coreSeen s) then none else errToken c s.cl u) with
      | some x => raiseTok (some x.id) cENGERR (BitVec.ofNat 32 x.code) x.addr s
      | none => if softHit c s.cl u then struck (markRead u s) else body (markRead u s)

/-- Issues a word that raises MEMERR before its own faults where it reads a damaged register (R471;
notes/assumptions/6.md). -/
def issue (u : Use) (mu : Bool) (body : State → State) (s : State) : State :=
  issueSoft (fault cMEMERR 0) u mu body s

/-- Issues a word whose own faults come before MEMERR: `body` learns whether a register that it reads is damaged (R209). -/
def issueLate (u : Use) (body : Bool → State → State) (s : State) : State :=
  issueSoft (body true) u false (body false) s

/-- A scalar result is on its way under the scoreboard (R76). -/
def sbWrite (r : Nat) (v : Scalar) (s : State) : State :=
  onClu (fun k => { k with sb := k.sb ++ [{ reg := r, val := v }] }) s

/-- An object, a queue or memory has changed, or work was submitted: TACK is no longer valid in this handler (R437). -/
def counts (s : State) : State := onCore (fun c => { c with tackOk := false }) s

end Sys2Proof.Machine
end

