-- ==== Sys2Proof/Machine/Operands.lean ====
section
/-! DEFINITION. Operand forms that several families share: queue ends, handshake counters, guards, loop levels and the
system registers (spec/03_model.md R59-R71, spec/05_isa_shared.md R130, R138-R140). -/

namespace Sys2Proof.Machine

/-! ### Queues -/

/-- A pop by this cluster is against the queue's declaration (R66). -/
def badPop (x : Queue) (cl : Nat) : Bool := !x.declared || x.cons != cl
/-- A push by this cluster is against the queue's declaration (R66). -/
def badPush (x : Queue) (cl : Nat) : Bool := !x.declared || x.prod != cl

/-- The `n` oldest entries have arrived (R130, R157). -/
def allHere (n : Nat) (x : Queue) : Bool := decide (n ≤ x.ents.length) && (x.ents.take n).all arrived
/-- Pushes entries: the produced sequence number advances (R67). -/
def pushN (x : Queue) (es : List QEnt) : Queue :=
  { x with ents := x.ents ++ es, pseq := x.pseq + BitVec.ofNat 32 es.length }

/-- One of the `n` oldest entries of a queue holds an uncorrectable error (R471). -/
def struck (s : State) (q n : Nat) : Bool :=
  (core s).soft.any fun x => match x with
    | .q m i => m == q && decide ((BitVec.ofNat 32 i - (queueAt s q).cseq).toNat < n)
    | _ => false
/-- Reads the `n` oldest entries of a queue, or raises MEMERR (R430, R471). -/
def unstruck (q n : Nat) (body : State → State) (s : State) : State := if struck s q n then fault cMEMERR 0 s else body s

/-- Raises QPROTO with the queue's number (R430). -/
def qproto (q : Nat) (s : State) : State := fault cQPROTO q s

/-! ### Handshake counters -/

/-- The source cluster of hN (R70). -/
def hSrc (h : Nat) : Nat := h / 3
/-- The destination cluster of hN (R70). -/
def hDst (h : Nat) : Nat := if h % 3 < h / 3 then h % 3 else h % 3 + 1

/-- Counter hN. -/
def hAt (s : State) (h : Nat) : HCnt := fget {} (core s).h h
/-- Counter hN as a word sees it (R137). -/
def hSeen (s : State) (h : Nat) : HCnt := fget {} (coreSeen s).h h
/-- Queue qN as QSTAT sees it. -/
def qSeen (s : State) (q : Nat) : Queue := fget {} (coreSeen s).q q
/-- Adds a signal to counter hN, with what its source knows: the queue loads of A before its signal have read their bytes (R71, R72). -/
def signalH (s : State) (h : Nat) : State :=
  onCore (fun c => let x := fget ({} : HCnt) c.h h
    { c with h := fput c.h h { x with val := x.val + 1, tags := x.tags ++ [knows c (hSrc h)] },
             late := if hSrc h = clA then [] else c.late }) s
/-- Takes the oldest signal of counter hN; its destination learns what the source knew (R71, R72). -/
def takeH (s : State) (h : Nat) : State :=
  onCore (fun c => let x := fget ({} : HCnt) c.h h
    learn (hDst h) (if x.tags.length < x.val then 0 else x.tags.headD 0) { c with h := fput c.h h { x with val := x.val - 1, tags := x.tags.drop (x.tags.length + 1 - x.val) } }) s

/-! ### Guards -/

/-- A result for physical predicate `r`: one for p0 is discarded, so that none is on its way (R56). -/
def pLand (n r : Nat) (v mask : BitVec 512) : List Land := if r = 0 then [] else [landP n r v mask]

/-- The guard lanes g[L] = p[pg][L] xor pn (R182). -/
def guardBits (s : State) (pg : Nat) (pn : Bool) : BitVec 512 :=
  let p := readP (core s) pg
  if pn then ~~~p else p

/-- The physical vector register that a V word names (R60). -/
def vreg (s : State) (n : Nat) : Nat := physV (core s).rotb n
/-- The physical predicate that a V word names (R60). -/
def preg (s : State) (n : Nat) : Nat := physP (core s).rotb n

/-- Issues a guarded V word: a slot whose guard is false issues and does nothing, and a fault arises only from a lane whose guard is true
(R59, R108). -/
def vIssue (pg : Nat) (pn : Bool) (u : Use) (body : BitVec 512 → State → State) (s : State) : State :=
  let g := guardBits s pg pn
  if g = 0 then retire [] s
  else issue { u with rp := pg :: u.rp, lanes := g } false (body g) s

/-! ### Loops -/

/-- Some active level is at or above `n` (R62, R122). -/
def levelBusy (k : Clu) (n : Nat) : Bool := k.loops.any fun x => x.2.active && decide (n ≤ x.1)
/-- Some active level's body ends before `last` (R122). -/
def levelShort (k : Clu) (last : Addr) : Bool := k.loops.any fun x => x.2.active && decide (x.2.last < last)

/-- LSTAT (R64). -/
def lstatOf (k : Clu) : Word :=
  BitVec.ofNat 32 ((List.range 4).foldl (fun n i =>
    let l := loopAt k i
    n + b2n l.active + b2n (l.active && l.rot) * 2 ^ (3 + i) + b2n (l.active && l.stream) * 2 ^ (7 + i)) 0)

/-! ### System registers -/

/-- The OPPT word (R467). -/
def opptOf (p : Power) : Word := BitVec.ofNat 32 (p.point + p.target * 8 + b2n p.pend * 64)

/-- The empty table: its header with COUNT 0, and a signature of zeros (R319). That its VERSION is 0 is the model's choice
(notes/assumptions/32.md). -/
def emptyTable : List Byte := leBytes 4 0x42555354 ++ List.replicate 156 0

/-- The installed table; before any table was installed it is the empty one (R319). -/
def tableImage (s : State) : List Byte := if s.table.isEmpty then emptyTable else s.table

/-- PATCHH: bytes 0-3 of the SHA-384 of the installed table (R321). -/
def patchhOf (s : State) : Word := BitVec.ofNat 32 (leNat ((sha384 (tableImage s)).take 4))

/-- What SREAD of a register returns to the executing cluster (R138); ROTB only on V (R61). -/
def sysRead (s : State) (r : SysReg) : Option Word :=
  let c := core s
  let k := clu s
  match r with
  | .verid => some 0x0200
  | .patchh => some (patchhOf s)
  | .kctl => some (coreSeen s).kctl
  | .ctxid => some (ctxidOf c.task.ctx c.task.sib)
  | .coreid => some (coreidOf s.cur)
  | .oppt => some (opptOf s.power)
  | .xcause => some k.x.cause
  | .xinfo => some k.x.info
  | .xvpc => some k.x.vpc
  | .xaddrl => some (k.x.addr.setWidth 32)
  | .xaddrh => some ((k.x.addr >>> 32).setWidth 32)
  | .xcutp => some k.x.cutp
  | .xframe => some k.x.frame
  | .xvec => some k.x.vec
  | .rotb => if s.cl = clV then some (c.rotb.setWidth 32) else none
  | .lstat => some (lstatOf k)
  | .trctl => some (coreSeen s).trctl

/-- What SWRITE of a register does, or nothing where it raises PROT (R138, R139, R432, R445). The other clusters read a
core-scope register's new value from the next step on, which R140 allows (notes/assumptions/46.md). -/
def sysWrite (s : State) (r : SysReg) (v : Word) : Option State :=
  match r with
  | .kctl => if v.getLsbD 2 = errmode (core s) || 512 ≤ s.cur then some (onCore (fun c => { c with kctl := v &&& 0x1F }) s) else none
  | .xvpc => some (onClu (fun k => { k with x := { k.x with vpc := v } }) s)
  | .xvec => some (onClu (fun k => { k with x := { k.x with vec := v &&& 0xFFFFFF } }) s)
  | .rotb => if s.cl = clV then some (onCore (fun c => { c with rotb := v.setWidth 5 }) s) else none
  | .trctl => some (onCore (fun c => { c with trctl := v &&& 0x3FF }) s)
  | _ => none

end Sys2Proof.Machine
end

