-- ==== Sys2Proof/Machine/Shared.lean ====
section
/-! DEFINITION. The shared control instructions (spec/05_isa_shared.md R111-R145): one meaning per instruction. -/

namespace Sys2Proof.Machine

/-- NOP changes no state and counts as an issued word (R145). -/
def execNop (s : State) : Host.Outcome State Fault Refusal := .next (retire [] s)

/-- A word `op sD, sA, sB` with latency `n` (R111, R112). -/
def alu3 (n : Nat) (f : Word → Word → Word) (d a b : Nat) (s : State) : State :=
  issue { rs := [a, b], ws := [d] } false (fun s =>
    let x := readS (clu s) a
    let y := readS (clu s) b
    retire [landS n d { val := f x.val y.val, pois := x.pois || y.pois }] s) s

/-- A word `op sD, sA` or `op sD, sA, imm` (R111, R112). -/
def alu2 (f : Word → Word) (d a : Nat) (s : State) : State :=
  issue { rs := [a], ws := [d] } false (fun s =>
    let x := readS (clu s) a
    retire [landS 1 d { val := f x.val, pois := x.pois }] s) s

/-- A truth value as a scalar. -/
def bword (b : Bool) : Word := if b then 1 else 0

/-- The shift amount b[4:0] (R113). -/
def shAmt (b : Word) : Nat := b.toNat % 32

/-- The number of leading zero bits, 0-32 (R113). -/
def clzW (a : Word) : Word := if a = 0 then 32 else BitVec.ofNat 32 (31 - Nat.log2 a.toNat)

/-- ADD (R113). -/
def execAdd (d a b : Nat) (s : State) : Host.Outcome State Fault Refusal := .next (alu3 1 (fun x y => x + y) d a b s)
/-- SUB (R113). -/
def execSub (d a b : Nat) (s : State) : Host.Outcome State Fault Refusal := .next (alu3 1 (fun x y => x - y) d a b s)
/-- AND (R113). -/
def execAnd (d a b : Nat) (s : State) : Host.Outcome State Fault Refusal := .next (alu3 1 (fun x y => x &&& y) d a b s)
/-- OR (R113). -/
def execOr (d a b : Nat) (s : State) : Host.Outcome State Fault Refusal := .next (alu3 1 (fun x y => x ||| y) d a b s)
/-- XOR (R113). -/
def execXor (d a b : Nat) (s : State) : Host.Outcome State Fault Refusal := .next (alu3 1 (fun x y => x ^^^ y) d a b s)
/-- ANDN (R113). -/
def execAndn (d a b : Nat) (s : State) : Host.Outcome State Fault Refusal := .next (alu3 1 (fun x y => x &&& ~~~y) d a b s)
/-- SHL (R113). -/
def execShl (d a b : Nat) (s : State) : Host.Outcome State Fault Refusal := .next (alu3 1 (fun x y => x <<< shAmt y) d a b s)
/-- SHR (R113). -/
def execShr (d a b : Nat) (s : State) : Host.Outcome State Fault Refusal := .next (alu3 1 (fun x y => x >>> shAmt y) d a b s)
/-- SAR (R113). -/
def execSar (d a b : Nat) (s : State) : Host.Outcome State Fault Refusal := .next (alu3 1 (fun x y => x.sshiftRight (shAmt y)) d a b s)
/-- ROL (R113). -/
def execRol (d a b : Nat) (s : State) : Host.Outcome State Fault Refusal := .next (alu3 1 (fun x y => x.rotateLeft (shAmt y)) d a b s)
/-- MIN (R113). -/
def execMin (d a b : Nat) (s : State) : Host.Outcome State Fault Refusal := .next (alu3 1 (fun x y => if x.slt y then x else y) d a b s)
/-- MAX (R113). -/
def execMax (d a b : Nat) (s : State) : Host.Outcome State Fault Refusal := .next (alu3 1 (fun x y => if x.slt y then y else x) d a b s)
/-- MINU (R113). -/
def execMinu (d a b : Nat) (s : State) : Host.Outcome State Fault Refusal := .next (alu3 1 (fun x y => if x.ult y then x else y) d a b s)
/-- MAXU (R113). -/
def execMaxu (d a b : Nat) (s : State) : Host.Outcome State Fault Refusal := .next (alu3 1 (fun x y => if x.ult y then y else x) d a b s)
/-- SEQ (R113). -/
def execSeq (d a b : Nat) (s : State) : Host.Outcome State Fault Refusal := .next (alu3 1 (fun x y => bword (x == y)) d a b s)
/-- SLT (R113). -/
def execSlt (d a b : Nat) (s : State) : Host.Outcome State Fault Refusal := .next (alu3 1 (fun x y => bword (x.slt y)) d a b s)
/-- SLTU (R113). -/
def execSltu (d a b : Nat) (s : State) : Host.Outcome State Fault Refusal := .next (alu3 1 (fun x y => bword (x.ult y)) d a b s)
/-- CLZ (R113). -/
def execClz (d a : Nat) (s : State) : Host.Outcome State Fault Refusal := .next (alu2 clzW d a s)
/-- POPC (R113). -/
def execPopc (d a : Nat) (s : State) : Host.Outcome State Fault Refusal := .next (alu2 (fun x => BitVec.ofNat 32 (popN x.toNat 32)) d a s)

/-- SEL: a if the old sD is nonzero, else b; sD is a source (R112, R113). -/
def execSel (d a b : Nat) (s : State) : Host.Outcome State Fault Refusal :=
  .next (issue { rs := [a, b, d], ws := [d] } false (fun s =>
    let x := readS (clu s) a
    let y := readS (clu s) b
    let z := readS (clu s) d
    retire [landS 1 d { val := if z.val = 0 then y.val else x.val, pois := x.pois || y.pois || z.pois }] s) s)

/-- The signed quotient of R114. -/
def divW (a b : Word) : Word :=
  if b = 0 then 0xFFFFFFFF else if a = 0x80000000 && b = 0xFFFFFFFF then 0x80000000 else BitVec.ofInt 32 (a.toInt.tdiv b.toInt)
/-- The signed remainder of R114. -/
def remW (a b : Word) : Word :=
  if b = 0 then a else if a = 0x80000000 && b = 0xFFFFFFFF then 0 else BitVec.ofInt 32 (a.toInt.tmod b.toInt)

/-- MUL (R114). -/
def execMul (d a b : Nat) (s : State) : Host.Outcome State Fault Refusal := .next (alu3 3 (fun x y => x * y) d a b s)
/-- MULH (R114). -/
def execMulh (d a b : Nat) (s : State) : Host.Outcome State Fault Refusal :=
  .next (alu3 3 (fun x y => BitVec.ofInt 32 (x.toInt * y.toInt / 2 ^ 32)) d a b s)
/-- MULHU (R114). -/
def execMulhu (d a b : Nat) (s : State) : Host.Outcome State Fault Refusal :=
  .next (alu3 3 (fun x y => BitVec.ofNat 32 (x.toNat * y.toNat / 2 ^ 32)) d a b s)
/-- DIV (R114). -/
def execDiv (d a b : Nat) (s : State) : Host.Outcome State Fault Refusal := .next (alu3 12 divW d a b s)
/-- DIVU (R114). -/
def execDivu (d a b : Nat) (s : State) : Host.Outcome State Fault Refusal :=
  .next (alu3 12 (fun x y => if y = 0 then 0xFFFFFFFF else BitVec.ofNat 32 (x.toNat / y.toNat)) d a b s)
/-- REM (R114). -/
def execRem (d a b : Nat) (s : State) : Host.Outcome State Fault Refusal := .next (alu3 12 remW d a b s)
/-- REMU (R114). -/
def execRemu (d a b : Nat) (s : State) : Host.Outcome State Fault Refusal :=
  .next (alu3 12 (fun x y => if y = 0 then x else BitVec.ofNat 32 (x.toNat % y.toNat)) d a b s)

/-- sext of a 14-bit field (R115). -/
def sext14 (imm : Nat) : Word := BitVec.ofInt 32 (sgn 14 imm)
/-- zext of a 14-bit field (R115). -/
def zext14 (imm : Nat) : Word := BitVec.ofNat 32 (imm % 2 ^ 14)

/-- ADDI (R115). -/
def execAddi (d a imm : Nat) (s : State) : Host.Outcome State Fault Refusal := .next (alu2 (fun x => x + sext14 imm) d a s)
/-- ANDI (R115). -/
def execAndi (d a imm : Nat) (s : State) : Host.Outcome State Fault Refusal := .next (alu2 (fun x => x &&& zext14 imm) d a s)
/-- ORI (R115). -/
def execOri (d a imm : Nat) (s : State) : Host.Outcome State Fault Refusal := .next (alu2 (fun x => x ||| zext14 imm) d a s)
/-- XORI (R115). -/
def execXori (d a imm : Nat) (s : State) : Host.Outcome State Fault Refusal := .next (alu2 (fun x => x ^^^ zext14 imm) d a s)
/-- SHLI (R115). -/
def execShli (d a imm : Nat) (s : State) : Host.Outcome State Fault Refusal := .next (alu2 (fun x => x <<< (imm % 32)) d a s)
/-- SHRI (R115). -/
def execShri (d a imm : Nat) (s : State) : Host.Outcome State Fault Refusal := .next (alu2 (fun x => x >>> (imm % 32)) d a s)
/-- SARI (R115). -/
def execSari (d a imm : Nat) (s : State) : Host.Outcome State Fault Refusal := .next (alu2 (fun x => x.sshiftRight (imm % 32)) d a s)
/-- SLTI (R115). -/
def execSlti (d a imm : Nat) (s : State) : Host.Outcome State Fault Refusal := .next (alu2 (fun x => bword (x.slt (sext14 imm))) d a s)
/-- SLTIU (R115). -/
def execSltiu (d a imm : Nat) (s : State) : Host.Outcome State Fault Refusal := .next (alu2 (fun x => bword (x.ult (sext14 imm))) d a s)

/-- A word that writes an unpoisoned scalar and reads nothing scoreboarded. -/
def setS (d : Nat) (v : State → Word) (u : Use) (s : State) : State :=
  issue { u with ws := [d] } false (fun s => retire [landS 1 d { val := v s }] s) s

/-- LUI (R116). -/
def execLui (d imm : Nat) (s : State) : Host.Outcome State Fault Refusal :=
  .next (setS d (fun _ => BitVec.ofNat 32 (imm % 2 ^ 18 * 2 ^ 14)) {} s)
/-- AGET (R117). -/
def execAget (d a : Nat) (hi : Bool) (s : State) : Host.Outcome State Fault Refusal :=
  .next (setS d (fun s => if hi then (readA (clu s) a >>> 32).setWidth 32 else (readA (clu s) a).setWidth 32) { ra := [a] } s)

/-- An F-AR word that reads a scalar: POISON if it is poisoned (R112, R118). -/
def aluAS (f : Addr → Word → Addr) (ad aa sb : Nat) (s : State) : State :=
  issue { rs := [sb], ra := [aa] } false (fun s =>
    let x := readS (clu s) sb
    if x.pois then fault cPOISON 0 s else retire [landA ad (f (readA (clu s) aa) x.val)] s) s

/-- AADD (R118). -/
def execAadd (ad aa sb sh : Nat) (s : State) : Host.Outcome State Fault Refusal :=
  .next (aluAS (fun x y => x + (y.signExtend 64 <<< (sh % 8))) ad aa sb s)
/-- AADDI (R118). -/
def execAaddi (ad aa imm : Nat) (s : State) : Host.Outcome State Fault Refusal :=
  .next (issue { ra := [aa] } false (fun s => retire [landA ad (addrAdd (readA (clu s) aa) (sgn 16 imm))] s) s)
/-- ASET (R118). -/
def execAset (ad aa sb : Nat) (s : State) : Host.Outcome State Fault Refusal :=
  .next (aluAS (fun x y => ((x >>> 32) <<< 32) ||| y.setWidth 64) ad aa sb s)
/-- ALUI (R118). -/
def execAlui (ad aa imm : Nat) (s : State) : Host.Outcome State Fault Refusal :=
  .next (issue { ra := [aa] } false (fun s =>
    retire [landA ad ((BitVec.ofNat 64 (imm % 2 ^ 16) <<< 32) ||| ((readA (clu s) aa).setWidth 32).setWidth 64)] s) s)
/-- ASUB (R118). -/
def execAsub (ad aa sb sh : Nat) (s : State) : Host.Outcome State Fault Refusal :=
  .next (aluAS (fun x y => x - (y.signExtend 64 <<< (sh % 8))) ad aa sb s)

/-- The target pc + 4 × sext(off) of a field of `n` bits (R89). -/
def target (n off : Nat) (pc : Addr) : Addr := addrAdd pc (4 * sgn n off)

/-- A compare-and-branch word (R119): POISON on a poisoned operand, taken or not (R112). -/
def branch (f : Word → Word → Bool) (a b off : Nat) (s : State) : State :=
  issue { rs := [a, b] } false (fun s =>
    let x := readS (clu s) a
    let y := readS (clu s) b
    if x.pois || y.pois then fault cPOISON 0 s
    else if f x.val y.val then branchTo (target 14 off (clu s).pc) [] s else retire [] s) s

/-- BEQ (R119). -/
def execBeq (a b off : Nat) (s : State) : Host.Outcome State Fault Refusal := .next (branch (fun x y => x == y) a b off s)
/-- BNE (R119). -/
def execBne (a b off : Nat) (s : State) : Host.Outcome State Fault Refusal := .next (branch (fun x y => x != y) a b off s)
/-- BLT (R119). -/
def execBlt (a b off : Nat) (s : State) : Host.Outcome State Fault Refusal := .next (branch (fun x y => x.slt y) a b off s)
/-- BGE (R119). -/
def execBge (a b off : Nat) (s : State) : Host.Outcome State Fault Refusal := .next (branch (fun x y => !x.slt y) a b off s)
/-- BLTU (R119). -/
def execBltu (a b off : Nat) (s : State) : Host.Outcome State Fault Refusal := .next (branch (fun x y => x.ult y) a b off s)
/-- BGEU (R119). -/
def execBgeu (a b off : Nat) (s : State) : Host.Outcome State Fault Refusal := .next (branch (fun x y => !x.ult y) a b off s)

/-- JMP (R120). -/
def execJmp (off : Nat) (s : State) : Host.Outcome State Fault Refusal :=
  .next (issue {} false (fun s => branchTo (target 24 off (clu s).pc) [] s) s)
/-- CALL: the link is a15 (R120). -/
def execCall (off : Nat) (s : State) : Host.Outcome State Fault Refusal :=
  .next (issue {} false (fun s => branchTo (target 24 off (clu s).pc) [landA 15 ((clu s).pc + 4)] s) s)
/-- JR: a target off a word boundary raises ALIGN (R120, R121). -/
def execJr (a imm : Nat) (s : State) : Host.Outcome State Fault Refusal :=
  .next (issue { ra := [a] } false (fun s =>
    let t := target 16 imm (readA (clu s) a)
    if t.toNat % 4 = 0 then branchTo t [] s else fault cALIGN t.toNat s) s)

/-! ### Loops (R122-R127) -/

/-- The loop opens at level `n` with the body that starts at the next word, or is skipped when `skip` holds (R122,
R123). -/
def openLoop (n len : Nat) (l : Loop) (skip : Bool) (s : State) : State :=
  let s := onCore (fun c => { c with soft := c.soft.filter fun x => x != .l s.cl n }) (commitWord [] s)
  onClu (fun k =>
    let last := k.pc + BitVec.ofNat 64 (4 * len)
    let k := { k with l := fput k.l n 0 }
    if skip then passWord last k
    else { k with loops := fput k.loops n { l with active := true, start := k.pc + 4, last := last },
                  pc := k.pc + 4, closing := false, wait := .none, rvDone := false }) s

/-- The checks that LOOP and LOOPQ share (R122). -/
def loopIllegal (n len : Nat) (k : Clu) : Bool :=
  len == 0 || levelBusy k n || levelShort k (k.pc + BitVec.ofNat 64 (4 * len))

/-- LOOP with a count in a scalar (R122). -/
def execLoop (lvl src len : Nat) (rot : Bool) (s : State) : Host.Outcome State Fault Refusal :=
  .next (issue { rs := [src] } false (fun s =>
    let x := readS (clu s) src
    if loopIllegal lvl len (clu s) then fault cILLEGAL 0 s
    else if x.pois then fault cPOISON 0 s
    else openLoop lvl len { count := x.val.toNat, rot := rot } (x.val == 0) s) s)

/-- LOOP with an immediate count (R122). -/
def execLoopImm (lvl n len : Nat) (rot : Bool) (s : State) : Host.Outcome State Fault Refusal :=
  .next (issue {} false (fun s =>
    if loopIllegal lvl len (clu s) then fault cILLEGAL 0 s
    else openLoop lvl len { count := n, rot := rot } (n == 0) s) s)

/-- LOOPQ: a marker at the head is popped and the body is skipped (R123). -/
def execLoopq (lvl q len : Nat) (rot : Bool) (s : State) : Host.Outcome State Fault Refusal :=
  .next (issue {} false (fun s =>
    let x := queueAt s q
    if badPop x s.cl then qproto q s
    else if loopIllegal lvl len (clu s) then fault cILLEGAL 0 s
    else if headMissing x then waitOn (.pop q) s
    else if headMarker x then openLoop lvl len {} true (setQueue s q (popN_ x 1))
    else openLoop lvl len { rot := rot, stream := true, queue := q } false s) s)

/-- LBRK (R126). -/
def execLbrk (lvl a : Nat) (s : State) : Host.Outcome State Fault Refusal :=
  .next (issue { rs := [a] } false (fun s =>
    let x := readS (clu s) a
    if !(loopAt (clu s) lvl).active then fault cILLEGAL 0 s
    else if x.pois then fault cPOISON 0 s
    else if x.val = 0 then retire [] s
    else
      let from_ := (clu s).pc
      let last := (loopAt (clu s) lvl).last
      let s := onClu (fun k => passWord last { k with
        loops := k.loops.map fun y => if lvl ≤ y.1 then (y.1, { y.2 with active := false }) else y }) (commitWord [] s)
      traceOut s s.cur 2 s.cl (from_.toNat % 2 ^ 32 + (last + 4).toNat % 2 ^ 32 * 2 ^ 32)) s)

/-- LROT: sets ROTB on V; elsewhere no effect (R127). -/
def execLrot (imm : Nat) (s : State) : Host.Outcome State Fault Refusal :=
  .next (issue {} false (fun s =>
    if s.cl = clV then onCore (fun c => { c with rotb := BitVec.ofNat 5 imm }) (retire [] s) else retire [] s) s)

/-- CLOSING_BRANCH (R124): not an issued word (R63). A wait on a queue that it ends starts the deadlock count again (R335). -/
def execClosingBranch (s : State) : Host.Outcome State Fault Refusal :=
  let t := closeAll 4 (onClu (fun k => { k with wait := .none }) s)
  .next (if (clu t).wait = .none then onCore (fun c => { c with qdead := 0 }) t else t)

/-- A LOOP word of kind 10 or 11, or a LOOPQ word of another kind, raises ILLEGAL when executed; a LOOPQ checks its queue
first (R112, R122, R123). -/
def execLoopIllegalKind (s : State) : Host.Outcome State Fault Refusal :=
  .next (issue {} false (fun s =>
    let q := fld s.word.toNat 17 14
    if fld s.word.toNat 29 24 = 0x22 && badPop (queueAt s q) s.cl then qproto q s else fault cILLEGAL 0 s) s)

/-! ### Outcome queues (R65, R128, R129) -/

/-- BQPUSH (R65, R128). Where the first pushes of two clusters to one target issue in one rendezvous, the lower-numbered
cluster is the producer and the other raises QPROTO: the choice is the model's (notes/assumptions/46.md). -/
def execBqpush (tgt a : Nat) (s : State) : Host.Outcome State Fault Refusal :=
  .next (issue { rs := [a] } false (fun s =>
    let t := cluAt (core s) tgt
    let x := readS (clu s) a
    if !t.active || (t.outProd.any fun p => p != s.cl) then fault cQPROTO tgt s
    else if x.pois then fault cPOISON 0 s
    else if 32 ≤ t.outq.length then waitFor 0 (.outq tgt) s
    else retire [] (onCore (fun c => putClu c tgt { cluAt c tgt with
      outq := (cluAt c tgt).outq ++ [x.val != 0], outProd := some s.cl }) s)) s)

/-- The marks of the outcome queue of cluster `cl` after its oldest entry has gone (R471). -/
def outPopped (cl : Nat) (l : List SoftAt) : List SoftAt :=
  (l.filter fun x => x != .out cl 0).map fun x => match x with
    | .out k (i + 1) => if k = cl then .out k i else .out k (i + 1)
    | y => y

/-- BQBR (R129). -/
def execBqbr (off : Nat) (s : State) : Host.Outcome State Fault Refusal :=
  .next (issue {} false (fun s =>
    match (clu s).outq with
    | [] => waitOn (.outq s.cl) s
    | b :: r =>
      if (core s).soft.contains (.out s.cl 0) then fault cMEMERR 0 s else
      let s := onClu (fun k => { k with outq := r }) (onCore (fun c => { c with soft := outPopped s.cl c.soft }) s)
      if b then branchTo (target 24 off (clu s).pc) [] s else retire [] s) s)

/-! ### Scalar queue operations (R130-R135) -/

/-- QPUT: the word carries its poison into the queue (R131). -/
def execQput (q a : Nat) (s : State) : Host.Outcome State Fault Refusal :=
  .next (issue { rs := [a] } false (fun s =>
    let x := queueAt s q
    if badPush x s.cl || x.kind != .word then qproto q s
    else if x.depth ≤ x.ents.length then waitOn (.push q) s
    else retire [] (setQueue s q (pushN x [.elem (.word (readS (clu s) a))]))) s)

/-- QGET (R132). -/
def execQget (d q : Nat) (s : State) : Host.Outcome State Fault Refusal :=
  .next (issue { ws := [d] } false (fun s =>
    let x := queueAt s q
    if badPop x s.cl || x.kind != .word || headMarker x then qproto q s
    else match x.ents with
      | .elem (.word v) :: _ => unstruck q 1 (fun s => retire [] (sbWrite d v (setQueue s q (popN_ x 1)))) s
      | _ => waitOn (.pop q) s) s)

/-- The entries that QDROP can pop now: up to and including a marker, or up to a hole or the end; and whether the marker
was reached (R134). -/
def dropRun : List QEnt → Nat × Bool
  | [] => (0, false)
  | .marker :: _ => (1, true)
  | .hole _ :: _ => (0, false)
  | .elem _ :: r => let (n, b) := dropRun r; (n + 1, b)

/-- QDROP (R134). At Y = 1 it counts as free to issue only once the marker has arrived, which is then what it waits for, and pops nothing
before the rendezvous (notes/assumptions/46.md). -/
def execQdrop (q : Nat) (s : State) : Host.Outcome State Fault Refusal :=
  .next (issue {} false (fun s =>
    let x := queueAt s q
    if badPop x s.cl then qproto q s
    else
      let (n, done) := dropRun x.ents
      let s := setQueue s q (popN_ x n)
      if done then retire [] s else waitFor (b2n s.view.isNone) (.pop q) s) s)

/-- QMARK (R133). -/
def execQmark (q : Nat) (s : State) : Host.Outcome State Fault Refusal :=
  .next (issue {} false (fun s =>
    let x := queueAt s q
    if badPush x s.cl then qproto q s
    else if x.depth ≤ x.ents.length then waitOn (.push q) s
    else retire [] (setQueue s q (pushN x [.marker]))) s)

/-- QSTAT (R135). -/
def execQstat (d q item : Nat) (s : State) : Host.Outcome State Fault Refusal :=
  .next (issue { ws := [d] } false (fun s =>
    let x := qSeen s q
    if !(queueAt s q).declared then qproto q s
    else retire [landS 1 d { val := match item with
      | 0 => BitVec.ofNat 32 x.depth | 1 => BitVec.ofNat 32 x.ents.length | 2 => x.pseq | _ => x.cseq }] s) s)

/-! ### Handshakes (R136, R137) -/

/-- HSIG (R136). -/
def execHsig (h : Nat) (s : State) : Host.Outcome State Fault Refusal :=
  .next (issue {} false (fun s =>
    let x := hSeen s h
    if s.cl ≠ hSrc h then fault cQPROTO h s
    else if x.ceil < x.val + 1 then fault cHSOVF (h + x.val * 16 + x.ceil * 256) s
    else retire [] (signalH s h)) s)

/-- HWAIT (R136). -/
def execHwait (h : Nat) (s : State) : Host.Outcome State Fault Refusal :=
  .next (issue {} false (fun s =>
    if s.cl ≠ hDst h then fault cQPROTO h s
    else if (hSeen s h).val = 0 then waitOn (.hs h) s
    else retire [] (takeH s h)) s)

/-- HTRY (R136). -/
def execHtry (d h : Nat) (s : State) : Host.Outcome State Fault Refusal :=
  .next (issue { ws := [d] } false (fun s =>
    if s.cl ≠ hDst h then fault cQPROTO h s
    else if (hSeen s h).val = 0 then retire [landS 1 d { val := 0 }] s
    else retire [landS 1 d { val := 1 }] (takeH s h)) s)

/-! ### System registers, fences, time, traps -/

/-- SREAD (R138). -/
def execSread (d : Nat) (r : SysReg) (s : State) : Host.Outcome State Fault Refusal :=
  .next (issue { ws := [d] } false (fun s =>
    match sysRead s r with
    | some v => retire [landS 1 d { val := v }] s
    | none => fault cPROT 0 s) s)

/-- SWRITE: POISON before PROT (R112, R138, R139). -/
def execSwrite (a : Nat) (r : SysReg) (s : State) : Host.Outcome State Fault Refusal :=
  .next (issue { rs := [a] } false (fun s =>
    let x := readS (clu s) a
    if x.pois then fault cPOISON 0 s
    else match sysWrite s r x.val with
      | some t => retire [] t
      | none => fault cPROT 0 s) s)

/-- A fence of a core at a scope: with the store class at bench scope or wider its weak stores that no held set lists are
written back; beyond the core its clean C copies are dropped, so that later loads follow it (R141, R406, R408). -/
def fenceMem (sc : Scope) (st : Bool) (n : Nat) (s : State) : State :=
  match sc with
  | .cl => s
  | .core => s
  | _ =>
    let s := if st then writeUnheld (fun _ => true) n s else s
    dropClean (fun x => !x.kindU) n s

/-- FENCE: with the load class, the queue loads before it have read their bytes. One of V or M orders what those clusters come after, by
queue, handshake or rendezvous (R141, R142, R413). -/
def execFence (sc : Scope) (l st code : Bool) (s : State) : Host.Outcome State Fault Refusal :=
  .next (issue {} false (fun s =>
    let s := if l then onCore (fun c => { c with late := [] }) s else s
    let s := fenceMem sc st s.cur s
    let s := if code then fenceCode s s.cur (core s).task.ctx else s
    retire [] s) s)

/-- TICK: the package time counter (R143). -/
def execTick (d : Nat) (hi : Bool) (s : State) : Host.Outcome State Fault Refusal :=
  .next (setS d (fun s => if hi then BitVec.ofNat 32 (s.ns / 2 ^ 32) else BitVec.ofNat 32 s.ns) {} s)

/-- TRAP raises SWTRAP with XINFO := imm (R144). -/
def execTrap (imm : Nat) (s : State) : Host.Outcome State Fault Refusal :=
  .next (raise cSWTRAP (BitVec.ofNat 32 (imm % 2 ^ 19)) 0 s)
/-- BRK raises BREAK with XINFO := imm (R144). -/
def execBrk (imm : Nat) (s : State) : Host.Outcome State Fault Refusal :=
  .next (raise cBREAK (BitVec.ofNat 32 (imm % 2 ^ 19)) 0 s)

/-- TRAP_STUB: a reserved encoding raises ILLEGAL with XINFO := the word (R106). -/
def execTrapStub (s : State) : Host.Outcome State Fault Refusal := .next (fault cILLEGAL 0 s)

/-- XLATE_STUB: a word that could not be read raises XLATE with the reason, at its virtual PC, and its entry becomes
Stale (R316). The reason stands where a word would. -/
def execXlateStub (s : State) : Host.Outcome State Fault Refusal :=
  let k := clu s
  .next (raise cXLATE (s.word &&& 0xFF) k.pc (staleCode s (core s).task.ctx (dieOf s.cur) k.base))

end Sys2Proof.Machine
end

