-- ==== Sys2Proof/Machine/Submit.lean ====
section
/-! DEFINITION. Deliveries to queue register blocks, completion records, engine commands issued by words, and how a
command ends (spec/12_queue.md R322-R332, spec/06_isa_access.md R162-R167, spec/13_barrier.md R339-R344). -/

namespace Sys2Proof.Machine

/-- The completion ring holds 2^(CPLSZ + 4) records that CPLACK has not acknowledged (R328). -/
def ringFull (b : Block) : Bool :=
  b.cplbase != 0 && decide (2 ^ (b.cplsz % 16 + 4) ≤ (BitVec.ofNat 32 b.written - b.cplack).toNat)

/-- A context queue whose context is on its way to another device, which takes the queue along (R293, R421). -/
def blockMoving (s : State) (n : Nat) : Bool :=
  decide (132 ≤ n) && decide (n < 1156) && (ctxAt s (n - 132)).st == .migrating

/-- A go or a delivery to the block finds no room (R328). -/
def blockFull (s : State) (n : Nat) : Bool :=
  decide (blockDepth n ≤ occOf (blockAt s n)) || ringFull (blockAt s n) || blockMoving s n

/-- An MSI-X message of host command queue `n`, after its record (R460). -/
def msixOut (s : State) (n : Nat) : State :=
  if 1156 ≤ n && n < 1160 then { s with msix := s.msix ++ [4 * (s.device % 64) + (n - 1156)] } else s

/-- Writes one completion record, whose bytes but for PH are given, to the ring (R329). -/
def putRecord (n : Nat) (s : State) (r : List Byte) : State :=
  let b := blockAt s n
  let size := 2 ^ (b.cplsz % 16 + 4)
  let ph : Byte := BitVec.ofNat 8 (1 - b.written / size % 2)
  let s := strongPuts s (b.cplbase + 16 * (b.written % size)) (r.set 3 ph)
  msixOut (setBlock s n { b with written := b.written + 1 }) n

/-- Writes the records that wait, in order, while the ring has room: it never overwrites one that CPLACK has not acknowledged
(R328). -/
def flushRecords (n : Nat) : List (List Byte) → State → State
  | [], s => s
  | r :: l, s =>
    if (blockAt s n).cplbase = 0 then setBlock s n { blockAt s n with recs := [] }
    else if ringFull (blockAt s n) then s
    else flushRecords n l (putRecord n (setBlock s n { blockAt s n with recs := l }) r)

/-- A completion record: STATUS, CODE, TAG, PH, DETAIL, RESULT (R329); it waits while the ring has no room (R328). -/
def writeRecord (s : State) (n status code tag detail result : Nat) : State :=
  let b := blockAt s n
  if b.cplbase = 0 then s
  else
    let r := [BitVec.ofNat 8 status, BitVec.ofNat 8 code, BitVec.ofNat 8 tag, 0] ++ leBytes 4 detail ++ leBytes 8 result
    flushRecords n (b.recs ++ [r]) (setBlock s n { b with recs := b.recs ++ [r] })

/-- Logs an error in a block (R324, R327): EADDR and EDEV name the write. -/
def logBlock (s : State) (n code addr dev : Nat) : State :=
  let b := blockAt s n
  setBlock s n { b with ev := true, ecode := code, ecount := min 255 (b.ecount + 1), eaddr := addr, edev := dev }

/-- How a delivery to a block ends. -/
inductive Deliver where
  | ok (s : State) | full | refused
deriving DecidableEq, Repr, Inhabited

/-- The delivering context may not write the block (R323, R325). -/
def refuses (s : State) (n : Nat) (who : Nat) : Bool :=
  let b := blockAt s n
  blockDepth n == 0 || !b.en || (!b.opn && (!b.ov || b.owner != who))

/-- An indivisible delivery (R174, R250, R325, R326). -/
def deliver (s : State) (n who : Nat) (p : Packet) : Deliver :=
  let b := blockAt s n
  if refuses s n who then .refused
  else if b.held || blockFull s n then .full
  else .ok (setBlock s n { b with pk := p, staged := false, cmds := b.cmds ++ [.raw p] })

/-- A packet from 16 bytes (R162). -/
def packetOf (bs : List Byte) : Packet :=
  let w := fun (i : Nat) => BitVec.ofNat 32 (leNat ((bs.drop (4 * i)).take 4))
  { w0 := w 0, w1 := w 1, w2 := w 2, w3 := w 3 }

/-! ### Messages (R453) -/

/-- Sends a message, numbered within its destination and channel, for the word or engine of number `id` (R453). -/
def postMsg (s : State) (dst chan id : Nat) (body : MsgBody) : State :=
  let k := 4 * dst + chan
  let q := fget 0 s.nextMsg k
  { s with nextMsg := fput s.nextMsg k (q + 1),
           sent := s.sent ++ [{ src := s.device, dst := dst, chan := chan, seq := q, body := body, from_ := s.ns, core := id }] }

/-- Sends a message (R453). -/
def sendMsg (s : State) (dst chan : Nat) (body : MsgBody) : State := postMsg s dst chan 0 body

/-- Sends a message to each of some devices. -/
def sendAll (s : State) (devs : List Nat) (chan : Nat) (body : MsgBody) : State :=
  devs.foldl (fun s d => sendMsg s d chan body) s

/-- Answers a message, and keeps the answer for a duplicate of it; an answer has no number of its own (R453). -/
def answerMsg (s : State) (m : Msg) (code : Nat) : State :=
  let k := 4 * m.src + m.chan
  let kept := (fget [] s.replies k).filter fun r => r.1 != m.seq && decide (m.floor ≤ r.1)
  { s with replies := fput s.replies k ((m.seq, code) :: kept),
           sent := s.sent ++ [{ src := s.device, dst := m.src, chan := m.chan, seq := m.seq, body := .answer m.seq code, from_ := s.ns }] }

/-- Acknowledges a message end to end. -/
def ackMsg (s : State) (m : Msg) : State := answerMsg s m 0

/-- A message can reach this device: it has booted, a link is Up, and the sender is not lost; and its check is good (R453, R454, R456,
R476). -/
def reachesHere (s : State) (m : Msg) : Bool :=
  s.boot.stage == 7 && m.dst == s.device && m.good && (m.src == s.device || (someUp s && !s.lostDevs.contains m.src))

/-- Takes the message at the head of the inputs, when `p` holds of it, by `go`: one that cannot reach this device or fails its check is
dropped, a duplicate is answered as before, and one that comes before its turn is dropped, for the source sends it again (R453). -/
def takeInput (p : MsgBody → Bool) (go : State → Msg → State) (s : State) : State :=
  match s.inputs with
  | .message m :: r =>
    if !p m.body then s
    else
      let s := { s with inputs := r }
      let k := 4 * m.src + m.chan
      let next := fget 0 s.seen k
      if !reachesHere s m then s
      else match m.body with
        | .answer _ _ => go s m
        | _ =>
          if m.seq < next then answerMsg s m (((fget [] s.replies k).find? fun x => x.1 == m.seq).elim 0 fun x => x.2)
          else if max next m.floor < m.seq then s
          else go { s with seen := fput s.seen k (m.seq + 1) } m
  | _ => s

/-- The other devices that hold a member of an endpoint set, as firmware routing has them (R285, R448). -/
def setDevs (s : State) (set : Nat) : List Nat := ((fget [] s.routes set).filter fun d => d != s.device).eraseDups

/-! ### Engine commands of words -/

/-- The engine queue that an engine word of the core enters: that of its bench (R13, R323). A firmware core has no bench, and the spec
names no queue for it: the model takes block 128 (notes/assumptions/11.md). -/
def benchBlock (s : State) : Nat := s.cur / 4
/-- The die engine queue of the core (R323). -/
def dieBlock (s : State) : Nat := 128 + dieOf s.cur

/-- A command with the identity of the issuing word's tile and a fresh token (R163, R164, R165). -/
def submit (n tok : Nat) (mk : EngCmd → EngCmd) (s : State) : State :=
  let c := core s
  let k := c.task
  let id := c.nextCmd
  let e : EngCmd := { org := .word s.cur s.cl id, op := .cpy, ctx := k.ctx, sib := k.sib, run := k.run }
  let s := onCore (fun c => { c with nextCmd := id + 1, cmds := c.cmds ++ [{ id := id, cl := s.cl, reg := tok }] }) s
  let s := onClu (fun x => { x with tokPend := fput x.tokPend tok id }) s
  let b := blockAt s n
  setBlock s n { b with cmds := b.cmds ++ [.cmd (mk e)] }

/-- The engine's queue has no place for a word: it is full, or a go that arrived before the word still waits for a place in it. A go
that waits for the completion ring alone holds no word back (R15, R164, R328). -/
def engineFull (s : State) (n : Nat) : Bool :=
  decide (blockDepth n ≤ occOf (blockAt s n)) || ((blockAt s n).held && !ringFull (blockAt s n))

/-- A result is on its way to the token scalar: the last of R164's waits. -/
def tokenBusy (s : State) (tok : Nat) : Bool := blocked (clu s) { ws := [tok] }

/-! ### Barriers -/

/-- Whether a phase completes, and the arrival word after the test (R240): bit 63 P, bit 62 E, expected [61:48],
arrived [47:34], outstanding [33:0] (R339). -/
def phaseTest (w : Nat) : Nat :=
  if fld w 47 34 = fld w 61 48 && fld w 33 0 = 0 then setFld (setFld w 63 63 (1 - fld w 63 63)) 47 34 0 else w

/-- The arrival word after an engine credit of `n` bytes, with E set by an error (R239, R240, R341). -/
def creditWord (w n : Nat) (err : Bool) : Nat :=
  let w := setFld w 33 0 (fld w 33 0 + 2 ^ 34 - n % 2 ^ 34)
  phaseTest (if err then setFld w 62 62 1 else w)

/-- Where an engine's barrier address points (R340): the vault, a virtual address, or neither. -/
def barPlace (a : Addr) : Option (Bool × Nat) :=
  if a.toNat / 2 ^ 32 = 0xFFFFFFFF then some (true, a.toNat % 2 ^ 32)
  else if a.toNat < 2 ^ 48 then some (false, a.toNat) else none

/-- An engine credits a barrier, by one device-scope atomic on its arrival word (R165, R240). -/
def creditBar (s : State) (die : Nat) (e : EngCmd) (n : Nat) (err : Bool) : State :=
  match barPlace e.bar with
  | some (v, a) =>
    if a % 32 ≠ 0 then s
    else match chkAny s e.ctx e.sib e.run v a 8 true with
      | .ok => anyAtoms s e.ctx e.sib v a (leBytes 8 (creditWord (leNat (anyBytes s e.ctx e.sib v a 8)) n err))
      | .memfault b => logWalk s die e.ctx b
      | _ => s
  | none => s

/-! ### The end of a command -/

/-- The token of a word's command is written (R165, R167): E and the bytes written, saturating. -/
def landToken (c : Core) (cl id code n : Nat) (addr : Addr) : Core :=
  match c.cmds.find? fun x => x.id == id with
  | none => c
  | some x =>
    let tok := BitVec.ofNat 32 (min n (2 ^ 31 - 1) + b2n (code != 0) * 2 ^ 31)
    let c := landScalar cl x.reg { val := tok } c
    let k := cluAt c cl
    putClu { c with cmds := lmap (fun y => y.id == id) (fun y => { y with done := true, order := c.nextOrder, code := code, addr := addr }) c.cmds,
                    nextOrder := c.nextOrder + 1 } cl
      { k with tokPend := fdel k.tokPend x.reg, tokHeld := fput k.tokHeld x.reg id }

/-- A command ends after `n` bytes with an error code, 0 for none: the barrier is credited with `nb` bytes, and the
token or the completion record is written (R165-R167, R329, R330, R344). What the engine read and wrote comes before the first read
of the token, so the issuing core's clean copies leave (R407). -/
def finish (s : State) (blk : Nat) (e : EngCmd) (op code n nb : Nat) (addr : Addr) : State :=
  let s := if e.hasBar then creditBar s (if blk < 128 then blk / 32 else blk % 4) e nb (code != 0) else s
  match e.org with
  | .word co cl id =>
    let s := dropClean (fun _ => true) co s
    setCoreAt s co (landToken (coreAt s co) cl id code n addr)
  | .block =>
    let s := if code = 0 then s else logBlock s blk (0x40 + code) (64 * blk + 0x10) e.dev
    writeRecord s blk (if code = 0 then 0 else 0x40 + code) op e.tag (if code = 0 then 0 else addr.toNat % 2 ^ 32) 0

end Sys2Proof.Machine
end

