-- ==== Sys2Proof/Machine/Access.lean ====
section
/-! DEFINITION. The access instructions (spec/06_isa_access.md R146-R180): one meaning per instruction. -/

namespace Sys2Proof.Machine

/-! ### Translation and the checks of R148 -/

/-- The leaf that the core's lookaside array holds for a page (R377). -/
def lookLeaf (c : Core) (page : Nat) : Option (BitVec 64) :=
  (c.look.find? fun e => e.ctx == c.task.ctx && e.page == page).map fun e => e.leaf

/-- How the checks of an access end: it may be performed, it waits for the walk of a page, or it fails. -/
inductive PRes where
  | ok | walk (page : Nat) | bad (cause addr : Nat)
deriving DecidableEq, Repr, Inhabited

/-- The first result of a list that is not ok. -/
def firstRes : List PRes → PRes
  | [] => .ok
  | .ok :: r => firstRes r
  | x :: _ => x

/-- The leaf names a frame that another device lends (R370). -/
def lentLeaf (s : State) (l : BitVec 64) : Bool := leafTier l == 2 && leafPfn l / 2 ^ 20 != s.device

/-- MEMFAULT of one page: bits [63:48], a lender that is lost or has not answered, a walk that failed; or a walk, or the lender's answer,
still to come (R148, R370, R379, R456). A queue window that a word names and neither reads nor writes (`acts`) is asked nothing here. -/
def pageRes (s : State) (c : Core) (cl : Nat) (acts : Bool) (pa : Nat × Nat) : PRes :=
  if 2 ^ 48 ≤ pa.2 then .bad cMEMFAULT pa.2
  else if c.walkBad.contains (cl, pa.1) then .bad cMEMFAULT pa.2
  else match lookLeaf c pa.1 with
    | some l => if !acts && queueFrame l then .ok else if lenderLost s l then .bad cMEMFAULT pa.2 else if lentLeaf s l && !c.lentOk.contains (cl, pa.1) then .walk pa.1 else .ok
    | none => .walk pa.1

/-- The device key of a byte of the executing tile's memory. -/
def tileKey (s : State) (va : Nat) : Nat :=
  let c := core s
  match lookLeaf c (va / 65536) with
  | some l => readKey s c.task.ctx c.task.sib (va / 65536) l (va % 65536)
  | none => 0

/-- The key pair of a page of the executing tile's memory (R371). -/
def tileMat (s : State) (va : Nat) : Nat :=
  match lookLeaf (core s) (va / 65536) with
  | some l => keyMat s (core s).task.ctx l
  | none => 0

/-- An access to check: its space, whether it writes and reads, its address and its bytes, and whether it is strong. -/
structure Acc1 where
  sp : Bool
  wr : Bool
  rd : Bool
  ea : Nat
  n : Nat
  st : Bool := false
deriving DecidableEq, Repr, Inhabited

/-- Row 4 of R148: MEMFAULT or VAULTX. -/
def accMap (s : State) (x : Acc1) : PRes :=
  let c := core s
  if x.sp then match chkVault s c.task.ctx c.task.run x.ea x.n x.wr with
    | .vaultx a => .bad cVAULTX a
    | _ => .ok
  else firstRes ((pagesOf x.ea x.n).map (pageRes s c s.cl (x.rd || x.wr)))

/-- Row 5 of R148: PROT. -/
def accProt (s : State) (x : Acc1) : PRes :=
  if x.sp || !x.wr then .ok
  else firstRes ((pagesOf x.ea x.n).map fun pa => match lookLeaf (core s) pa.1 with
    | some l => if leafW l then .ok else .bad cPROT pa.2
    | none => .ok)

/-- A read of a byte meets an uncorrectable error: in the frame, or in the copy of the core's L1 that a weak access of a C or U
page uses. A byte that the core has stored itself is not damaged (R148, R471). -/
def damaged (s : State) (st : Bool) (va : Nat) : Bool :=
  let k := tileKey s va
  let kind := match lookLeaf (core s) (va / 65536) with | some l => leafKind l | none => 0
  match sectorOf (core s).l1 k with
  | some x =>
    if x.dirty.getLsbD (k % 64) then false
    else if st || kind == 0 || x.kmat != tileMat s va || (x.kindU && kind != 2) then s.badSectors.contains (k / 64)
    else x.bad
  | none => s.badSectors.contains (k / 64)

/-- Row 6 of R148: MEMERR. -/
def accErr (s : State) (x : Acc1) : PRes :=
  let c := core s
  if x.sp then match chkVault s c.task.ctx c.task.run x.ea x.n x.wr with
    | .memerr a => .bad cMEMERR a
    | _ => .ok
  else if x.rd then firstRes ((List.range x.n).map fun i => if damaged s x.st (x.ea + i) then .bad cMEMERR (x.ea + i) else .ok)
  else .ok

/-- Checks 4-6 of R148 for the accesses of one word, row by row. -/
def pchk (s : State) (l : List Acc1) : PRes :=
  firstRes (l.map (accMap s) ++ l.map (accProt s) ++ l.map (accErr s))

/-- A leaf enters core `n`'s lookaside array (R377). -/
def keepLook (ctx page : Nat) (l : BitVec 64) (n : Nat) (s : State) : State :=
  let c := coreAt s n
  setCoreAt s n { c with look := { ctx := ctx, page := page, leaf := l } :: c.look.filter fun e => !(e.ctx == ctx && e.page == page) }

/-- A walk of one page is also that of another in the same 32 MiB page: one whose level-1 entry is a leaf or has L set (R366, R379). -/
def sameWalk (s : State) (ctx p q : Nat) : Bool :=
  p == q || (p / 512 == q / 512 && (match walkTable s (ctxAt s ctx).ptroot p with | .leaf _ _ n => n == 1 | .bad c n => n == 1 && c != 6))

/-- The request of an access to a lent page goes to the lender, where none is on its way, and the word waits for the answer (R370,
R453). -/
def askLender (page : Nat) (l : BitVec 64) (s : State) : State :=
  let asked := s.sent.any fun m => m.core == s.cur + 1 && (match m.body with | .lent cl p _ => cl == s.cl && p == page | _ => false)
  waitOn .walk (if asked then s else postMsg s (leafPfn l / 2 ^ 20) 1 (s.cur + 1) (.lent s.cl page none))

/-- A page that the core's array does not hold: it comes from the die's array, and the word is tried again, or the word joins the
walk of the page, or starts it, and waits (R377-R379). One that it holds waits for its lender. -/
def startWalk (page : Nat) (s : State) : State :=
  let c := core s
  let die := dieOf s.cur
  match lookLeaf c page with
  | some l => askLender page l s
  | none =>
  match heldLeaf s (128 + die) c.task.ctx page with
  | some l => waitOn .none (keepLook c.task.ctx page l s.cur s)
  | none =>
  let me := (s.cur, s.cl, page)
  let here := fun (w : Walk) => w.die == die && w.ctx == c.task.ctx && sameWalk s c.task.ctx w.page page
  let ws := if s.walks.any here then
      lmap here (fun w => if w.waiters.contains me then w else { w with waiters := w.waiters ++ [me] }) s.walks
    else s.walks ++ [{ die := die, ctx := c.task.ctx, page := page, waiters := [me] }]
  waitOn .walk { s with walks := ws }

/-- A word's accesses begin: the walk results and the lenders' answers that its cluster took are used up, and the queue loads before it
have read their bytes, so that no later access reads an older value than they (R405). -/
def dropWalkBad (s : State) : State :=
  onCore (fun c => { c with walkBad := c.walkBad.filter (fun x => x.1 != s.cl), lentOk := c.lentOk.filter (fun x => x.1 != s.cl), late := [] }) s

/-- Runs the checks of a word's accesses: `go` when they pass, `bad` with the cause and the address when they fail. -/
def accesses (l : List Acc1) (bad : Nat → Nat → State → State) (go : State → State) (s : State) : State :=
  match pchk s l with
  | .ok => go (dropWalkBad s)
  | .walk p => startWalk p s
  | .bad c a => bad c a (dropWalkBad s)

/-- As `accesses`, for a word that finds its other accesses in what these read: the walk results of its cluster stay for the checks
of those. -/
def accessesFirst (l : List Acc1) (bad : Nat → Nat → State → State) (go : State → State) (s : State) : State :=
  match pchk s l with
  | .ok => go (onCore (fun c => { c with late := [] }) s)
  | .walk p => startWalk p s
  | .bad c a => bad c a (dropWalkBad s)

/-- The checks of a word with one access; `st` says that it is strong. -/
def access (st sp wr rd : Bool) (ea n : Nat) (bad : Nat → Nat → State → State) (go : State → State) (s : State) : State :=
  accesses [{ sp := sp, wr := wr, rd := rd, ea := ea, n := n, st := st }] bad go s

/-! ### Reading and writing bytes -/

/-- A byte as the device scope holds it, or as core `n` has stored it last and not yet written back. -/
def ownByte (n : Nat) (s : State) (km k : Nat) : Byte :=
  match sectorOf (coreAt s n).l1 k with
  | some x => if x.dirty.getLsbD (k % 64) then x.bytes.extractLsb' (8 * (k % 64)) 8 else plainByte s km k
  | none => plainByte s km k

/-- Reads one byte of the executing tile: a weak access of a C or U page goes through the L1 (R369); a strong one leaves what a
REL holds where it is, and reads it there (R154). -/
def readByte (strong sp : Bool) (ea : Nat) (s : State) : Byte × State :=
  let c := core s
  if sp then (vaultByte s c.task.ctx ea, s)
  else match lookLeaf c (ea / 65536) with
    | none => (0, s)
    | some l =>
      let k := readKey s c.task.ctx c.task.sib (ea / 65536) l (ea % 65536)
      let km := keyMat s c.task.ctx l
      if strong || leafKind l == 0 then
        let s := flushSector s s.cur k
        (ownByte s.cur s km k, s)
      else
        let s := fillSector s s.cur k (leafKind l == 2) km
        (weakByte s s.cur km k, s)

/-- Writes one byte of the executing tile, after the copy that a fork page makes (R149, R369, R373). -/
def writeByte (strong sp : Bool) (ea : Nat) (b : Byte) (s : State) : State :=
  let c := core s
  if sp then vaultPuts s ea [b]
  else match lookLeaf c (ea / 65536) with
    | none => s
    | some l =>
      let (k, s) := writeKey s c.task.ctx c.task.sib (ea / 65536) l (ea % 65536)
      let km := keyMat s c.task.ctx l
      if strong || leafKind l == 0 then corePut (flushSector s s.cur k) s.cur km k b
      else weakPut s s.cur k (leafKind l == 2) km b

/-- Reads `n` bytes in ascending order. -/
def readBytes (strong sp : Bool) : Nat → Nat → State → List Byte × State
  | 0, _, s => ([], s)
  | n + 1, ea, s =>
    let (b, s) := readByte strong sp ea s
    let (r, s) := readBytes strong sp n (ea + 1) s
    (b :: r, s)

/-- Writes bytes in ascending order. -/
def writeBytes (strong sp : Bool) : List Byte → Nat → State → State
  | [], _, s => s
  | b :: r, ea, s => writeBytes strong sp r (ea + 1) (writeByte strong sp ea b s)

/-- Stores bytes: in the vault a write that covers a damaged sector whole clears its mark (R399). -/
def storeBytes (strong sp : Bool) (bs : List Byte) (ea : Nat) (s : State) : State :=
  if sp then vaultPuts (clearDamage s ea bs.length) ea bs else writeBytes strong sp bs ea s

/-- The word that four bytes hold. -/
def wordOf (bs : List Byte) : Word := BitVec.ofNat 32 (leNat bs)

/-- A strong access that is ordered at every scope behind the core's weak stores: they are written back, but for held
sectors (R154, R406, R408). -/
def releaseAll (s : State) : State := writeUnheld (fun x => !x.kindU) s.cur s

/-- Later loads follow an acquiring access: C copies that the core has not stored are dropped (R154, R408). -/
def acquireAll (s : State) : State := dropClean (fun x => !x.kindU) s.cur s

/-! ### Scalar loads and stores (R151-R154) -/

/-- The effective address of an F-LS word (R146). -/
def lsAddr (a off scale : Nat) (s : State) : Nat :=
  (addrAdd (readA (clu s) a) (sgn 11 off * (scale : Int))).toNat

/-- A scalar load: `bad` says what the failures 3-6 of R148 do, `after` what follows the read. -/
def loadWord (strong : Bool) (bad : Nat → Nat → State → State) (after : Nat → State → State) (t a off : Nat)
    (mu sp : Bool) (s : State) : State :=
  issueSoft (bad cMEMERR 0) { ra := [a], ws := [t] } mu (fun s =>
    let ea := lsAddr a off 4 s
    if ea % 4 ≠ 0 then bad cALIGN ea s
    else access strong sp false true ea 4 bad (fun s =>
      let (bs, s) := readBytes strong sp 4 ea s
      retire [] (sbWrite t { val := wordOf bs } (after ea s))) s) s

/-- LD (R151). -/
def execLd (t a off _ch : Nat) (mu sp : Bool) (s : State) : Host.Outcome State Fault Refusal :=
  .next (loadWord false fault (fun _ s => s) t a off mu sp s)

/-- LDS: a failure sets sT to 0 with its poison bit (R152). -/
def execLds (t a off _ch : Nat) (mu sp : Bool) (s : State) : Host.Outcome State Fault Refusal :=
  .next (loadWord false (fun _ _ s => retire [] (sbWrite t { val := 0, pois := true } s)) (fun _ s => s) t a off mu sp s)

/-- LDA: strong, and it acquires (R154). -/
def execLda (t a off _ch : Nat) (mu sp : Bool) (s : State) : Host.Outcome State Fault Refusal :=
  .next (loadWord true fault (fun _ s => acquireAll s) t a off mu sp s)

/-- The discard of an honoured LDX: the sector leaves every L1 and the L2 unwritten (R153, R411). -/
def discard (sp : Bool) (ea : Nat) (s : State) : State :=
  match (if sp then none else lookLeaf (core s) (ea / 65536)) with
  | none => s
  | some l =>
    if leafLU l && leafKind l != 0 then
      let k := tileKey s ea / 64
      l2Drop { s with cores := s.cores.map fun c => (c.1, { c.2 with l1 := c.2.l1.filter fun x => x.key != k }) } (k * 64) 64
    else s

/-- LDX (R153). -/
def execLdx (t a off _ch : Nat) (mu sp : Bool) (s : State) : Host.Outcome State Fault Refusal :=
  .next (loadWord false fault (discard sp) t a off mu sp s)

/-- A scalar store. -/
def storeWord (strong : Bool) (before : State → State) (t a off : Nat) (mu sp : Bool) (s : State) : State :=
  issue { rs := [t], ra := [a] } mu (fun s =>
    let x := readS (clu s) t
    let ea := lsAddr a off 4 s
    if x.pois then fault cPOISON 0 s
    else if ea % 4 ≠ 0 then fault cALIGN ea s
    else access strong sp true false ea 4 fault (fun s =>
      retire [] (storeBytes strong sp (leBytes 4 x.val.toNat) ea (before s))) s) s

/-- ST (R151). -/
def execSt (t a off _ch : Nat) (mu sp : Bool) (s : State) : Host.Outcome State Fault Refusal :=
  .next (storeWord false (fun s => s) t a off mu sp s)
/-- STL: strong, and it releases (R154). -/
def execStl (t a off _ch : Nat) (mu sp : Bool) (s : State) : Host.Outcome State Fault Refusal :=
  .next (storeWord true releaseAll t a off mu sp s)

/-- CHK reads only the poison bit (R155). -/
def execChk (a off : Nat) (s : State) : Host.Outcome State Fault Refusal :=
  .next (issue { rs := [a] } false (fun s =>
    if (readS (clu s) a).pois then branchTo (target 14 off (clu s).pc) [] s else retire [] s) s)

/-! ### Queue loads and stores (R156-R158) -/

/-- The bytes of an element. -/
def elemBytes : QData → List Byte
  | .word v => leBytes 4 v.val.toNat
  | .vec v => leBytes 2048 v.bits.toNat
  | .tile b => leBytes 16384 b.toNat

/-- An unpoisoned element from its bytes. -/
def elemOf (k : QKind) (bs : List Byte) : QData :=
  match k with
  | .word => .word { val := wordOf bs }
  | .vec => .vec { bits := BitVec.ofNat 16384 (leNat bs) }
  | .tile => .tile (BitVec.ofNat 131072 (leNat bs))

/-- Bytes of an element kind. -/
def kindBytes : QKind → Nat
  | .word => 4 | .vec => 2048 | .tile => 16384
/-- Alignment of an element kind (R147). -/
def kindAlign : QKind → Nat
  | .word => 4 | _ => 64

/-- Reserves the newest slot for a load with the data that will land, or the slot that an earlier fault of this word
kept (R157). -/
def reserve (q : Nat) (d : Option QData) (s : State) : State :=
  let x := queueAt s q
  let pc := (clu s).pc
  let x := if x.refill = some pc then { x with ents := x.ents.dropLast ++ [.hole d] } else pushN x [.hole d]
  setQueue s q { x with refill := if d.isNone then some pc else none }

/-- The queue loads `l` and, as the newest, the one of queue `q` that has just reserved its slot may still read their bytes (R157,
R405). -/
def lateLoad (l : List LateLoad) (q : Nat) (sp : Bool) (ea : Nat) (s : State) : State :=
  onCore (fun c => { c with late := l ++ [{ q := q, seq := (fget ({} : Queue) c.q q).pseq - 1, sp := sp, ea := ea }] }) s

/-- A queue load: it waits for room, reserves its slot and reads, or reads again when its data land; a fault, that of a damaged address register (`hit`) too, keeps the
slot as a hole (R157, R471). -/
def queueLoad (kd : QKind) (q a off : Nat) (mu sp : Bool) (s : State) : State :=
  let body := fun (hit : Bool) (s : State) =>
    let x := queueAt s q
    let ea := lsAddr a off (kindBytes kd) s
    let bad := fun (c b : Nat) (s : State) => fault c b (reserve q none s)
    if badPush x s.cl || x.kind != kd then qproto q s
    else if x.refill != some (clu s).pc && decide (x.depth ≤ x.ents.length) then waitOn (.push q) s
    else if hit then bad cMEMERR 0 s
    else if ea % kindAlign kd ≠ 0 then bad cALIGN ea s
    else
      let l := (core s).late
      access false sp false true ea (kindBytes kd) bad (fun s =>
        let (bs, s) := readBytes false sp (kindBytes kd) ea s
        retire [] (lateLoad l q sp ea (reserve q (some (elemOf kd bs)) s))) s
  issueSoft (body true) { ra := [a] } mu (body false) s

/-- LDQ (R156). -/
def execLdq (t a off _ch : Nat) (mu sp : Bool) (s : State) : Host.Outcome State Fault Refusal :=
  .next (queueLoad .vec t a off mu sp s)
/-- LDQS (R156). -/
def execLdqs (t a off _ch : Nat) (mu sp : Bool) (s : State) : Host.Outcome State Fault Refusal :=
  .next (queueLoad .word t a off mu sp s)
/-- LDT (R156). -/
def execLdt (t a off _ch : Nat) (mu sp : Bool) (s : State) : Host.Outcome State Fault Refusal :=
  .next (queueLoad .tile t a off mu sp s)

/-- Whether an element is poisoned: the word, or any lane of the vector (R158). -/
def elemPois : QData → Bool
  | .word v => v.pois
  | .vec v => v.pois != 0
  | .tile _ => false

/-- A queue store: the head is popped when its write does not fault (R158). -/
def queueStore (tile : Bool) (q a off : Nat) (mu sp : Bool) (s : State) : State :=
  issue { ra := [a] } mu (fun s =>
    let x := queueAt s q
    let ea := lsAddr a off (kindBytes x.kind) s
    if badPop x s.cl || (x.kind == .tile) != tile || headMarker x then qproto q s
    else match x.ents with
      | .elem d :: _ =>
        if struck s q 1 then fault cMEMERR 0 s
        else if elemPois d then fault cPOISON 0 s
        else if ea % kindAlign x.kind ≠ 0 then fault cALIGN ea s
        else access false sp true false ea (kindBytes x.kind) fault (fun s =>
          retire [] (storeBytes false sp (elemBytes d) ea (setQueue s q (popN_ x 1)))) s
      | _ => waitOn (.pop q) s) s

/-- STQ (R156, R158). -/
def execStq (t a off _ch : Nat) (mu sp : Bool) (s : State) : Host.Outcome State Fault Refusal :=
  .next (queueStore false t a off mu sp s)
/-- STT (R156, R158). -/
def execStt (t a off _ch : Nat) (mu sp : Bool) (s : State) : Host.Outcome State Fault Refusal :=
  .next (queueStore true t a off mu sp s)

/-! ### Atomics (R159-R161) -/

/-- An atomic: `f old b d` is the word to write, or nothing; `cas` says that sD is a source. -/
def atomic (cas : Bool) (f : Word → Word → Word → Option Word) (d a b : Nat) (mu sp : Bool) (s : State) : State :=
  issue { rs := if cas then [b, d] else [b], ra := [a], ws := [d] } mu (fun s =>
    let y := readS (clu s) b
    let z := readS (clu s) d
    let ea := (readA (clu s) a).toNat
    if y.pois || (cas && z.pois) then fault cPOISON 0 s
    else if ea % 4 ≠ 0 then fault cALIGN ea s
    else access true sp true true ea 4 fault (fun s =>
      let (bs, s) := readBytes true sp 4 ea s
      let old := wordOf bs
      let s := match f old y.val z.val with
        | some w => storeBytes true sp (leBytes 4 w.toNat) ea s
        | none => s
      retire [] (sbWrite d { val := old } s)) s) s

/-- ATADD (R159). -/
def execAtadd (d a b : Nat) (_sc : Scope) (mu sp : Bool) (s : State) : Host.Outcome State Fault Refusal :=
  .next (atomic false (fun o b _ => some (o + b)) d a b mu sp s)
/-- ATMIN (R159). -/
def execAtmin (d a b : Nat) (_sc : Scope) (mu sp : Bool) (s : State) : Host.Outcome State Fault Refusal :=
  .next (atomic false (fun o b _ => some (if b.slt o then b else o)) d a b mu sp s)
/-- ATMAX (R159). -/
def execAtmax (d a b : Nat) (_sc : Scope) (mu sp : Bool) (s : State) : Host.Outcome State Fault Refusal :=
  .next (atomic false (fun o b _ => some (if o.slt b then b else o)) d a b mu sp s)
/-- ATMINU (R159). -/
def execAtminu (d a b : Nat) (_sc : Scope) (mu sp : Bool) (s : State) : Host.Outcome State Fault Refusal :=
  .next (atomic false (fun o b _ => some (if b.ult o then b else o)) d a b mu sp s)
/-- ATMAXU (R159). -/
def execAtmaxu (d a b : Nat) (_sc : Scope) (mu sp : Bool) (s : State) : Host.Outcome State Fault Refusal :=
  .next (atomic false (fun o b _ => some (if o.ult b then b else o)) d a b mu sp s)
/-- ATAND (R159). -/
def execAtand (d a b : Nat) (_sc : Scope) (mu sp : Bool) (s : State) : Host.Outcome State Fault Refusal :=
  .next (atomic false (fun o b _ => some (o &&& b)) d a b mu sp s)
/-- ATOR (R159). -/
def execAtor (d a b : Nat) (_sc : Scope) (mu sp : Bool) (s : State) : Host.Outcome State Fault Refusal :=
  .next (atomic false (fun o b _ => some (o ||| b)) d a b mu sp s)
/-- ATXOR (R159). -/
def execAtxor (d a b : Nat) (_sc : Scope) (mu sp : Bool) (s : State) : Host.Outcome State Fault Refusal :=
  .next (atomic false (fun o b _ => some (o ^^^ b)) d a b mu sp s)
/-- ATSWP (R159). -/
def execAtswp (d a b : Nat) (_sc : Scope) (mu sp : Bool) (s : State) : Host.Outcome State Fault Refusal :=
  .next (atomic false (fun _ b _ => some b) d a b mu sp s)
/-- ATCAS compares with the value that sD held (R159). -/
def execAtcas (d a b : Nat) (_sc : Scope) (mu sp : Bool) (s : State) : Host.Outcome State Fault Refusal :=
  .next (atomic true (fun o b d => if o = d then some b else none) d a b mu sp s)
/-- ATFADD (R159). -/
def execAtfadd (d a b : Nat) (_sc : Scope) (mu sp : Bool) (s : State) : Host.Outcome State Fault Refusal :=
  .next (atomic false (fun o b _ => some (add32 o b)) d a b mu sp s)

/-! ### Engine commands (R162-R164, R169-R174, R178) -/

/-- The command that an F-ENG word submits (R163). -/
def engCmd (op : EngOp) (ad src : Addr) (n : Word) (bar : Addr) (hasBar sd ss : Bool) (e : EngCmd) : EngCmd :=
  { e with op := op, count := n.toNat % 2 ^ 24, mode := n.toNat / 2 ^ 24, dst := ad, src := src, bar := bar,
           hasBar := hasBar, sd := sd, ss := ss }

/-- Issues an engine word with a count in sN (R164). -/
def engWord (op : EngOp) (tok ad src n ab : Nat) (sd ss : Bool) (s : State) : State :=
  issue { rs := [n], ra := ad :: src :: (if ab = 0 then [] else [ab]) } false (fun s =>
    let x := readS (clu s) n
    let k := clu s
    if x.pois then fault cPOISON 0 s
    else if engineFull s (benchBlock s) then waitOn .engine s
    else if tokenBusy s tok then waitOn .score s
    else retire [] (submit (benchBlock s) tok
      (engCmd op (readA k ad) (readA k src) x.val (readA k ab) (ab != 0) sd ss) s)) s

/-- CPY (R169). -/
def execCpy (tok ad src n ab : Nat) (sd ss : Bool) (s : State) : Host.Outcome State Fault Refusal :=
  .next (engWord .cpy tok ad src n ab sd ss s)
/-- CPYT (R170). -/
def execCpyt (tok ad src n ab : Nat) (sd ss : Bool) (s : State) : Host.Outcome State Fault Refusal :=
  .next (engWord .cpyt tok ad src n ab sd ss s)
/-- CPYD (R171). -/
def execCpyd (tok ad src n ab : Nat) (sd ss : Bool) (s : State) : Host.Outcome State Fault Refusal :=
  .next (engWord .cpyd tok ad src n ab sd ss s)
/-- LDG (R173). -/
def execLdg (tok ad src n ab : Nat) (sd ss : Bool) (s : State) : Host.Outcome State Fault Refusal :=
  .next (engWord .ldg tok ad src n ab sd ss s)
/-- STS (R173). -/
def execSts (tok ad src n ab : Nat) (sd ss : Bool) (s : State) : Host.Outcome State Fault Refusal :=
  .next (engWord .sts tok ad src n ab sd ss s)

/-- WMCPY: ILLEGAL on an empty slot; it waits while the slot's load is on its way (R164, R176, R178). -/
def execWmcpy (tok ad src n ab : Nat) (sd ss : Bool) (s : State) : Host.Outcome State Fault Refusal :=
  .next (issue { rs := [n], ra := ad :: (if ab = 0 then [] else [ab]) } false (fun s =>
    let x := readS (clu s) n
    let k := clu s
    let m := fget ({} : WMap) (core s).d src
    if x.pois then fault cPOISON 0 s
    else if m.loading then waitOn .score s
    else if !m.full then fault cILLEGAL 0 s
    else if engineFull s (benchBlock s) then waitOn .engine s
    else if tokenBusy s tok then waitOn .score s
    else retire [] (submit (benchBlock s) tok (fun e =>
      { engCmd .wmcpy (readA k ad) 0 x.val (readA k ab) (ab != 0) sd ss e with map := m.bits }) s)) s)

/-- ENQ: ILLEGAL with SD or SS set; the n field is ignored (R174). -/
def execEnq (tok ad src ab : Nat) (sd ss : Bool) (s : State) : Host.Outcome State Fault Refusal :=
  .next (issue { ra := ad :: src :: (if ab = 0 then [] else [ab]) } false (fun s =>
    let k := clu s
    if sd || ss then fault cILLEGAL 0 s
    else if engineFull s (benchBlock s) then waitOn .engine s
    else if tokenBusy s tok then waitOn .score s
    else retire [] (submit (benchBlock s) tok
      (engCmd .enq (readA k ad) (readA k src) 0 (readA k ab) (ab != 0) false false) s)) s)

/-! ### Window maps (R176, R177) -/

/-- WMLD: the 64 bytes are on their way to the slot under the scoreboard (R176). -/
def execWmld (t a off _ch : Nat) (mu sp : Bool) (s : State) : Host.Outcome State Fault Refusal :=
  .next (issue { ra := [a] } mu (fun s =>
    let ea := lsAddr a off 64 s
    if (fget ({} : WMap) (core s).d t).loading then waitOn .score s
    else if ea % 64 ≠ 0 then fault cALIGN ea s
    else access false sp false true ea 64 fault (fun s =>
      let (bs, s) := readBytes false sp 64 ea s
      retire [] (onCore (fun c => { c with
        d := fput c.d t { full := true, loading := true, bits := BitVec.ofNat 512 (leNat bs) } }) s)) s) s)

/-- WMADV: POS of the axis := (POS + sA × sext(ADV)) mod 2^16 (R177). -/
def execWmadv (d a axis : Nat) (s : State) : Host.Outcome State Fault Refusal :=
  .next (issue { rs := [a] } false (fun s =>
    let x := readS (clu s) a
    let m := fget ({} : WMap) (core s).d d
    let at_ := 8 * (16 + 12 * (axis % 4))
    let w := m.bits.toNat
    let pos := ((fld w (at_ + 47) (at_ + 32) : Nat) + x.val.toInt * sgn 8 (fld w (at_ + 55) (at_ + 48)) : Int)
    if x.pois then fault cPOISON 0 s
    else if m.loading then waitOn .score s
    else if !m.full then fault cILLEGAL 0 s
    else retire [] (onCore (fun c => { c with d := fput c.d d { m with
      bits := BitVec.ofNat 512 (setFld w (at_ + 47) (at_ + 32) (BitVec.ofInt 16 pos).toNat) } }) s)) s)

/-! ### Prefetch and cache maintenance (R179, R180) -/

/-- Brings the undamaged sectors of the 512-byte line at `ea` into the core's L1, where its page is of kind C or U and the core's lookaside
array holds it: a request whose page would need a walk is dropped, a choice that R179 leaves open (DESIGN CHOICE,
notes/assumptions/49.md). -/
def prefetch (ea : Nat) (s : State) : State :=
  match lookLeaf (core s) (ea / 65536) with
  | some l =>
    if leafKind l = 0 then s
    else loopN (fun i s =>
      if damaged s false (ea + 64 * i) then s
      else fillSector s s.cur (tileKey s (ea + 64 * i)) (leafKind l == 2) (tileMat s ea)) 8 s
  | none => s

/-- PREF: an L1 copy of the line of a mapped C or U page when CH = 0; otherwise nothing that a program sees. Where a load would
fault, by a damaged register or word too, it does nothing (R179). -/
def execPref (a off ch : Nat) (mu sp : Bool) (s : State) : Host.Outcome State Fault Refusal :=
  .next (issueSoft (retire []) { ra := [a] } mu (fun s =>
    let ea := lsAddr a off 512 s
    retire [] (if sp || ch = 1 || 2 ^ 48 ≤ ea || damaged s false ea then s else prefetch (ea / 512 * 512) s)) s)

/-- The 512-byte line of a key, written back from the core's L1 and from the L2 (R180). -/
def cleanLine (k : Nat) (s : State) : State :=
  l2Clean (writeBack (fun x => x.key / 8 == k / 512) s.cur s) (k / 512 * 512) 512

/-- CLEAN and INVAL (R180): they reach a line of mapped memory, and do nothing in the vault, nor at an address that a damaged
register holds (R471): MEMFAULT and MUSTU are their only faults. -/
def lineWord (f : Nat → State → State) (a off : Nat) (mu sp : Bool) (s : State) : State :=
  issueSoft (retire []) { ra := [a] } mu (fun s =>
    let ea := lsAddr a off 512 s
    if sp then retire [] s
    else access false false false false ea 1 fault (fun s => retire [] (f (tileKey s ea) s)) s) s

/-- CLEAN (R180). -/
def execClean (a off _ch : Nat) (mu sp : Bool) (s : State) : Host.Outcome State Fault Refusal :=
  .next (lineWord cleanLine a off mu sp s)
/-- INVAL: as CLEAN, and the line leaves the core's L1 (R180). -/
def execInval (a off _ch : Nat) (mu sp : Bool) (s : State) : Host.Outcome State Fault Refusal :=
  .next (lineWord (fun k s => dropClean (fun x => x.key / 8 == k / 512) s.cur (cleanLine k s)) a off mu sp s)

end Sys2Proof.Machine
end

