-- ==== Sys2Proof/Machine/Vector.lean ====
section
/-! DEFINITION. The vector instructions (spec/07_isa_vector.md R181-R204): one meaning per instruction. -/

namespace Sys2Proof.Machine

/-! ### Elements of a lane (R181) -/

/-- The format of a floating-point type; INT32 has none. -/
def vfmt (t : VType) : Fmt := match t with | .bf16 => bf16 | .f16 => f16 | _ => f32
/-- Whether a type holds two elements per lane. -/
def packed (t : VType) : Bool := match t with | .bf16 | .f16 => true | _ => false
/-- Element `h` of a lane as an exact value. -/
def elemEx (t : VType) (w : Word) (h : Nat) : Ex :=
  match t with
  | .i32 => exOfInt w.toInt
  | .f32 => dec f32 w.toNat
  | _ => dec (vfmt t) (w.toNat / 2 ^ (16 * h) % 65536)

/-- A lane from the exact results of its elements, each rounded once with RNE into the type. -/
def laneOf (t : VType) (f : Nat → Ex) : Word :=
  match t with
  | .i32 => 0
  | .f32 => BitVec.ofNat 32 (rnd f32 0 0 (f 0))
  | _ => BitVec.ofNat 32 (rnd (vfmt t) 0 0 (f 0) + rnd (vfmt t) 0 0 (f 1) * 65536)

/-- One lane of an elementwise word on up to three operands. -/
def lane3 (t : VType) (fx : Ex → Ex → Ex → Ex) (fi : Word → Word → Word) (a b d : Word) : Word :=
  match t with
  | .i32 => fi a b
  | _ => laneOf t fun h => fx (elemEx t a h) (elemEx t b h) (elemEx t d h)

/-- One lane of an elementwise word on one operand. -/
def lane1 (t : VType) (fx : Ex → Ex) (fi : Word → Word) (a : Word) : Word :=
  match t with
  | .i32 => fi a
  | _ => laneOf t fun h => fx (elemEx t a h)

/-! ### Shared forms -/

/-- A vector value from its lanes and its poison bits. -/
def vmk (f : Nat → Word) (p : BitVec 512) : VVal := { bits := ofLanes f, pois := p }
/-- The same poison bit in every lane. -/
def allPois (b : Bool) : BitVec 512 := if b then BitVec.allOnes 512 else 0

/-- A guarded word on two vector sources, and on the old destination where `fused` holds (R182, R187). -/
def vop3 (n : Nat) (fused : Bool) (f : Word → Word → Word → Word) (vd va vb pg : Nat) (pn : Bool) (s : State) : State :=
  vIssue pg pn { rv := [vreg s va, vreg s vb] ++ (if fused then [vreg s vd] else []) } (fun g s =>
    let a := readV (core s) (vreg s va)
    let b := readV (core s) (vreg s vb)
    let d := readV (core s) (vreg s vd)
    retire [landV n (vreg s vd) (vmk (fun i => f (lane a i) (lane b i) (lane d i))
      (a.pois ||| b.pois ||| (if fused then d.pois else 0))) g] s) s

/-- A guarded word on one vector source (R182). -/
def vop1 (n : Nat) (f : Word → Word) (vd va pg : Nat) (pn : Bool) (s : State) : State :=
  vIssue pg pn { rv := [vreg s va] } (fun g s =>
    let a := readV (core s) (vreg s va)
    retire [landV n (vreg s vd) (vmk (fun i => f (lane a i)) a.pois) g] s) s

/-! ### Queue moves and lane set-up (R185, R186) -/

/-- VPOP (R185). -/
def execVpop (vd q pg : Nat) (pn : Bool) (s : State) : Host.Outcome State Fault Refusal :=
  .next (vIssue pg pn {} (fun g s =>
    let x := queueAt s q
    if badPop x s.cl || x.kind != .vec || headMarker x then qproto q s
    else match x.ents with
      | .elem (.vec v) :: _ => unstruck q 1 (fun s => retire [landV 2 (vreg s vd) v g] (setQueue s q (popN_ x 1))) s
      | _ => waitOn (.pop q) s) s)

/-- VPSH pushes every lane with its poison bit (R185). The element is damaged where a lane whose guard is false was (R59, R471). -/
def execVpsh (q va pg : Nat) (pn : Bool) (s : State) : Host.Outcome State Fault Refusal :=
  .next (vIssue pg pn { rv := [vreg s va] } (fun _ s =>
    let x := queueAt s q
    let hit := struckV (core s) (vreg s va)
    if badPush x s.cl || x.kind != .vec then qproto q s
    else if x.depth ≤ x.ents.length then waitOn (.push q) s
    else
      let s := setQueue s q (pushN x [.elem (.vec (readV (core s) (vreg s va)))])
      retire [] (if hit = 0 then s else onCore (fun c => { c with soft := .q q x.pseq.toNat :: c.soft }) s)) s)

/-- VMOV (R186). -/
def execVmov (vd va pg : Nat) (pn : Bool) (s : State) : Host.Outcome State Fault Refusal :=
  .next (vop1 2 (fun a => a) vd va pg pn s)

/-- VBCST (R186). -/
def execVbcst (vd sa pg : Nat) (pn : Bool) (s : State) : Host.Outcome State Fault Refusal :=
  .next (vIssue pg pn { rs := [sa] } (fun g s =>
    let x := readS (clu s) sa
    retire [landV 2 (vreg s vd) (vmk (fun _ => x.val) (allPois x.pois)) g] s) s)

/-- VIDX (R186). -/
def execVidx (vd pg : Nat) (pn : Bool) (s : State) : Host.Outcome State Fault Refusal :=
  .next (vIssue pg pn {} (fun g s =>
    retire [landV 2 (vreg s vd) (vmk (fun i => BitVec.ofNat 32 i) 0) g] s) s)

/-- VLANE: a scalar result, with no guard (R186). -/
def execVlane (sd va sb : Nat) (s : State) : Host.Outcome State Fault Refusal :=
  .next (issue { rs := [sb], rv := [vreg s va], ws := [sd], lanes := 1#512 <<< ((readS (clu s) sb).val.toNat % 512) } false (fun s =>
    let x := readS (clu s) sb
    let a := readV (core s) (vreg s va)
    let i := x.val.toNat % 512
    retire [landS 2 sd { val := lane a i, pois := lanePois a i || x.pois }] s) s)

/-! ### Arithmetic (R187-R190) -/

/-- The smaller of two words, signed. -/
def minS (a b : Word) : Word := if b.slt a then b else a
/-- The larger of two words, signed. -/
def maxS (a b : Word) : Word := if a.slt b then b else a

/-- VADD (R187). -/
def execVadd (vd va vb pg : Nat) (pn : Bool) (tp : VType) (s : State) : Host.Outcome State Fault Refusal :=
  .next (vop3 2 false (lane3 tp (fun a b _ => exAdd a b) (fun a b => a + b)) vd va vb pg pn s)
/-- VSUB (R187). -/
def execVsub (vd va vb pg : Nat) (pn : Bool) (tp : VType) (s : State) : Host.Outcome State Fault Refusal :=
  .next (vop3 2 false (lane3 tp (fun a b _ => exAdd a (exOpp b)) (fun a b => a - b)) vd va vb pg pn s)
/-- VMUL (R187). -/
def execVmul (vd va vb pg : Nat) (pn : Bool) (tp : VType) (s : State) : Host.Outcome State Fault Refusal :=
  .next (vop3 2 false (lane3 tp (fun a b _ => exMul a b) (fun a b => a * b)) vd va vb pg pn s)
/-- VFMA (R187). -/
def execVfma (vd va vb pg : Nat) (pn : Bool) (tp : VType) (s : State) : Host.Outcome State Fault Refusal :=
  .next (vop3 4 true (lane3 tp (fun a b d => exAdd (exMul a b) d) (fun a _ => a)) vd va vb pg pn s)
/-- VFMS (R187). -/
def execVfms (vd va vb pg : Nat) (pn : Bool) (tp : VType) (s : State) : Host.Outcome State Fault Refusal :=
  .next (vop3 4 true (lane3 tp (fun a b d => exAdd (exMul a b) (exOpp d)) (fun a _ => a)) vd va vb pg pn s)
/-- VFNMA (R187). -/
def execVfnma (vd va vb pg : Nat) (pn : Bool) (tp : VType) (s : State) : Host.Outcome State Fault Refusal :=
  .next (vop3 4 true (lane3 tp (fun a b d => exAdd d (exOpp (exMul a b))) (fun a _ => a)) vd va vb pg pn s)
/-- VMIN (R187). -/
def execVmin (vd va vb pg : Nat) (pn : Bool) (tp : VType) (s : State) : Host.Outcome State Fault Refusal :=
  .next (vop3 2 false (lane3 tp (fun a b _ => exMin a b) minS) vd va vb pg pn s)
/-- VMAX (R187). -/
def execVmax (vd va vb pg : Nat) (pn : Bool) (tp : VType) (s : State) : Host.Outcome State Fault Refusal :=
  .next (vop3 2 false (lane3 tp (fun a b _ => exMax a b) maxS) vd va vb pg pn s)
/-- VDIV (R188). -/
def execVdiv (vd va vb pg : Nat) (pn : Bool) (tp : VType) (s : State) : Host.Outcome State Fault Refusal :=
  .next (vop3 8 false (lane3 tp (fun a b _ => exDiv a b) (fun a _ => a)) vd va vb pg pn s)

/-- VABS (R189). -/
def execVabs (vd va pg : Nat) (pn : Bool) (tp : VType) (s : State) : Host.Outcome State Fault Refusal :=
  .next (vop1 2 (lane1 tp exAbs (fun a => if a.msb then -a else a)) vd va pg pn s)
/-- VNEG (R189). -/
def execVneg (vd va pg : Nat) (pn : Bool) (tp : VType) (s : State) : Host.Outcome State Fault Refusal :=
  .next (vop1 2 (lane1 tp exOpp (fun a => -a)) vd va pg pn s)
/-- VRCP (R189). -/
def execVrcp (vd va pg : Nat) (pn : Bool) (tp : VType) (s : State) : Host.Outcome State Fault Refusal :=
  .next (vop1 8 (lane1 tp (exDiv (exOfInt 1)) (fun a => a)) vd va pg pn s)
/-- VRSQ (R189). -/
def execVrsq (vd va pg : Nat) (pn : Bool) (tp : VType) (s : State) : Host.Outcome State Fault Refusal :=
  .next (vop1 8 (lane1 tp exRsqrt (fun a => a)) vd va pg pn s)
/-- VSQRT (R189). -/
def execVsqrt (vd va pg : Nat) (pn : Bool) (tp : VType) (s : State) : Host.Outcome State Fault Refusal :=
  .next (vop1 8 (lane1 tp exSqrt (fun a => a)) vd va pg pn s)
/-- VEX2 (R189). -/
def execVex2 (vd va pg : Nat) (pn : Bool) (tp : VType) (s : State) : Host.Outcome State Fault Refusal :=
  .next (vop1 8 (lane1 tp exExp2 (fun a => a)) vd va pg pn s)
/-- VLG2 (R189). -/
def execVlg2 (vd va pg : Nat) (pn : Bool) (tp : VType) (s : State) : Host.Outcome State Fault Refusal :=
  .next (vop1 8 (lane1 tp exLog2 (fun a => a)) vd va pg pn s)
/-- VTANH (R189). -/
def execVtanh (vd va pg : Nat) (pn : Bool) (tp : VType) (s : State) : Host.Outcome State Fault Refusal :=
  .next (vop1 8 (lane1 tp exTanh (fun a => a)) vd va pg pn s)
/-- VFLR (R189). -/
def execVflr (vd va pg : Nat) (pn : Bool) (tp : VType) (s : State) : Host.Outcome State Fault Refusal :=
  .next (vop1 2 (lane1 tp (exFloor false) (fun a => a)) vd va pg pn s)
/-- VCEIL (R189). -/
def execVceil (vd va pg : Nat) (pn : Bool) (tp : VType) (s : State) : Host.Outcome State Fault Refusal :=
  .next (vop1 2 (lane1 tp (exFloor true) (fun a => a)) vd va pg pn s)

/-- VAND (R190). -/
def execVand (vd va vb pg : Nat) (pn : Bool) (s : State) : Host.Outcome State Fault Refusal :=
  .next (vop3 2 false (fun a b _ => a &&& b) vd va vb pg pn s)
/-- VOR (R190). -/
def execVor (vd va vb pg : Nat) (pn : Bool) (s : State) : Host.Outcome State Fault Refusal :=
  .next (vop3 2 false (fun a b _ => a ||| b) vd va vb pg pn s)
/-- VXOR (R190). -/
def execVxor (vd va vb pg : Nat) (pn : Bool) (s : State) : Host.Outcome State Fault Refusal :=
  .next (vop3 2 false (fun a b _ => a ^^^ b) vd va vb pg pn s)
/-- VSHL (R190). -/
def execVshl (vd va vb pg : Nat) (pn : Bool) (s : State) : Host.Outcome State Fault Refusal :=
  .next (vop3 2 false (fun a b _ => a <<< shAmt b) vd va vb pg pn s)
/-- VSHR (R190). -/
def execVshr (vd va vb pg : Nat) (pn : Bool) (s : State) : Host.Outcome State Fault Refusal :=
  .next (vop3 2 false (fun a b _ => a >>> shAmt b) vd va vb pg pn s)
/-- VSAR (R190). -/
def execVsar (vd va vb pg : Nat) (pn : Bool) (s : State) : Host.Outcome State Fault Refusal :=
  .next (vop3 2 false (fun a b _ => a.sshiftRight (shAmt b)) vd va vb pg pn s)

/-! ### Compare, select and predicates (R191-R196) -/

/-- The condition of VCMP on element 0 of a lane (R191). -/
def vcond (c : Cond) (t : VType) (a b : Word) : Bool :=
  let x := elemEx t a 0
  let y := elemEx t b 0
  match c with
  | .eq => exEq x y
  | .ne => !exEq x y
  | .lt => exLt x y
  | .le => exLt x y || exEq x y

/-- VCMP (R191). -/
def execVcmp (pd va vb pg : Nat) (pn : Bool) (cond : Cond) (tp : VType) (s : State) : Host.Outcome State Fault Refusal :=
  .next (vIssue pg pn { rv := [vreg s va, vreg s vb] } (fun g s =>
    let a := readV (core s) (vreg s va)
    let b := readV (core s) (vreg s vb)
    if (a.pois ||| b.pois) &&& g != 0 then fault cPOISON 0 s
    else retire (pLand 2 (preg s pd) (ofBits fun i => vcond cond tp (lane a i) (lane b i)) g) s) s)

/-- VSEL: every lane is written (R192). -/
def execVsel (vd va vb pg : Nat) (pn : Bool) (s : State) : Host.Outcome State Fault Refusal :=
  .next (issue { rv := [vreg s va, vreg s vb], rp := [pg], lv := [guardBits s pg pn, ~~~guardBits s pg pn] } false (fun s =>
    let a := readV (core s) (vreg s va)
    let b := readV (core s) (vreg s vb)
    let sel := guardBits s pg pn
    retire [landV 2 (vreg s vd) { bits := blend (laneMask sel) a.bits b.bits, pois := blend sel a.pois b.pois }
      (BitVec.allOnes 512)] s) s)

/-- VCOMMIT (R196). -/
def execVcommit (vd va pg : Nat) (pn : Bool) (s : State) : Host.Outcome State Fault Refusal :=
  .next (vIssue pg pn { rv := [vreg s va] } (fun g s =>
    let a := readV (core s) (vreg s va)
    if a.pois &&& g != 0 then fault cPOISON 0 s
    else retire [landV 2 (vreg s vd) { bits := a.bits, pois := 0 } g] s) s)

/-- VCHK (R195). -/
def execVchk (pd va pg : Nat) (pn : Bool) (s : State) : Host.Outcome State Fault Refusal :=
  .next (vIssue pg pn { rv := [vreg s va] } (fun g s =>
    retire (pLand 2 (preg s pd) (readV (core s) (vreg s va)).pois g) s) s)

/-- A predicate word, which has no guard and never traps (R193): one that reads a damaged predicate leaves the damage in its result, for
the first word that may trap (R471; notes/assumptions/47.md). -/
def pop2 (f : BitVec 512 → BitVec 512 → BitVec 512) (pd pa pb : Nat) (s : State) : State :=
  let hit := struckP (core s) (preg s pa) ||| struckP (core s) (preg s pb)
  let t := retire (pLand 1 (preg s pd) (f (readP (core s) (preg s pa)) (readP (core s) (preg s pb))) (BitVec.allOnes 512)) s
  if hit = 0 || preg s pd = 0 then t
  else onCore (fun c => { c with
    soft := ((List.range 16).filter fun i => hit.extractLsb' (32 * i) 32 != 0).map (fun i => .p (preg s pd) i) ++ c.soft }) t

/-- PAND (R193). -/
def execPand (pd pa pb : Nat) (s : State) : Host.Outcome State Fault Refusal := .next (pop2 (fun a b => a &&& b) pd pa pb s)
/-- POR (R193). -/
def execPor (pd pa pb : Nat) (s : State) : Host.Outcome State Fault Refusal := .next (pop2 (fun a b => a ||| b) pd pa pb s)
/-- PXOR (R193). -/
def execPxor (pd pa pb : Nat) (s : State) : Host.Outcome State Fault Refusal := .next (pop2 (fun a b => a ^^^ b) pd pa pb s)
/-- PANDN (R193). -/
def execPandn (pd pa pb : Nat) (s : State) : Host.Outcome State Fault Refusal := .next (pop2 (fun a b => a &&& ~~~b) pd pa pb s)
/-- PNOT (R193). -/
def execPnot (pd pa : Nat) (s : State) : Host.Outcome State Fault Refusal := .next (pop2 (fun a _ => ~~~a) pd pa pa s)
/-- PMOV (R193). -/
def execPmov (pd pa : Nat) (s : State) : Host.Outcome State Fault Refusal := .next (pop2 (fun a _ => a) pd pa pa s)

/-- PCNT (R194). -/
def execPcnt (sd pa : Nat) (s : State) : Host.Outcome State Fault Refusal :=
  .next (issue { rp := [preg s pa], ws := [sd] } false (fun s =>
    retire [landS 2 sd { val := BitVec.ofNat 32 (popN (readP (core s) (preg s pa)).toNat 512) }] s) s)

/-! ### Conversion and block quantisation (R197-R200) -/

/-- The key of the running context or sibling (R51, R52). -/
def runKey (s : State) : BitVec 64 :=
  let k := (core s).task
  match k.sib with
  | [] => (ctxAt s k.ctx).rkey
  | (u, i) :: _ => match groupOf s u with
    | some g => sibKey g.okey g.gid i
    | none => (ctxAt s k.ctx).rkey

/-- The draw index of stochastic rounding, s31 × 2^32 + s30 (R198). -/
def srIndex (s : State) : BitVec 64 :=
  ((readS (clu s) 31).val.setWidth 64 <<< 32) ||| (readS (clu s) 30).val.setWidth 64

/-- s30 or s31 is poisoned. -/
def srPois (s : State) : Bool := (readS (clu s) 30).pois || (readS (clu s) 31).pois

/-- The scalars that a rounding mode reads (R198). -/
def srRegs (rm : Nat) : List Nat := if rm = 4 then [30, 31] else []

/-- Bits of a VCVT destination (R197). -/
def cvtBits (d : CvtDst) : Nat :=
  match d with | .f32 | .i32 => 32 | .bf16 | .f16 => 16 | .e4m3 | .e5m2 | .i8 => 8 | .e2m1 => 4

/-- One converted element (R197). -/
def cvtElem (d : CvtDst) (rm w : Nat) (x : Ex) : Nat :=
  match d with
  | .f32 => rnd f32 rm w x
  | .bf16 => rnd bf16 rm w x
  | .f16 => rnd f16 rm w x
  | .e4m3 => rnd e4m3 rm w x
  | .e5m2 => rnd e5m2 rm w x
  | .e2m1 => rnd e2m1 rm w x
  | .i32 => (BitVec.ofInt 32 (exToInt rm w (-2147483648) 2147483647 x)).toNat
  | .i8 => (BitVec.ofInt 8 (exToInt rm w (-128) 127 x)).toNat

/-- VCVT (R197, R198). -/
def execVcvt (vd va rm pg : Nat) (pn : Bool) (dst : CvtDst) (tp : VType) (s : State) : Host.Outcome State Fault Refusal :=
  .next (vIssue pg pn { rs := srRegs rm, rv := [vreg s va] } (fun g s =>
    let a := readV (core s) (vreg s va)
    let wd := cvtBits dst
    let n := if wd = 32 then 1 else if packed tp then 2 else 1
    let key := runKey s
    let ix := srIndex s
    let f := fun (i : Nat) => BitVec.ofNat 32 (packN wd (fun h =>
      cvtElem dst rm (if rm = 4 then (draw key i (ix + BitVec.ofNat 64 h)).toNat else 0) (elemEx tp (lane a i) h)) n)
    if 5 ≤ rm then fault cILLEGAL 0 s
    else retire [landV 4 (vreg s vd) (vmk f
      (if rm = 4 && srPois s then BitVec.allOnes 512 else a.pois)) g] s) s)

/-- The lane that holds element `e` of a type, and the half. -/
def laneOfElem (t : VType) (e : Nat) : Nat × Nat := if packed t then (e / 2, e % 2) else (e, 0)

/-- Block `b` of a source has a guarded poisoned lane (R199). -/
def blockPois (t : VType) (p g : BitVec 512) (b : Nat) : Bool :=
  (List.range 32).any fun i => let l := (laneOfElem t (32 * b + i)).1
    p.getLsbD l && g.getLsbD l

/-- VQNT (R199). -/
def execVqnt (vd va rm pg : Nat) (pn : Bool) (blk : Blk) (tp : VType) (s : State) : Host.Outcome State Fault Refusal :=
  .next (vIssue pg pn { rs := srRegs rm, rv := [vreg s va] } (fun g s =>
    let a := readV (core s) (vreg s va)
    let bs := blkSize blk
    let nb := if packed tp then 32 else 16
    let key := runKey s
    let ix := srIndex s
    let x := fun (e : Nat) => let (l, h) := laneOfElem tp e
      if g.getLsbD l then elemEx tp (lane a l) h else Ex.fin false 0 0 false
    let w := fun (e : Nat) => let (l, h) := laneOfElem tp e
      if rm = 4 then (draw key l (ix + BitVec.ofNat 64 h)).toNat else 0
    let img := packN (8 * bs) (fun b => blkQuant blk rm (fun i => w (32 * b + i)) (fun i => x (32 * b + i))) nb
    let bad := ofBits fun l => (List.range 4).any fun k =>
      let b := (4 * l + k) / bs
      decide (b < nb) && blockPois tp a.pois g b
    if 5 ≤ rm || tp = .i32 || (blk = .x && rm ≠ 0) then fault cILLEGAL 0 s
    else retire [landV 4 (vreg s vd) (VVal.mk (BitVec.ofNat 16384 img)
      (if rm = 4 && srPois s then BitVec.allOnes 512 else bad)) g] s) s)

/-- Elements per lane. -/
def perLane (t : VType) : Nat := if packed t then 2 else 1

/-- The source lanes that hold a byte of a block with an element in a guarded lane (R200). -/
def blockLanes (blk : Blk) (t : VType) (g : BitVec 512) : BitVec 512 :=
  ofBits fun l => (List.range 32).any fun b =>
    decide (blkSize blk * b < 4 * l + 4) && decide (4 * l < blkSize blk * (b + 1))
      && g.extractLsb' (32 * b / perLane t) (32 / perLane t) != 0

/-- VDQNT (R200). -/
def execVdqnt (vd va pg : Nat) (pn : Bool) (blk : Blk) (tp : VType) (s : State) : Host.Outcome State Fault Refusal :=
  .next (vIssue pg pn { rv := [vreg s va], lv := [blockLanes blk tp (guardBits s pg pn)] } (fun g s =>
    let a := readV (core s) (vreg s va)
    let bs := blkSize blk
    let img := a.bits.toNat
    let block := fun (b : Nat) => img / 256 ^ (bs * b) % 256 ^ bs
    let per := perLane tp
    let f := fun (l : Nat) => laneOf tp fun h =>
      let e := per * l + h
      blkElem blk (block (e / 32)) (e % 32)
    let bad := ofBits fun l =>
      let b := per * l / 32
      (List.range (bs / 4 + 2)).any fun i =>
        let src := bs * b / 4 + i
        decide (src ≤ (bs * b + bs - 1) / 4) && a.pois.getLsbD src
    if tp = .i32 then fault cILLEGAL 0 s
    else retire [landV 4 (vreg s vd) (vmk f bad) g] s) s)

/-! ### Reduction and scan (R201, R202) -/

/-- A node of a reduction (R201). -/
def redNode (op : RedOp) (t : VType) (a b : Word) : Word :=
  match t with
  | .i32 => match op with | .add => a + b | .max => maxS a b | .min => minS a b
  | _ => match op with
    | .add => add32 a b
    | .max => rne32 (exMax (dec32 a) (dec32 b))
    | .min => rne32 (exMin (dec32 a) (dec32 b))

/-- The identity of a reduction (R201). -/
def redId (op : RedOp) (t : VType) : Word :=
  match t with
  | .i32 => match op with | .add => 0 | .max => 0x80000000 | .min => 0x7FFFFFFF
  | _ => match op with | .add => 0 | .max => 0xFF800000 | .min => 0x7F800000

/-- Element `e` of a source as a leaf, widened exactly to FP32; the identity where its lane is not guarded (R201). -/
def redLeaf (op : RedOp) (t : VType) (g : BitVec 512) (a : VVal) (e : Nat) : Word :=
  let (l, h) := laneOfElem t e
  if g.getLsbD l then (match t with
    | .i32 => lane a l
    | .f32 => lane a l
    | _ => rne32 (elemEx t (lane a l) h)) else redId op t

/-- VRED (R201). -/
def execVred (vd va pg : Nat) (pn : Bool) (op : RedOp) (tp : VType) (s : State) : Host.Outcome State Fault Refusal :=
  .next (vIssue pg pn { rv := [vreg s va] } (fun g s =>
    let a := readV (core s) (vreg s va)
    let root := treeD (redNode op tp) (redLeaf op tp g a) (if packed tp then 10 else 9) 0
    let out := if packed tp then laneOf tp (fun _ => dec32 root) else root
    retire [landV 6 (vreg s vd) (vmk (fun _ => out)
      (allPois (a.pois &&& g != 0))) g] s) s)

/-- One level of the scan: lane i − d is the left operand (R47). Lanes below `d` keep their value: lane 0 passes through no node, and
the model keeps its bits, a NaN that is not canonical too, where R30 could ask for the canonical one (DESIGN CHOICE,
notes/assumptions/47.md). -/
def scanLevel (f : Word → Word → Word) (d : Nat) (x : List Word) : List Word :=
  x.take d ++ List.zipWith f x (x.drop d)

/-- The nine levels (R47). -/
def scanAll (f : Word → Word → Word) (x : List Word) : List Word := loopN (fun l x => scanLevel f (2 ^ l) x) 9 x

/-- VSCAN: BF16 and FP16 raise ILLEGAL (R202). -/
def execVscan (vd va pg : Nat) (pn : Bool) (op : RedOp) (tp : VType) (s : State) : Host.Outcome State Fault Refusal :=
  .next (vIssue pg pn { rv := [vreg s va] } (fun g s =>
    let a := readV (core s) (vreg s va)
    let out := scanAll (redNode op tp) ((List.range 512).map (redLeaf op tp g a))
    if packed tp then fault cILLEGAL 0 s
    else retire [landV 10 (vreg s vd) (vmk (fun i => out.getD i 0)
      (ofBits fun i => (a.pois &&& g).toNat % 2 ^ (i + 1) != 0)) g] s) s)

/-! ### Lane movement and random numbers (R203, R204) -/

/-- The lanes `f` of the guarded lanes. -/
def takenLanes (g : BitVec 512) (f : Nat → Nat) : BitVec 512 :=
  (List.range 512).foldl (fun b i => if g.getLsbD i then b ||| (1#512 <<< f i) else b) 0

/-- VPERM (R203). -/
def execVperm (vd va vb pg : Nat) (pn : Bool) (s : State) : Host.Outcome State Fault Refusal :=
  .next (vIssue pg pn { rv := [vreg s va, vreg s vb], lv := [takenLanes (guardBits s pg pn) fun i =>
      (lane (readV (core s) (vreg s vb)) i).toNat % 512] } (fun g s =>
    let a := readV (core s) (vreg s va)
    let b := readV (core s) (vreg s vb)
    let ix := fun (i : Nat) => (lane b i).toNat % 512
    retire [landV 3 (vreg s vd) (vmk (fun i => lane a (ix i))
      (ofBits fun i => lanePois a (ix i) || lanePois b i)) g] s) s)

/-- VROT (R203). -/
def execVrot (vd va sb pg : Nat) (pn : Bool) (s : State) : Host.Outcome State Fault Refusal :=
  .next (vIssue pg pn { rs := [sb], rv := [vreg s va], lv := [takenLanes (guardBits s pg pn) fun i =>
      (i + (readS (clu s) sb).val.toNat % 512) % 512] } (fun g s =>
    let a := readV (core s) (vreg s va)
    let x := readS (clu s) sb
    let ix := fun (i : Nat) => (i + x.val.toNat % 512) % 512
    retire [landV 3 (vreg s vd) (vmk (fun i => lane a (ix i))
      (ofBits fun i => lanePois a (ix i) || x.pois)) g] s) s)

/-- VRNG: random words, or FP32 uniform variates (R204). -/
def execVrng (vd sa sb pg : Nat) (pn raw : Bool) (s : State) : Host.Outcome State Fault Refusal :=
  .next (vIssue pg pn { rs := [sa, sb] } (fun g s =>
    let x := readS (clu s) sa
    let y := readS (clu s) sb
    let n := (y.val.setWidth 64 <<< 32) ||| x.val.setWidth 64
    let key := runKey s
    retire [landV 4 (vreg s vd) (vmk (fun i => if raw then draw key i n else uniform (draw key i n))
      (allPois (x.pois || y.pois))) g] s) s)

end Sys2Proof.Machine
end

