-- ==== Sys2Proof/Machine/Matrix.lean ====
section
/-! DEFINITION. The matrix instructions (spec/08_isa_matrix.md R205-R231), the completion of an MMA, window replay
(spec/19_traps.md R441, R442) and the budget interval (spec/21_power_reliability.md R469). -/

namespace Sys2Proof.Machine

/-! ### Tiles -/

/-- Tile register `n`. -/
def tileAt (c : Core) (n : Nat) : Tile := fget {} c.t n
/-- Writes a tile register; its old contents, with any error in them, are gone. -/
def putTile (n : Nat) (t : Tile) (s : State) : State :=
  onCore (fun c => { c with t := fput c.t n t, soft := c.soft.filter fun x => x != .tile n }) s

/-- The item 0 word of TSTAT (R214). -/
def tileWord (t : Tile) : Word :=
  match t.st with
  | .unconf => 0
  | .conf => BitVec.ofNat 32 (codeOfFmt t.ty + (t.rows - 1) * 8 + 1 * 512)
  | .live => BitVec.ofNat 32 (codeOfFmt t.ty + (t.rows - 1) * 8 + 2 * 512)

/-- TCFG (R211, R213): rows is one more than the field. -/
def execTcfg (td rows1 : Nat) (ty : TileFmt) (s : State) : Host.Outcome State Fault Refusal :=
  .next (issue {} false (fun s =>
    let t := tileAt (core s) td
    let fresh := { t with st := .conf, ty := ty, rows := rows1 % 64 + 1, bits := 0 }
    if t.st = .live then
      if t.ty = ty && t.rows = rows1 % 64 + 1 then retire [] s
      else if tchk (coreSeen s) then fault cTILEDISC (tileWord t).toNat s
      else retire [] (putTile td { fresh with disc := min 0xFFFFFFFF (t.disc + 1), discPc := (clu s).pc.setWidth 32 } s)
    else retire [] (putTile td fresh s)) s)

/-- TPOP (R212). -/
def execTpop (td q : Nat) (s : State) : Host.Outcome State Fault Refusal :=
  .next (issue {} false (fun s =>
    let t := tileAt (core s) td
    let x := queueAt s q
    if badPop x s.cl || x.kind != .tile || headMarker x then qproto q s
    else if t.st = .unconf then fault cILLEGAL 0 s
    else match x.ents with
      | .elem (.tile b) :: _ =>
        unstruck q 1 (fun s =>
          retire [] (setQueue (putTile td { t with
            st := .live, bits := BitVec.ofNat 131072 (b.toNat % 2 ^ (2048 * t.rows)),
            pops := min 0xFFFFFFFF (t.pops + 1) } s) q (popN_ x 1))) s
      | _ => waitOn (.pop q) s) s)

/-- TPSH (R212). The spec names no XADDR for the MEMERR of a damaged tile here: it is 0 (DESIGN CHOICE,
notes/assumptions/47.md). -/
def execTpsh (q ta : Nat) (s : State) : Host.Outcome State Fault Refusal :=
  .next (issue {} false (fun s =>
    let t := tileAt (core s) ta
    let x := queueAt s q
    if badPush x s.cl || x.kind != .tile then qproto q s
    else if t.st = .unconf then fault cILLEGAL 0 s
    else if (core s).soft.contains (.tile ta) then fault cMEMERR 0 s
    else if x.depth ≤ x.ents.length then waitOn (.push q) s
    else retire [] (setQueue s q (pushN x [.elem (.tile t.bits)]))) s)

/-- TZERO (R212). -/
def execTzero (td : Nat) (s : State) : Host.Outcome State Fault Refusal :=
  .next (issue {} false (fun s =>
    let t := tileAt (core s) td
    if t.st = .unconf then fault cILLEGAL 0 s
    else retire [] (putTile td { t with st := .conf, bits := 0 } s)) s)

/-- TSTAT (R214). -/
def execTstat (sd ta item : Nat) (s : State) : Host.Outcome State Fault Refusal :=
  .next (issue { ws := [sd] } false (fun s =>
    let t := tileAt (core s) ta
    retire [landS 1 sd { val := match item with
      | 0 => tileWord t | 1 => BitVec.ofNat 32 t.disc | 2 => t.discPc | _ => BitVec.ofNat 32 t.pops }] s) s)

/-! ### The format table and weight slots -/

/-- Bytes of width of a format code: 16, 8 or 4 bits (R215). -/
def codeWidth (n : Nat) : Nat := tileBits (fmtOfCode n)

/-- A valid format-table entry (R215). -/
def entryOk (e : Nat) : Bool :=
  decide (fld e 2 0 ≤ 5) && decide (fld e 5 3 ≤ 5) && codeWidth (fld e 2 0) == codeWidth (fld e 5 3)
    && (if 4 ≤ fld e 2 0 then bitAt e 6 else if fld e 2 0 ≤ 1 then !bitAt e 6 else true)

/-- FTSET (R217). -/
def execFtset (fi sa : Nat) (s : State) : Host.Outcome State Fault Refusal :=
  .next (issueLate { rs := [sa] } (fun hit s =>
    let x := readS (clu s) sa
    if x.pois then fault cPOISON 0 s
    else if hit then fault cMEMERR 0 s
    else retire [] (onCore (fun c => { c with fmt := fput c.fmt fi (x.val &&& 0x1FFF) }) s)) s)

/-- FTGET (R217). -/
def execFtget (sd fi : Nat) (s : State) : Host.Outcome State Fault Refusal :=
  .next (issue { ws := [sd] } false (fun s => retire [landS 1 sd { val := fget 0 (core s).fmt fi }] s) s)

/-- The element formats that a slot mode allows (R218). -/
def modeFits (m : WMode) (b : Nat) : Bool :=
  match m with | .dense | .s24 | .s48 => decide (b ≤ 3) | .mx => b == 4 | .x => b == 5

/-- Weight slot `n`. -/
def slotAt (c : Core) (n : Nat) : WSlot := fget {} c.w n
/-- Writes a weight slot. -/
def putSlot (n : Nat) (w : WSlot) (s : State) : State :=
  onCore (fun c => { c with w := fput c.w n w, soft := c.soft.filter fun x => x != .slot n }) s

/-- WCFG (R218). -/
def execWcfg (wd fi : Nat) (mode : WMode) (s : State) : Host.Outcome State Fault Refusal :=
  .next (issue {} false (fun s =>
    let e := (fget 0 (core s).fmt fi).toNat
    let b := fld e 5 3
    let w := slotAt (core s) wd
    if !entryOk e || !modeFits mode b then fault cILLEGAL 0 s
    else if w.st = .loaded && w.mode = mode && w.fmt = b then retire [] s
    else retire [] (putSlot wd { st := .conf, mode := mode, fmt := b } s)) s)

/-- The number of tile elements of a slot's image (R219). -/
def slotElems (w : WSlot) : Nat := match w.mode with | .mx | .x => 3 | _ => 2

/-- The tiles of the first `n` entries, once all have arrived. -/
def takeTiles : Nat → List QEnt → Option (List (BitVec 131072))
  | 0, _ => some []
  | n + 1, .elem (.tile b) :: r => (takeTiles n r).map fun t => b :: t
  | _ + 1, _ => none

/-- Tiles end to end, the first lowest. -/
def joinTiles : List (BitVec 131072) → Nat
  | [] => 0
  | b :: r => b.toNat + joinTiles r * 2 ^ 131072

/-- WLD: it waits for all its entries, and only then looks for a marker among them (R130, R221). -/
def execWld (wd q : Nat) (s : State) : Host.Outcome State Fault Refusal :=
  .next (issue {} false (fun s =>
    let w := slotAt (core s) wd
    let x := queueAt s q
    let n := slotElems w
    if badPop x s.cl || x.kind != .tile then qproto q s
    else if w.st = .empty then fault cILLEGAL 0 s
    else if x.depth < n then qproto q s
    else if !allHere n x then waitFor n (.pop q) s
    else if (x.ents.take n).contains .marker then qproto q s
    else match takeTiles n x.ents with
      | some ts => unstruck q n (fun s =>
          retire [] (setQueue (putSlot wd { w with st := .loaded, img := BitVec.ofNat 524288 (joinTiles ts) } s) q (popN_ x n))) s
      | none => waitOn (.pop q) s) s)

/-! ### The command window (R227, R228) -/

/-- Retains a word that writes an accumulator; a 17th marks the window overflowed. -/
def retain (e : WinEnt) (c : Core) : Core :=
  if c.win.length < 16 then { c with win := c.win ++ [e] } else { c with winOver := true }

/-- The accumulators after a retained word. -/
def winStep (a : File Acc) (e : WinEnt) : File Acc :=
  match e with
  | .mma o => fput a o.acc (mmaResult o (fget 0 a o.acc))
  | .scl n f => fput a n (ofAcc fun i j => mul32 (accElem (fget 0 a n) i j) f)
  | .load n b => fput a n b
  | .clear n => fput a n 0

/-- An issued MMA or MMAT has yet to write accumulator `n` (R207). -/
def accPending (c : Core) (n : Nat) : Bool := c.mma.any fun o => o.acc == n

/-- The checkpoint of TMARK. -/
def mark (tag : Nat) (c : Core) : Core := { c with winTag := tag % 65536, win := [], winOver := false, winSave := c.c }

/-- TMARK (R227). -/
def execTmark (imm : Nat) (s : State) : Host.Outcome State Fault Refusal :=
  .next (issue {} false (fun s =>
    if (core s).mma.isEmpty then retire [] (onCore (mark imm) s) else waitOn .score s) s)

/-! ### MMA and MMAT (R222, R223) -/

/-- The checks of R216 and R222, and R223 for a transposed form. -/
def mmaBad (c : Core) (t : Nat) (w : Nat) (e : Nat) (transp : Bool) : Bool :=
  let a := tileAt c t
  let b := slotAt c w
  let st := fld e 9 7
  a.st == .unconf || !entryOk e || codeOfFmt a.ty != fld e 2 0 || b.st != .loaded || b.fmt != fld e 5 3
    || (bitAt e 6 && ((tileAt c st).st == .unconf || decide ((tileAt c st).rows < a.rows) || st == t))
    || (transp && (b.mode != .dense || decide (2 ≤ b.fmt)))

/-- An error in a tile or slot that the word reads (R230). -/
def mmaSoft (c : Core) (t w e : Nat) : Bool :=
  c.soft.contains (.tile t) || c.soft.contains (.slot w) || (bitAt e 6 && c.soft.contains (.tile (fld e 9 7)))

/-- Issues an MMA or MMAT: its operands are read now, its accumulator is written when it completes (R206). -/
def mmaWord (transp : Bool) (cd ta wb lvl fi : Nat) (fl : Bool) (s : State) : State :=
  issueLate { rl := if fl then [lvl] else [] } (fun hit s =>
    let c := core s
    let f := if fl then ((fget 0 (clu s).l lvl).toNat + fi) % 16 else fi
    let e := fget 0 c.fmt f
    if mmaBad c ta wb e.toNat transp then fault cILLEGAL 0 s
    else if hit then fault cMEMERR 0 s
    else if accPending c cd then waitOn .score s
    else if c.badAcc.contains cd || mmaSoft c ta wb e.toNat then fault cMEMERR cd s
    else if c.budget = 0 then waitOn .array s
    else
      let o : MmaOp := { acc := cd, tile := tileAt c ta, slot := slotAt c wb, entry := e,
                         scale := if bitAt e.toNat 6 then tileAt c (fld e.toNat 9 7) else {}, transp := transp }
      retire [] (onCore (fun c => retain (.mma o) { c with budget := c.budget - 1, issued := c.issued + 1, mma := c.mma ++ [o] }) s)) s

/-- MMA (R222). -/
def execMma (cd ta wb lvl fi : Nat) (fl : Bool) (s : State) : Host.Outcome State Fault Refusal :=
  .next (mmaWord false cd ta wb lvl fi fl s)
/-- MMAT (R223). -/
def execMmat (cd ta wb lvl fi : Nat) (fl : Bool) (s : State) : Host.Outcome State Fault Refusal :=
  .next (mmaWord true cd ta wb lvl fi fl s)

/-- MMA_COMPLETION: the oldest issued MMA or MMAT writes its accumulator (R206, R207). -/
def execMmaCompletion (s : State) : Host.Outcome State Fault Refusal :=
  .next (onCore (fun c => match c.mma with
    | [] => c
    | o :: r => { c with mma := r, c := fput c.c o.acc (mmaResult o (fget 0 c.c o.acc)) }) s)

/-! ### Accumulators out and in (R224-R226) -/

/-- The format of a CEMIT destination; FP32 is copied. -/
def emitFmt (d : EmitDst) : Fmt := match d with | .f32 => f32 | .bf16 => bf16 | .f16 => f16 | .e4m3 => e4m3 | .e5m2 => e5m2
/-- Bytes of an emitted element. -/
def emitSize (d : EmitDst) : Nat := match d with | .f32 => 4 | .bf16 | .f16 => 2 | _ => 1

/-- The emitted image (R224): element e = 128i + j, drawing w(e mod 512, n + e div 512) under SR. -/
def emitImage (d : EmitDst) (rm : Nat) (key n : BitVec 64) (a : Acc) : Nat :=
  packTree (8 * emitSize d) (fun e =>
    let x := accElem a (e / 128) (e % 128)
    match d with
    | .f32 => x.toNat
    | _ => rnd (emitFmt d) rm (if rm = 4 then (draw key (e % 512) (n + BitVec.ofNat 64 (e / 512))).toNat else 0) (dec32 x)) 13 0

/-- CEMIT and CPSH: `rm` is the mode code, `z` clears the accumulator afterwards. -/
def emit (ca q rm : Nat) (d : EmitDst) (z : Bool) (s : State) : State :=
  let sr := rm == 4 && d != .f32
  issueLate { rs := if sr then [30, 31] else [] } (fun hit s =>
    let c := core s
    let x := queueAt s q
    let n := if d = .f32 then 2 else 1
    if badPush x s.cl || x.kind != .tile || x.depth < n then qproto q s
    else if 5 ≤ rm then fault cILLEGAL 0 s
    else if sr && srPois s then fault cPOISON 0 s
    else if hit then fault cMEMERR 0 s
    else if accPending c ca then waitOn .score s
    else if c.badAcc.contains ca then fault cMEMERR ca s
    else if x.depth < x.ents.length + n then waitFor n (.push q) s
    else
      let img := emitImage d rm (runKey s) (srIndex s) (fget 0 c.c ca)
      let tiles := (List.range n).map fun i => QEnt.elem (.tile (BitVec.ofNat 131072 (img / 2 ^ (131072 * i))))
      let s := setQueue s q (pushN x tiles)
      retire [] (if z then onCore (fun c => retain (.clear ca) { c with c := fput c.c ca 0 }) s else s)) s

/-- CEMIT (R224). -/
def execCemit (ca q rm : Nat) (dst : EmitDst) (z : Bool) (s : State) : Host.Outcome State Fault Refusal :=
  .next (emit ca q rm dst z s)
/-- CPSH is CEMIT.f32 without `.z` (R225). -/
def execCpsh (ca q : Nat) (s : State) : Host.Outcome State Fault Refusal :=
  .next (emit ca q 0 .f32 false s)

/-- CPOP: it waits for both entries, and only then looks for a marker among them (R130, R225). -/
def execCpop (cd q : Nat) (s : State) : Host.Outcome State Fault Refusal :=
  .next (issue {} false (fun s =>
    let c := core s
    let x := queueAt s q
    if badPop x s.cl || x.kind != .tile || x.depth < 2 then qproto q s
    else if !allHere 2 x then waitFor 2 (.pop q) s
    else if (x.ents.take 2).contains .marker then qproto q s
    else if accPending c cd then waitOn .score s
    else match takeTiles 2 x.ents with
      | some ts =>
        let a : Acc := BitVec.ofNat 262144 (joinTiles ts)
        unstruck q 2 (fun s => retire [] (onCore (fun c => retain (.load cd a) { c with c := fput c.c cd a, badAcc := c.badAcc.filter fun n => n != cd })
          (setQueue s q (popN_ x 2)))) s
      | none => waitOn (.pop q) s) s)

/-- CSCL (R226). -/
def execCscl (cd sa : Nat) (s : State) : Host.Outcome State Fault Refusal :=
  .next (issueLate { rs := [sa] } (fun hit s =>
    let c := core s
    let x := readS (clu s) sa
    if x.pois then fault cPOISON 0 s
    else if hit then fault cMEMERR 0 s
    else if accPending c cd then waitOn .score s
    else if c.badAcc.contains cd then fault cMEMERR cd s
    else retire [] (onCore (fun c => retain (.scl cd x.val) { c with c := winStep c.c (.scl cd x.val) }) s)) s)

/-! ### Budget units (R231, R469) -/

/-- TBUDG (R231). -/
def execTbudg (sd : Nat) (s : State) : Host.Outcome State Fault Refusal :=
  .next (issue { ws := [sd] } false (fun s =>
    retire [landS 1 sd { val := BitVec.ofNat 32 (min 65535 (core s).budget + s.interval % 65536 * 65536) }] s) s)

/-- The units of a core in an interval, from its bench's allotment B (R469). -/
def unitsOf (b interval core : Nat) : Nat :=
  b / 4 + b2n (decide ((core + 4 - interval % 4) % 4 < b % 4))

/-- BUDGET_INTERVAL: the next interval's units; each bench's B of 0-32 is firmware's choice (notes/assumptions/19.md). -/
def execBudgetInterval (s : State) : Host.Outcome State Fault Refusal :=
  let i := s.interval + 1
  .next { s with interval := i, free := s.free + 128,
                 cores := loopN (fun n cs => fput cs n { fget ({} : Core) cs n with
                   budget := unitsOf (Config.free (s.free + n / 4) % 33) i (n % 4) }) 512 s.cores }

/-! ### Window replay (R229, R230, R441, R442) -/

/-- The accumulator that a fault in the array strikes: that of the oldest word in flight, else of the latest retained, else c0; the spec does
not say which (DESIGN CHOICE, notes/assumptions/49.md). -/
def struckAcc (c : Core) : Nat :=
  match c.mma with
  | o :: _ => o.acc
  | [] => match c.win.getLast? with
    | some (.mma o) => o.acc
    | some (.scl n _) => n
    | some (.load n _) => n
    | some (.clear n) => n
    | none => 0

/-- Restores the checkpoint and reissues the retained words in order. -/
def replayCore (c : Core) : Core := { c with mma := [], c := c.win.foldl winStep c.winSave }

/-- A replay of core `n` for a fault of `code` at accumulator `acc`. It takes 1 to 4 attempts, a free number; a window
that overflowed, or whose four attempts fail, leaves the accumulator damaged. With ERRMODE 1 the die's firmware core gets the record too
(R443). -/
def replay (code acc n : Nat) (s : State) : State :=
  let (r, s) := freeVal s
  let c := coreAt s n
  let fails := c.winOver || decide (r % 5 = 4)
  let rc := BitVec.ofNat 256 (n % 65536 + code * 2 ^ 16 + (min 4 (r % 5 + 1)) * 2 ^ 24 + c.winTag * 2 ^ 32
    + c.win.length * 2 ^ 48 + s.ns % 2 ^ 64 * 2 ^ 64)
  let s := if c.winOver then s
    else
      let s := traceOut { s with replayLog := addLog s.replayLog (dieOf n) rc } n 7 clM (code + c.winTag * 2 ^ 32)
      if errmode c then notify (dieOf n) (.replay rc) s else s
  let c := coreAt s n
  setCoreAt s n (if fails then { finishMma c with badAcc := acc :: c.badAcc } else replayCore (finishMma c))

/-- WINDOW_REPLAY: the fault that the outside reports at the head of the inputs; without one, a residue check (code 1) of
the core whose turn it is. -/
def execWindowReplay (s : State) : Host.Outcome State Fault Refusal :=
  match s.inputs with
  | .trip n true :: r =>
    .next (replay 2 (struckAcc (coreAt s n)) n { s with inputs := r, power := { s.power with trips := min 65535 (s.power.trips + 1) } })
  | .soft n (.acc a) :: r => .next (replay 3 a n { s with inputs := r })
  | _ => .next (replay 1 (struckAcc (core s)) s.cur s)

end Sys2Proof.Machine
end

