-- ==== Sys2Proof/Machine/Graph.lean ====
section
/-! DEFINITION. The graph image and the kernels in it, as a launch reads them (spec/18_dispatch.md R415-R419,
spec/11_kernel.md R301-R304), the start of a tile (spec/03_model.md R55, R80), and page-table writes by the device
(spec/15_page.md R367). -/

namespace Sys2Proof.Machine

/-! ### Page-table writes -/

/-- The entry at device address `a`, with a table under it: a pointer to a new table is written where none is valid. The frame of a new
table is taken whether or not the tier has a free one: the spec gives no outcome for a table without room (DESIGN CHOICE,
notes/assumptions/49.md). -/
def tableAt (s : State) (level a : Nat) : Nat × State :=
  let e := devNat s a 8
  if ptrBad level e then
    let (f, s) := takeFrame s 0
    (f * 65536, devPuts s a (leBytes 8 (1 + f * 65536)))
  else (fld e 51 12 * 4096, s)

/-- Writes the level-2 leaf of a 64 KiB page, making the tables above it (R365-R367). -/
def mapPage (s : State) (ctx page leaf : Nat) : State :=
  let (t1, s) := tableAt s 0 ((ctxAt s ctx).ptroot * 65536 + 8 * (page / 4194304))
  let (t2, s) := tableAt s 1 (t1 + 8 * (page / 512 % 8192))
  devPuts s (t2 + 8 * (page % 512)) (leBytes 8 leaf)

/-- Writes the level-1 leaf of a 32 MiB page. -/
def mapBig (s : State) (ctx page leaf : Nat) : State :=
  let (t1, s) := tableAt s 0 ((ctxAt s ctx).ptroot * 65536 + 8 * (page / 4194304))
  devPuts s (t1 + 8 * (page / 512 % 8192)) (leBytes 8 leaf)

/-! ### Reading the graph image -/

/-- Why a launch cannot read what it needs: the image is not sealed or breaks its rules, a node does not exist, or an
access fails with a code of R166 (R310, R415, R421). -/
inductive LErr where
  | unlinked | badcode | bus (code addr : Nat)
deriving DecidableEq, Repr, Inhabited

/-- The code of R166 that a failed access of memory has. -/
def busCode : Chk → Nat × Nat
  | .memfault a => (1, a)
  | .miss p => (1, p * 65536)
  | .prot a => (2, a)
  | .vaultx a => (3, a)
  | .memerr a => (4, a)
  | .ok => (0, 0)

/-- Reads `n` bytes of a context's address space for the device. -/
def devRead (s : State) (ctx va n : Nat) : Except LErr Nat :=
  match chkSpace s ctx [] va n false with
  | .ok => .ok (spaceNat s ctx [] va n)
  | c => .error (.bus (busCode c).1 (busCode c).2)

/-- Field of `n` bytes at byte `o` of an entry. -/
def fieldAt (e o n : Nat) : Nat := e / 256 ^ o % 256 ^ n

/-- A node-table entry (R416). -/
structure Node where
  obj : Nat
  kind : Nat
  order : Nat
  ksym : Nat
  args : Nat
  kctl : Nat
  ni : Nat
  nj : Nat
  nk : Nat
  minb : Nat
  want : Nat
  workers : Nat
deriving DecidableEq, Repr, Inhabited

/-- The node of an entry's 64 bytes. -/
def nodeOf (e : Nat) : Node :=
  { obj := fieldAt e 0 2, kind := fieldAt e 2 1, order := fieldAt e 3 1, ksym := fieldAt e 4 4, args := fieldAt e 8 8,
    kctl := fieldAt e 16 4, ni := fieldAt e 20 4, nj := fieldAt e 24 4, nk := fieldAt e 28 4, minb := fieldAt e 32 2,
    want := fieldAt e 34 2, workers := fieldAt e 36 1 }

/-- Whether a node-table entry keeps R416. -/
def nodeOk (nobj : Nat) (e : Nat) : Bool :=
  let n := nodeOf e
  let cnt := fun (x : Nat) => decide (1 ≤ x) && decide (x ≤ 16777216)
  decide (n.obj < nobj) && decide (n.kind ≤ 2) && decide (n.order % 8 ≤ 5) && !bitAt n.order 3 && n.args % 64 == 0
    && decide (n.kctl < 32) && (n.kind != 0 || (cnt n.ni && cnt n.nj && cnt n.nk && decide (n.ni * n.nj * n.nk ≤ 2 ^ 32 - 1)))
    && decide (1 ≤ n.minb) && decide (n.minb ≤ 128) && decide (n.minb ≤ n.want) && decide (n.want ≤ 128)
    && (if n.kind = 1 then decide (1 ≤ n.workers) && decide (n.workers ≤ 4) else n.workers == 0) && e / 256 ^ 37 == 0

/-- The header of a context's graph image (R415). -/
def graphHead (s : State) (ctx : Nat) : Except LErr Nat := devRead s ctx (ctxAt s ctx).graph.toNat 128

/-- Reads a node of a sealed image: UNLINKED without a seal or where the entry breaks R416, BADCODE at or above NNODE
(R310, R415, R421). -/
def readNode (s : State) (ctx idx : Nat) : Except LErr Node := do
  let h ← graphHead s ctx
  if fieldAt h 8 4 ≤ idx then .error .badcode
  else if fieldAt h 112 4 ≠ 1 then .error .unlinked
  else do
    let e ← devRead s ctx ((ctxAt s ctx).graph.toNat + fieldAt h 32 8 + 64 * idx) 64
    if nodeOk (fieldAt h 4 2) e then .ok (nodeOf e) else .error .unlinked

/-- The number of nodes of the image; 0 where the header cannot be read. -/
def nodeCount (s : State) (ctx : Nat) : Nat := match graphHead s ctx with | .ok h => fieldAt h 8 4 | .error _ => 0

/-- The edges of the image as (FROM, TO) pairs; UNLINKED where one breaks R415. -/
def readEdges (s : State) (ctx : Nat) : Except LErr (List (Nat × Nat)) := do
  let h ← graphHead s ctx
  (List.range (fieldAt h 12 4)).mapM fun i => do
    let e ← devRead s ctx ((ctxAt s ctx).graph.toNat + fieldAt h 40 8 + 8 * i) 8
    if fieldAt e 4 4 ≤ fieldAt e 0 4 || fieldAt h 8 4 ≤ fieldAt e 4 4 then .error .unlinked
    else .ok (fieldAt e 0 4, fieldAt e 4 4)

/-- The patch points of a node in table order: SRC, INDEX, OFFSET (R417). -/
def readPatches (s : State) (ctx node : Nat) : Except LErr (List (Nat × Nat × Nat)) := do
  let h ← graphHead s ctx
  let all ← (List.range (fieldAt h 16 4)).mapM fun i => devRead s ctx ((ctxAt s ctx).graph.toNat + fieldAt h 48 8 + 16 * i) 16
  let mine := all.filter fun e => fieldAt e 0 2 == node
  if mine.any fun e => decide (3 ≤ fieldAt e 2 1) || fieldAt e 4 4 % 4 != 0 || decide (65536 ≤ fieldAt e 4 4)
      || fieldAt e 8 8 != 0 || decide ((if fieldAt e 2 1 = 0 then 128 else 8) ≤ fieldAt e 3 1) && fieldAt e 2 1 != 2
  then .error .unlinked
  else .ok (mine.map fun e => (fieldAt e 2 1, fieldAt e 3 1, fieldAt e 4 4))

/-- A section-table entry (R302). -/
def readSection (s : State) (ctx obj tab i : Nat) : Except LErr Nat := devRead s ctx (obj + tab + 32 * i) 32

/-- A queue declaration of a descriptor, with its depth d and slack s (R303). -/
def queueDecl (e : Nat) : Queue × Nat × Nat :=
  ({ declared := bitAt e 0, prod := fieldAt e 1 1 % 4, cons := fieldAt e 1 1 / 4 % 4,
     kind := match fieldAt e 2 1 with | 0 => .word | 1 => .vec | _ => .tile }, fieldAt e 4 2, fieldAt e 6 2)

/-- What a kernel descriptor declares, and its queues' least depths and slacks. -/
structure Descr where
  kern : Kernel
  depths : List (Nat × Nat × Nat)
deriving DecidableEq, Repr, Inhabited

/-- A kernel's object and the index of its descriptor section are found through a symbol of the image (R304). -/
structure ObjView where
  at_ : Nat
  sects : List Nat
deriving DecidableEq, Repr, Inhabited

/-- Object `i` of a context's image: where it lies, and its section table (R301, R302, R415). -/
def readObj (s : State) (ctx i : Nat) : Except LErr ObjView := do
  let h ← graphHead s ctx
  let g := (ctxAt s ctx).graph.toNat
  let oe ← devRead s ctx (g + fieldAt h 24 8 + 16 * i) 16
  let o := g + fieldAt oe 0 8
  let oh ← devRead s ctx o 96
  let sects ← (List.range (fieldAt oh 4 2)).mapM (readSection s ctx o (fieldAt oh 16 8))
  .ok { at_ := o, sects := sects }

/-- The section of a kind that an object has at most once. -/
def theSect (v : ObjView) (kind : Nat) : Option Nat := v.sects.find? fun e => fieldAt e 0 1 == kind

/-- Symbol `i` of an object. -/
def readSym (s : State) (ctx : Nat) (v : ObjView) (i : Nat) : Except LErr Nat :=
  match theSect v 4 with
  | none => .error .unlinked
  | some st => if fieldAt st 16 8 / 24 ≤ i then .error .unlinked else devRead s ctx (v.at_ + fieldAt st 8 8 + 24 * i) 24

/-- A string of an object, up to its zero byte. -/
def readStr (s : State) (ctx a : Nat) : Nat → Except LErr (List Nat)
  | 0 => .ok []
  | n + 1 => do
    let b ← devRead s ctx a 1
    if b = 0 then .ok [] else do
      let r ← readStr s ctx (a + 1) n
      .ok (b :: r)

/-- The name of a symbol. -/
def symName (s : State) (ctx : Nat) (v : ObjView) (sy : Nat) : Except LErr (List Nat) :=
  match theSect v 5 with
  | none => .error .unlinked
  | some st => readStr s ctx (v.at_ + fieldAt st 8 8 + fieldAt sy 0 4) (fieldAt st 16 8 - fieldAt sy 0 4)

/-- The definitions with a name in an object: object, symbol and whether it is strong. -/
def defsIn (s : State) (ctx obj : Nat) (name : List Nat) : Except LErr (List (ObjView × Nat × Bool)) := do
  let v ← readObj s ctx obj
  let n := match theSect v 4 with | some st => fieldAt st 16 8 / 24 | none => 0
  let ds ← (List.range n).mapM fun i => do
    let sy ← readSym s ctx v i
    if fieldAt sy 4 1 = 1 || fieldAt sy 4 1 = 2 then do
      let x ← symName s ctx v sy
      .ok (if x = name then [(v, sy, fieldAt sy 4 1 == 1)] else [])
    else .ok []
  .ok ds.flatten

/-- The object and symbol that a kernel symbol stands for: itself where it is local, else the definition of its name that
links chose: the first strong one in load order, or else the first (R308). A symbol that is no kernel's is UNLINKED (R415). -/
def resolveKernel (s : State) (ctx obj ksym : Nat) : Except LErr (ObjView × Nat) := do
  let v ← readObj s ctx obj
  let sy ← readSym s ctx v ksym
  if fieldAt sy 5 1 ≠ 0 then .error .unlinked
  else if fieldAt sy 4 1 = 0 then .ok (v, sy)
  else do
    let name ← symName s ctx v sy
    let h ← graphHead s ctx
    let ds ← (List.range (fieldAt h 4 2)).mapM fun i => defsIn s ctx i name
    match (ds.flatten.find? fun d => d.2.2) <|> ds.flatten.head? with
    | some d => .ok (d.1, d.2.1)
    | none => .error .unlinked

/-- The kernel that the symbol at index `ksym` of object `obj` names (R303, R304, R308, R416). -/
def readKernel (s : State) (ctx obj ksym : Nat) : Except LErr Descr := do
    let (v, sy) ← resolveKernel s ctx obj ksym
    let o := v.at_
    let sects := v.sects
    let k := fieldAt sy 6 2
    match sects[k]? with
    | none => .error .unlinked
    | some ds => do
      let d0 := o + fieldAt ds 8 8
      let d ← devRead s ctx d0 256
      let exts ← (List.range (fieldAt d 216 4)).mapM fun i => devRead s ctx (d0 + 256 + 16 * i) 16
      let qs := (List.range 16).map fun i => (i, queueDecl (fieldAt d (8 + 8 * i) 8))
      let qs := qs.filter fun x => x.2.1.declared
      .ok { kern := {
              streams := (sects.filter fun e => fieldAt e 0 1 == 1 && fieldAt e 2 2 == k).map fun e =>
                (fieldAt e 1 1, BitVec.ofNat 64 (o + fieldAt e 8 8), fieldAt e 16 8 / 4),
              queues := qs.map fun x => (x.1, x.2.1),
              hsem := (List.range 12).map fun i => (i, { val := fieldAt d (136 + i) 1 % 16, ceil := fieldAt d (136 + i) 1 / 16 }),
              fmt := (List.range 16).map fun i => (i, BitVec.ofNat 32 (fieldAt d (152 + 4 * i) 4 % 2 ^ 13)),
              exts := (exts.filter fun e => !bitAt (fieldAt e 8 4) 0).map fun e => fieldAt e 4 4 },
            depths := qs.map fun x => (x.1, x.2.2) }

/-- The rows of a node's unpinned extents (R387). -/
def unpinnedRows (k : Kernel) : Nat := (k.exts.map rowsOf).foldl (· + ·) 0

/-- The rows that unpinned extents may take at the present point (R393). -/
def unpinnedRoom (s : State) : Nat := Config.guaranteed s.power.point - 1536

/-- A Suspended context keeps a node with unpinned rows that the bands of the target point take: a step there waits for it
(R395, R401; notes/assumptions/33.md). -/
def keepsBand (s : State) (r : NodeRun) : Bool :=
  (ctxAt s r.ctx).st == .suspended && decide (Config.guaranteed s.power.target - 1536 < unpinnedRows r.kern)

/-- Bytes of an element of a queue. -/
def qBytes (k : QKind) : Nat := match k with | .word => 4 | .vec => 2048 | .tile => 16384

/-- The launch fault QSPACE: the least depths need more than 256 KiB (R68). -/
def qspace (d : Descr) : Bool :=
  decide (262144 < (List.zipWith (fun q x => x.2.1 * qBytes (q : Nat × Queue).2.kind) d.kern.queues (d.depths : List (Nat × Nat × Nat))).foldl (· + ·) 0)

/-- The kernel with a depth D from d to d + s for each queue, which the translator chooses (R68;
notes/assumptions/21.md). -/
def chooseDepths (d : Descr) (s : State) : Kernel × State :=
  ({ d.kern with queues := List.zipWith (fun q (x : Nat × Nat × Nat) =>
      ((q : Nat × Queue).1, { q.2 with depth := x.2.1 + Config.free (s.free + x.1) % (x.2.2 + 1) })) d.kern.queues d.depths },
   { s with free := s.free + 16 })

/-! ### Tasks and the start of a tile -/

/-- The walker's tasks of a walked node in ascending t: (i, j, k, t) (R419). -/
def walk (n : Node) : List (Nat × Nat × Nat × Nat) :=
  let ax := match n.order % 8 with
    | 0 => (n.ni, n.nj, n.nk) | 1 => (n.ni, n.nk, n.nj) | 2 => (n.nj, n.ni, n.nk)
    | 3 => (n.nj, n.nk, n.ni) | 4 => (n.nk, n.ni, n.nj) | _ => (n.nk, n.nj, n.ni)
  let back := fun (x0 x1 x2 : Nat) => match n.order % 8 with
    | 0 => (x0, x1, x2) | 1 => (x0, x2, x1) | 2 => (x1, x0, x2)
    | 3 => (x2, x0, x1) | 4 => (x1, x2, x0) | _ => (x2, x1, x0)
  let b := 2 ^ (n.order / 16)
  let pts := (List.range ((ax.1 + b - 1) / b)).flatMap fun band =>
    (List.range ax.2.1).flatMap fun x1 =>
      (List.range (min ax.1 ((band + 1) * b) - band * b)).flatMap fun d =>
        (List.range ax.2.2).map fun x2 => back (band * b + d) x1 x2
  pts.zipIdx.map fun (p, t) => (p.1, p.2.1, p.2.2, t)

/-- A scalar without poison. -/
def plain (n : Nat) : Scalar := { val := BitVec.ofNat 32 n }

/-- A cluster at tile start (R54, R55, R80). -/
def startClu (base : Addr) (words : Nat) (s1 s2 s3 s4 s5 : Nat) (args : Addr) : Clu :=
  { active := true, pc := base, base := base, words := words,
    s := [(1, plain s1), (2, plain s2), (3, plain s3), (4, plain s4), (5, plain s5)],
    a := [(1, args)] }

/-- A core without a tile: caches, lookaside entries, trap frames, the budget and the trace counts are all that it keeps from one tile
to the next (R55). -/
def freshCore (c : Core) : Core :=
  { l1 := c.l1, look := c.look, trctl := c.trctl, kctl := c.kctl, budget := c.budget, frames := c.frames,
    nextCmd := c.nextCmd, issued := c.issued,
    syncTime := c.syncTime, traced := c.traced, lost := c.lost, lostTime := c.lostTime }

/-- A core at the start of a tile (R55, R80, R211, R218, R227): everything that a tile owns starts afresh. -/
def startCore (c : Core) (k : Task) (kern : Kernel) (kctl : Word) (s1 s2 s3 s4 s5 : Nat) : Core :=
  let c := { freshCore c with
    busy := true, task := k, kctl := kctl, q := kern.queues, h := kern.hsem, fmt := kern.fmt,
    clu := kern.streams.foldl (fun f x => fput f x.1 (startClu x.2.1 x.2.2 s1 s2 s3 s4 s5 k.args)) [] }
  mark 0 c

/-- Every active stream of a kernel has a Valid entry on a die (R312). -/
def translated (s : State) (ctx die : Nat) (kern : Kernel) : Bool :=
  kern.streams.all fun x => s.xlates.any fun e => e.ctx == ctx && e.die == die && e.base == x.2.1 && e.st == .valid

/-- Looks the streams of a kernel up on a die (R311-R313). -/
def lookStreams (s : State) (ctx die : Nat) (kern : Kernel) : State := kern.streams.foldl (fun s x => lookStream s ctx die x.2) s

/-- A tile starts on core `n` (R55, R80): its streams are looked up afresh (R315), and what earlier tiles released is
seen (R407), by a sibling all that its forker stored (R263). -/
def startTile (s : State) (n : Nat) (k : Task) (kern : Kernel) (kctl : Word) (s1 s2 s3 s4 : Nat) : State :=
  let s := dropClean (fun x => !x.kindU || !k.sib.isEmpty) n (kern.streams.foldl (fun s x => lookCode n k.ctx s x.2) s)
  let s := setCoreAt s n (startCore (coreAt s n) k kern kctl s1 s2 s3 s4 (n % 4))
  let s := { s with runs := lmap (fun r => r.id == k.run) (fun r => { r with live := r.live + 1 }) s.runs }
  traceOut s n 8 3 ((ctxidOf k.ctx k.sib).toNat + s4 % 2 ^ 32 * 2 ^ 32)

/-- Whether a core is free for a tile. -/
def coreFree (s : State) (n : Nat) : Bool := !(coreAt s n).busy

/-- A launch holds a bench; a gang's own bench only until its last tile there has ended, but not one that joined its grant for a gang that
its siblings forked (R424, R425). -/
def holdsBench (s : State) (b : Nat) (r : NodeRun) : Bool :=
  r.benches.contains b && (r.gang.isNone || !r.tasks.isEmpty || r.joined.contains b
    || (List.range 4).any fun i => let c := coreAt s (4 * b + i); c.busy && c.task.run == r.id)

/-- The benches that a context's nodes hold and have not been asked to give back (R355, R424, R425). -/
def heldBenches (s : State) (ctx : Nat) : List Nat :=
  (s.runs.filter fun r => r.ctx == ctx).flatMap fun r => r.benches.filter fun b => !r.giving.contains b && holdsBench s b r

/-- The free cores of some benches, in ascending order. -/
def freeCores (s : State) (bs : List Nat) : List Nat :=
  (List.range 512).filter fun n => bs.contains (n / 4) && coreFree s n && !s.outVaults.contains (n / 4)

end Sys2Proof.Machine
end

