-- ==== Sys2Proof/Machine/Image.lean ====
section
/-! DEFINITION. The bytes of a cluster's saved state, of a continuation slot and of a trap frame
(spec/14_group.md R362, spec/19_traps.md R433-R435), and a sibling's state read back from its slot (R363). -/

namespace Sys2Proof.Machine

/-- The code of a landing record's kind (R434). -/
def kindCode : RegKind → Nat
  | .s => 0 | .a => 1 | .v => 2 | .p => 3

/-- A landing record of 16 bytes; `buf` is the next free entry of the landing buffer (R434). -/
def landBytes (l : Land) (buf : Nat) : List Byte :=
  let big := l.kind == .v || l.kind == .p
  leBytes 4 (kindCode l.kind + l.reg * 2 ^ 8 + l.remain * 2 ^ 16 + (if l.kind = .s then b2n (l.pois.getLsbD 0) else 0) * 2 ^ 24)
    ++ leBytes 4 0 ++ leBytes 8 (if big then buf % 16 else l.bits.toNat % 2 ^ 64)

/-- Landing records in producer order, 12 places. -/
def landsBytes : List Land → Nat → List Byte
  | [], _ => []
  | l :: r, buf => landBytes l buf ++ landsBytes r (if l.kind = .v || l.kind = .p then buf + 1 else buf)

/-- The 32 bytes of a loop level (R362). -/
def loopBytes (k : Clu) (n : Nat) : List Byte :=
  let l := loopAt k n
  leBytes 8 l.start.toNat ++ leBytes 8 l.last.toNat ++ leBytes 4 l.count ++ leBytes 4 (fget 0 k.l n).toNat
    ++ leBytes 4 (b2n l.active + 2 * b2n l.rot + 4 * b2n l.stream + 16 * (l.queue % 16)) ++ leBytes 4 0

/-- The 640-byte block of a cluster, with its landing records `ls` (R362, R434); zero for an inactive one. -/
def clusterBlock (k : Clu) (ls : List Land) : List Byte :=
  if !k.active then List.replicate 640 0
  else
    let ls := ls.take 12
    ((List.range 32).flatMap fun i => leBytes 4 (fget {} k.s i).val.toNat)
      ++ leBytes 4 (packN 1 (fun i => b2n (fget {} k.s i).pois) 32)
      ++ leBytes 4 (lstatOf k).toNat ++ leBytes 8 k.pc.toNat
      ++ ((List.range 16).flatMap fun i => leBytes 8 (fget 0 k.a i).toNat)
      ++ ((List.range 4).flatMap (loopBytes k))
      ++ leBytes 4 ls.length ++ List.replicate 12 0
      ++ landsBytes ls 0 ++ List.replicate (16 * (12 - ls.length)) 0 ++ List.replicate 32 0

/-- The handshake counters as bytes (R362). -/
def hsBytes (h : File HCnt) : List Byte :=
  (List.range 12).map fun i => BitVec.ofNat 8 ((fget {} h i).val % 16 + (fget {} h i).ceil % 16 * 16)

/-- A continuation slot of 4,096 bytes: pending vector and matrix results are dropped (R362). -/
def slotBytes (c : Core) : List Byte :=
  ((List.range 4).flatMap fun i =>
      clusterBlock (cluAt c i) ((cluAt c i).pend.filter fun l => l.kind == .s || l.kind == .a))
    ++ hsBytes c.h ++ leBytes 4 c.kctl.toNat ++ List.replicate 1520 0

/-- A landing record read back. -/
def landOf (e : Nat) : Land :=
  { kind := if fieldAt e 0 1 = 1 then .a else .s, reg := fieldAt e 1 1, remain := fieldAt e 2 1,
    bits := BitVec.ofNat 16384 (if fieldAt e 0 1 = 1 then fieldAt e 8 8 else fieldAt e 8 4),
    pois := BitVec.ofNat 512 (fieldAt e 3 1 % 2), mask := BitVec.allOnes 512 }

/-- A loop level read back. -/
def loopOf (e : Nat) : Loop :=
  let f := fieldAt e 24 4
  { active := bitAt f 0, rot := bitAt f 1, stream := bitAt f 2, queue := fld f 7 4,
    start := BitVec.ofNat 64 (fieldAt e 0 8), last := BitVec.ofNat 64 (fieldAt e 8 8), count := fieldAt e 16 4 }

/-- A cluster as its block restores it (R363). No closing branch is due, not even where it resumes past the last word of an active
loop: that level stays active (R125, R505). -/
def restoreClu (k : Clu) (e : Nat) : Clu :=
  { k with
    pc := BitVec.ofNat 64 (fieldAt e 136 8)
    s := (List.range 32).map fun i => (i, { val := BitVec.ofNat 32 (fieldAt e (4 * i) 4), pois := bitAt (fieldAt e 128 4) i })
    a := (List.range 16).map fun i => (i, BitVec.ofNat 64 (fieldAt e (144 + 8 * i) 8))
    l := (List.range 4).map fun i => (i, BitVec.ofNat 32 (fieldAt e (272 + 32 * i + 20) 4))
    loops := (List.range 4).map fun i => (i, loopOf (fieldAt e (272 + 32 * i) 32))
    pend := (List.range (min 12 (fieldAt e 400 4))).map fun i => landOf (fieldAt e (416 + 16 * i) 16) }

/-- A core whose tile restarts from its slot: V, M, queue and window-map state stay as a tile start gives them (R363). -/
def restoreCore (c : Core) (slot : Nat) : Core :=
  { c with
    clu := c.clu.map fun k => (k.1, restoreClu k.2 (fieldAt slot (640 * k.1) 640))
    h := (List.range 12).map fun i => (i, { val := fieldAt slot (2560 + i) 1 % 16, ceil := fieldAt slot (2560 + i) 1 / 16 })
    kctl := BitVec.ofNat 32 (fieldAt slot 2572 4 % 32) }

/-- The sequence number of the oldest hole of a queue, all ones when it has none (R435). -/
def holeSeq (q : Queue) : Nat :=
  match q.ents.findIdx? fun e => match e with | .hole _ => true | _ => false with
  | some i => (q.cseq + BitVec.ofNat 32 i).toNat
  | none => 0xFFFFFFFF

/-- A queue's 16-byte record of the cut; the waits of producer and consumer are those of the frame's clusters (R435). -/
def cutBytes (f : Frame) (n : Nat) : List Byte :=
  let q := fget {} f.q n
  let waits := fun (c : Nat) (w : Wait) => (fget ({} : Clu) f.clu c).wait == w
  leBytes 4 q.pseq.toNat ++ leBytes 4 q.cseq.toNat ++ leBytes 4 (holeSeq q) ++ leBytes 2 q.depth
    ++ leBytes 2 (b2n q.declared + 2 * b2n (headMarker q) + 4 * b2n (waits q.prod (.push n)) + 8 * b2n (waits q.cons (.pop n)))

/-- The outcome queue of a cluster in a frame (R433). -/
def outqBytes (k : Clu) : List Byte :=
  leBytes 4 (packN 1 (fun i => b2n (k.outq.getD i false)) 32) ++ leBytes 4 k.outq.length

/-- The 4,096 bytes of a trap frame of a level (R433-R435); zero where no trap has written it. -/
def frameBytes (f : Frame) (level : Nat) : List Byte :=
  if f.cause = 0 then List.replicate 4096 0
  else
    leBytes 4 (f.cause + f.cl * 2 ^ 8 + level * 2 ^ 16 + f.flags * 2 ^ 24) ++ leBytes 4 f.info.toNat ++ leBytes 8 f.addr.toNat
      ++ leBytes 8 f.vpc.toNat ++ leBytes 8 f.time ++ leBytes 4 f.ctxid.toNat ++ leBytes 4 f.coreid.toNat
      ++ leBytes 4 f.kctl.toNat ++ leBytes 4 f.window.toNat
      ++ leBytes 4 f.nestCause ++ leBytes 4 f.nestInfo.toNat ++ leBytes 8 f.nestAddr.toNat
      ++ ((List.range 4).flatMap fun i => let k := fget ({} : Clu) f.clu i; clusterBlock k k.pend)
      ++ ((List.range 16).flatMap (cutBytes f))
      ++ hsBytes f.h ++ leBytes 4 0
      ++ ((List.range 4).flatMap fun i => outqBytes (fget ({} : Clu) f.clu i)) ++ List.replicate 1168 0

end Sys2Proof.Machine
end

