-- ==== Sys2Proof/Machine/Control.lean ====
section
/-! DEFINITION. The control instructions on semaphores, barriers, held sets, shadows, queues and engines, with what they
share (spec/09_isa_control.md R232-R262, spec/12_queue.md R336, R337, spec/13_barrier.md): one meaning per instruction. -/

namespace Sys2Proof.Machine

/-! ### What the words share (R232-R236) -/

/-- Issues a control word that reads the scalars `rs` and the address registers `ra` and writes `ws`: POISON is the first
fault of R234. -/
def cIssue (rs ra ws : List Nat) (body : State → State) (s : State) : State :=
  issue { rs := rs, ra := ra, ws := ws } false (fun s =>
    if rs.any fun r => (readS (clu s) r).pois then fault cPOISON 0 s else body s) s

/-- The address that an address register names. -/
def objAddr (a : Nat) (s : State) : Nat := (readA (clu s) a).toNat

/-- Checks 2-5 of R234 for an object of `n` bytes at aA, aligned to `al`, in the vault with bits [63:32] zero (R232); `wr` says that the
word may write it: PROT of a page with W = 0 comes whether or not this word would, which row 4 leaves open where it writes nothing
(DESIGN CHOICE, notes/assumptions/49.md). -/
def onObject (sp wr : Bool) (n al a : Nat) (go : Nat → State → State) (s : State) : State :=
  let ea := objAddr a s
  if ea % al ≠ 0 || (sp && decide (2 ^ 32 ≤ ea)) then fault cALIGN ea s
  else access true sp wr true ea n fault (go ea) s

/-- Reads `n` bytes of an object as a number: a strong access (R233). -/
def objNat (sp : Bool) (n ea : Nat) (s : State) : Nat × State :=
  let (bs, s) := readBytes true sp n ea s
  (leNat bs, s)

/-- Writes `n` bytes of an object: a strong access (R233). -/
def objPut (sp : Bool) (n ea x : Nat) (s : State) : State := storeBytes true sp (leBytes n x) ea s

/-- A releasing word at a scope: what the core has stored weakly is written back, but for held sectors (R233, R406,
R408). -/
def relAt (sc : Scope) (s : State) : State := match sc with | .cl => s | .core => s | _ => releaseAll s
/-- An acquiring word at a scope (R233, R406, R408). -/
def acqAt (sc : Scope) (s : State) : State := match sc with | .cl => s | .core => s | _ => acquireAll s

/-- A scalar result without poison, under the scoreboard (R235). -/
def cResult (d n : Nat) (s : State) : State := retire [] (sbWrite d (plain n) s)

/-- Raises GROUP with a subcode of R269. -/
def groupFault (sub : Nat) (s : State) : State := raise cGROUP (BitVec.ofNat 32 sub) 0 s

/-! ### Semaphores (R237, R347) -/

/-- SSIG (R237). -/
def execSsig (a b : Nat) (sc : Scope) (sp : Bool) (s : State) : Host.Outcome State Fault Refusal :=
  .next (cIssue [b] [a] [] (onObject sp true 8 8 a fun ea s =>
    let n := (readS (clu s) b).val.toNat
    let (w, s) := objNat sp 8 ea s
    if fld w 47 32 < fld w 31 0 + n then fault cSEMOVF ea s
    else retire [] (counts (objPut sp 4 ea (fld w 31 0 + n) (relAt sc s)))) s)

/-- SWAIT (R237). -/
def execSwait (a : Nat) (sc : Scope) (sp : Bool) (s : State) : Host.Outcome State Fault Refusal :=
  .next (cIssue [] [a] [] (onObject sp true 8 8 a fun ea s =>
    let (w, t) := objNat sp 8 ea s
    if fld w 31 0 = 0 then waitOn .object s
    else retire [] (counts (acqAt sc (objPut sp 4 ea (fld w 31 0 - 1) t)))) s)

/-- STRY (R237). -/
def execStry (d a : Nat) (sc : Scope) (sp : Bool) (s : State) : Host.Outcome State Fault Refusal :=
  .next (cIssue [] [a] [d] (onObject sp true 8 8 a fun ea s =>
    let (w, s) := objNat sp 8 ea s
    if fld w 31 0 = 0 then cResult d 0 s
    else cResult d 1 (counts (acqAt sc (objPut sp 4 ea (fld w 31 0 - 1) s)))) s)

/-! ### Held sets (R244-R246, R345, R346) -/

/-- The entries of a list of the hold table, of the context's own objects. -/
def onList (list ctx : Nat) (h : Hold) : Bool := h.list == list && h.ctx == ctx

/-- Writes back every sector of a list, wherever it is dirty; a list of another device is that device's to write
(R246, R346). -/
def writeList (w : Nat) (s : State) : State :=
  if fld w 19 0 = 0 || fld w 55 40 != s.device then s
  else (s.holds.filter (onList (fld w 19 0) (core s).task.ctx)).foldl
    (fun s h => writeBack (fun x => x.key == h.sector) h.core s) s

/-- LIST of a new list: 1 + the least index that no entry of the table uses (R345). -/
def freshList (s : State) : Nat :=
  match firstBelow (fun i => !(s.holds.any fun h => h.list == i + 1)) (s.holds.length + 1) with
  | some i => i + 1
  | none => s.holds.length + 1

/-- The dirty bytes of a sector whose store numbers in `f` are at most `n`. -/
def storesUpTo (n : Nat) (f : File Nat) (x : Sector) : BitVec 64 :=
  BitVec.ofNat 64 (packN 1 (fun i => b2n (x.dirty.getLsbD i && decide (fget 0 f i ≤ n))) 64)

/-- Sectors on a list: one that several cores hold counts once (R345). -/
def listCount (s : State) (list ctx : Nat) : Nat := ((s.holds.filter (onList list ctx)).map fun h => h.sector).eraseDups.length

/-- Where a vault address of a context lies: the pinned extent that holds it and the place there, or the address itself (R346). -/
def extPlace (s : State) (ctx a : Nat) : Option Nat × Nat :=
  let xs := (ctxAt s ctx).exts
  match xs.findIdx? fun e => inRows e && decide (e.base ≤ a) && decide (a < e.base + e.size) with
  | some i => (some i, a - (xs.getD i { size := 0, st := 0, base := 0, gen := 0 }).base)
  | none => (none, a)

/-- REL: the sectors of the core's L1 with a weak store that R72, R73 or program order places before it are listed, and those
stores held; where the table has no room, or the set lies on another device, the sectors are written back at once (R245,
R346). -/
def execRel (a : Nat) (_sc : Scope) (sp : Bool) (s : State) : Host.Outcome State Fault Refusal :=
  .next (cIssue [] [a] [] (onObject sp true 32 32 a fun ea s =>
    let (w, s) := objNat sp 8 (ea + 16) s
    let c := core s
    let n := knows c clC
    let mine := fun (x : Sector) => storesUpTo n x.since x != 0
    let list := if fld w 19 0 = 0 then freshList s else fld w 19 0
    let new := (c.l1.filter mine).filter fun x => !(s.holds.any fun h => h.list == list && h.core == s.cur && h.sector == x.key)
    let s := counts s
    if !c.l1.any mine then retire [] s
    else if (fld w 19 0 != 0 && fld w 55 40 != s.device) || decide (262144 < s.holds.length + new.length) then
      retire [] (writeBack mine s.cur s)
    else
      let (i, o) := if sp then extPlace s c.task.ctx (ea + 16) else (none, ea + 16)
      let s := { s with holds := s.holds ++ new.map fun x =>
        { list := list, core := s.cur, sector := x.key, ctx := c.task.ctx, sib := c.task.sib, vault := sp, ext := i, word := o } }
      let s := onCore (fun c => { c with l1 := lmap mine (fun x => { x with held := x.held ||| storesUpTo n x.stamps x }) c.l1 }) s
      retire [] (objPut sp 8 (ea + 16) (list + min (listCount s list c.task.ctx) (2 ^ 20 - 1) * 2 ^ 20 + s.device * 2 ^ 40) s)) s)

/-- The request of core `id - 1` to another device to write a list back, and to free it for a BINIT. -/
def isPull (id dev list : Nat) (free : Bool) (m : Msg) : Bool :=
  m.core == id && m.dst == dev && (match m.body with | .pull l f _ => l == list && f == free | _ => false)

/-- Goes on once the held set that the word `w` names has been written back: here, or by the device that lists it, which is asked
by a message and waited for; a device that is lost holds nothing any more (R246, R346, R370). -/
def pullList (w : Nat) (free : Bool) (go : State → State) (s : State) : State :=
  let list := fld w 19 0
  let dev := fld w 55 40
  let id := s.cur + 1
  if list = 0 || dev = s.device then go (writeList w s)
  else if s.lostDevs.contains dev then go { s with sent := s.sent.filter fun m => !isPull id dev list free m }
  else match s.sent.find? (isPull id dev list free) with
    | none => waitOn .object (postMsg s dev 0 id (.pull list free false))
    | some m => match m.body with
      | .pull _ _ true => go { s with sent := s.sent.filter fun m => !isPull id dev list free m }
      | _ => waitOn .object s

/-- ACQ: the held set is written back, the core's copies of it are dropped, and later accesses follow (R246). -/
def execAcq (a : Nat) (sc : Scope) (sp : Bool) (s : State) : Host.Outcome State Fault Refusal :=
  .next (cIssue [] [a] [] (onObject sp false 32 32 a fun ea s =>
    let (w, s) := objNat sp 8 (ea + 16) s
    pullList w false (fun s =>
      let keys := (s.holds.filter (onList (fld w 19 0) (core s).task.ctx)).map fun h => h.sector
      let s := dropClean (fun x => fld w 55 40 != s.device || keys.contains x.key) s.cur s
      retire [] (acqAt sc s)) s) s)

/-! ### Barriers (R238-R243, R338-R344) -/

/-- BINIT: the held set is written back and emptied, and the object is written in one step (R238, R346). -/
def execBinit (a b : Nat) (sp : Bool) (s : State) : Host.Outcome State Fault Refusal :=
  .next (cIssue [b] [a] [] (onObject sp true 32 32 a fun ea s =>
    let n := (readS (clu s) b).val.toNat % 2 ^ 14
    let (w, s) := objNat sp 8 (ea + 16) s
    pullList w true (fun s =>
      let ctx := (core s).task.ctx
      let s := if fld w 55 40 != s.device then s
        else { s with holds := s.holds.filter fun h => !onList (fld w 19 0) ctx h }
      retire [] (counts (objPut sp 32 ea (n * 2 ^ 48) (releaseAll s)))) s) s)

/-- The value word and the E bit after an arrival: `v` the value word, `arr` the arrivals before it (R343). -/
def barValue (op : BarOp) (v arr : Nat) (b : Word) : Nat × Bool :=
  let lo := BitVec.ofNat 32 v
  let hi := v / 2 ^ 32 * 2 ^ 32
  match op with
  | .none => (v, false)
  | .add => ((v + b.toNat) % 2 ^ 64, false)
  | .maxu => (hi + (if lo.ult b then b else lo).toNat, false)
  | .fmax => (hi + (max32 lo b).toNat, false)
  | .set => if arr = 0 then (hi + b.toNat, false) else (v, lo != b)

/-- BARV (R241, R343). -/
def execBarv (a b : Nat) (op : BarOp) (sc : Scope) (sp : Bool) (s : State) : Host.Outcome State Fault Refusal :=
  .next (cIssue [b] [a] [] (onObject sp true 32 32 a fun ea s =>
    let y := (readS (clu s) b).val
    let (w, s) := objNat sp 8 ea s
    let (v, s) := objNat sp 8 (ea + 8) s
    if fld w 47 34 = fld w 61 48 then fault cSEMOVF ea s
    else
      let (v2, e) := barValue op v (fld w 47 34) y
      let w1 := setFld w 47 34 (fld w 47 34 + 1)
      let w2 := phaseTest (if e then setFld w1 62 62 1 else w1)
      retire [] (counts (objPut sp 16 ea (w2 + v2 * 2 ^ 64) (relAt sc s)))) s)

/-- BEXP (R239, R241). -/
def execBexp (a b : Nat) (sp : Bool) (s : State) : Host.Outcome State Fault Refusal :=
  .next (cIssue [b] [a] [] (onObject sp true 32 32 a fun ea s =>
    let n := (readS (clu s) b).val.toNat
    let (w, s) := objNat sp 8 ea s
    retire [] (counts (objPut sp 8 ea (phaseTest (setFld w 33 0 (fld w 33 0 + n))) (releaseAll s)))) s)

/-- BWAIT: aA[0] is the phase awaited, at aA − aA[0] (R232, R242). Whatever its scope, what an engine read before the credit that
counted in the phase comes before later loads (R407). -/
def execBwait (a : Nat) (sc : Scope) (sp : Bool) (s : State) : Host.Outcome State Fault Refusal :=
  .next (cIssue [] [a] [] (fun s =>
    let x := objAddr a s
    let ea := x - x % 2
    if fld x 4 1 ≠ 0 || (sp && decide (2 ^ 32 ≤ x)) then fault cALIGN x s
    else access true sp false true ea 32 fault (fun s =>
      let (w, t) := objNat sp 8 ea s
      if fld w 63 63 = x % 2 then retire [] (dropClean (fun _ => true) s.cur (acqAt sc t)) else waitOn .object s) s) s)

/-- BTEST: bits [63:32] of the arrival word (R243). -/
def execBtest (d a : Nat) (sp : Bool) (s : State) : Host.Outcome State Fault Refusal :=
  .next (cIssue [] [a] [d] (onObject sp false 32 32 a fun ea s =>
    let (w, s) := objNat sp 8 ea s
    cResult d (w / 2 ^ 32) s) s)

/-! ### Shadow buffers (R247-R249, R375, R376) -/

/-- The leaf of a 64 KiB page of the executing context, where it stands and its level. -/
def ownLeaf (s : State) (page : Nat) : Option (BitVec 64 × Nat × Nat) :=
  match walkTable s (ctxAt s (core s).task.ctx).ptroot page with
  | .leaf l a n => some (l, a, n)
  | .bad _ _ => none

/-- The frame that the executing tile reads a page through. -/
def ownFrame (s : State) (page : Nat) (l : BitVec 64) : Nat :=
  if leafF l then viewFrame s (core s).task.ctx page (leafPfn l) (core s).task.sib else leafPfn l

/-- The tier of a page's shadow: its own, or HBM4E for a lent frame. -/
def shadowTier (l : BitVec 64) : Nat := if leafTier l = 1 then 1 else 0

/-- The leaf of an ALIAS page: the page's KIND, LU and KEY, with W = 1 and X = 0 (R375). -/
def aliasLeaf (l : BitVec 64) (tier frame : Nat) : Nat :=
  3 + leafKind l * 2 ^ 4 + tier * 2 ^ 9 + b2n (leafLU l) * 2 ^ 11 + leafKey l * 2 ^ 12 + frame * 2 ^ 17

/-- Opens the shadow of one page at a window page (R248). -/
def openShadow (window : Nat) (s : State) (page : Nat) : State :=
  match ownLeaf s page with
  | none => s
  | some (l, a, _) =>
    let k := (core s).task
    let t := shadowTier l
    let (f, s) := takeFrame s t
    let src := ownFrame s page l
    let s := copyFrame s (frameKey (leafTier l) src 0) (frameKey t f 0)
    let s := setLeaf s a (setFld l.toNat 6 6 1)
    let s := mapPage s k.ctx window (aliasLeaf l t f)
    { s with shadows := s.shadows ++ [{ ctx := k.ctx, sib := k.sib, base := BitVec.ofNat 64 (page * 65536), pages := 1,
                                        window := BitVec.ofNat 64 (window * 65536), frames := [f], tier := t }] }

/-- A run of `n` pages that the context maps none of: the first 4 GiB region from a free choice on
(notes/assumptions/4.md). -/
def aliasPlace (s : State) (n : Nat) : Option Nat :=
  let f := Config.free s.free
  (firstBelow (fun i => (List.range n).all fun j => (ownLeaf s ((f + i) % 65536 * 65536 + j)).isNone) 65536).map
    fun i => (f + i) % 65536 * 65536

/-- SHOPEN (R248): it counts for TACK whatever it returns (R437). -/
def execShopen (d a : Nat) (s : State) : Host.Outcome State Fault Refusal :=
  .next (cIssue [] [a] [d] (onObject false true 32 32 a fun ea s =>
    let (e, s) := objNat false 32 ea s
    let base := fieldAt e 0 8
    let n := fieldAt e 8 4
    let ls := (List.range n).map fun i => (base / 65536 + i, ownLeaf s (base / 65536 + i))
    let bad := fun (x : Nat × Option (BitVec 64 × Nat × Nat)) => match x.2 with
      | some (_, _, lv) => decide (2 ^ 32 ≤ x.1) || lv != 2
      | none => true
    let sh := fun (x : Nat × Option (BitVec 64 × Nat × Nat)) => match x.2 with | some (l, _, _) => leafSH l | none => false
    let need := fun (t : Nat) => (ls.filter fun x => match x.2 with | some (l, _, _) => shadowTier l == t | none => false).length
    if fieldAt e 12 4 != 0 || fieldAt e 24 8 != 0 || n = 0 || decide (65536 < n) || base % 65536 != 0 || ls.any bad then
      cResult d 3 (counts s)
    else if ls.any sh then cResult d 1 (counts s)
    else if freeFrames s 0 < need 0 || freeFrames s 1 < need 1 then cResult d 2 (counts s)
    else match aliasPlace s n with
      | none => cResult d 2 (counts s)
      | some w =>
        let s := { writeBack (fun _ => true) s.cur s with free := s.free + 1 }
        let s := (List.range n).foldl (fun s i => openShadow (w + i) s (base / 65536 + i)) s
        let s := objPut false 8 (ea + 16) (w * 65536) s
        cResult d 0 (counts (dropLook s (core s).task.ctx))) s)

/-- The open shadow of a page of a context. -/
def shadowOf (s : State) (ctx page : Nat) : Option Shadow :=
  s.shadows.find? fun x => x.ctx == ctx && x.base.toNat / 65536 == page

/-- Drops every core's clean copies of a frame's sectors. -/
def forgetFrame (s : State) (key : Nat) : State :=
  s.cores.foldl (fun s nc => dropClean (fun x => x.key * 64 / 65536 == key / 65536) nc.1 s) s

/-- Discards a frame: its sectors leave every L1 and the L2, and it is free. -/
def discardFrame (s : State) (tier f : Nat) : State :=
  let k := frameKey tier f 0
  let s := { s with cores := s.cores.map fun c => (c.1, { c.2 with l1 := c.2.l1.filter fun x => x.key * 64 / 65536 != k / 65536 }) }
  freeFrame (l2Drop s k 65536) tier f

/-- Publishes the shadow of one page: a store to every byte of it, to code too (R249, R315, R376, R410). -/
def publishPage (s : State) (page : Nat) : State :=
  let k := (core s).task
  match ownLeaf s page, shadowOf s k.ctx page with
  | some (l, a, _), some x =>
    let f := x.frames.headD 0
    let t := shadowTier l
    let clear := setFld l.toNat 6 6 0
    let s := writeBack (fun y => y.key * 64 / 65536 == frameKey t f 0 / 65536) s.cur s
    let s := forgetFrame s (frameKey t f 0)
    let s := if leafF l then
        let old := ownFrame s page l
        dropFrames k.ctx page t [old] (setView (setLeaf { s with xlates := staleRange (frameKey t old 0) 65536 s.xlates } a clear) k.ctx page f k.sib)
      else setLeaf (discardFrame s (leafTier l) (leafPfn l)) a (setFld (setFld clear 10 9 t) 52 17 f)
    let s := match ownLeaf s (x.window.toNat / 65536) with
      | some (_, w, _) => setLeaf s w 0
      | none => s
    { s with shadows := s.shadows.filter fun y => !(y.ctx == k.ctx && y.base == x.base) }
  | _, _ => s

/-- The queue loads of every core that are on their way have read their bytes (R405, R410). -/
def landLate (s : State) : State := { s with cores := s.cores.map fun nc => (nc.1, { nc.2 with late := [] }) }

/-- PUBL (R249): PROT if any page of the range has SH = 0. No load that an observer began before the swap reads after it what a later
one of the same observer read before (R410). -/
def execPubl (a : Nat) (s : State) : Host.Outcome State Fault Refusal :=
  .next (cIssue [] [a] [] (onObject false false 32 32 a fun ea s =>
    let (e, s) := objNat false 32 ea s
    let p0 := fieldAt e 0 8 / 65536
    let n := fieldAt e 8 4
    let ctx := (core s).task.ctx
    let open_ := fun (i : Nat) => match ownLeaf s (p0 + i) with
      | some (l, _, _) => decide (p0 + i < 2 ^ 32) && leafSH l && (shadowOf s ctx (p0 + i)).isSome
      | none => false
    match firstBelow (fun i => !open_ i) n with
    | some i => fault cPROT ((p0 + i) * 65536) s
    | none =>
      let s := (List.range n).foldl (fun s i => publishPage s (p0 + i)) (landLate (releaseAll s))
      retire [] (counts (dropLook s ctx))) s)

/-! ### Remote enqueue (R250-R252) -/

/-- A delivery message that agent `id` sent: core n has id n + 1, the engine of block n has id 2^20 + n. -/
def isDelivery (id dev n : Nat) (p : Packet) (m : Msg) : Bool :=
  m.core == id && m.dst == dev && (match m.body with | .deliver b _ q _ _ => b == n && q == p | _ => false)

/-- How a delivery by agent `id` of context `ctx` ends: 0 delivered, 1 full, 2 refused, and, for a word that does not wait, 3 no answer;
none while another device has not answered (R250-R252, R456). -/
def deliverFor (id ctx : Nat) (s : State) (dev n : Nat) (p : Packet) : Option (Nat × State) :=
  if dev = s.device then
    match deliver s n ctx { p with dev := s.device } with
    | .ok t => some (0, t)
    | .full => some (1, s)
    | .refused => some (2, s)
  else if s.lostDevs.contains dev then some (2, { s with sent := s.sent.filter fun x => !isDelivery id dev n p x })
  else
    match s.sent.find? (isDelivery id dev n p) with
    | none => none
    | some m => match m.body with
      | .deliver _ _ _ _ (some r) => some (r, { s with sent := s.sent.filter fun x => !isDelivery id dev n p x })
      | _ => none

/-- Sends a delivery to another device, once; `once` says that its agent does not wait beyond the message bound (R250, R252, R453). -/
def sendFor (once : Bool) (id ctx : Nat) (s : State) (dev n : Nat) (p : Packet) : State :=
  if s.sent.any (isDelivery id dev n p) then s else postMsg s dev 0 id (.deliver n ctx p once none)

/-- The block at a device key refuses the context's delivery, as far as this device can tell, or no block stands there (R251): of a block
of another device it knows that none serves from 1,160 on (R323), and that those of a lost device are disabled (R456). -/
def refusedHere (s : State) (k : Nat) : Bool :=
  match blockOfKey s k with
  | none => true
  | some (dev, n, _) => blockDepth n == 0 || (if dev = s.device then refuses s n (core s).task.ctx else s.lostDevs.contains dev)

/-- Goes on with 2 where the block at a device key turns a delivery away, else with 0: another device is asked, and the word waits for its
answer (R251). -/
def askTarget (k : Nat) (go : Nat → State → State) (s : State) : State :=
  match blockOfKey s k with
  | none => go 2 s
  | some (dev, n, _) =>
    let mine := fun (m : Msg) => m.core == s.cur + 1 && m.dst == dev && (match m.body with | .ask b _ => b == n | _ => false)
    if dev = s.device then go 0 s
    else match s.sent.find? mine with
      | none => waitOn .object (postMsg s dev 0 (s.cur + 1) (.ask n none))
      | some m => match m.body with
        | .ask _ (some r) => go r { s with sent := s.sent.filter fun x => !mine x }
        | _ => waitOn .object s

/-- REMQ and REMQT: both objects are checked, the command is read, and the delivery is made; `fin` takes the code 0
delivered, 1 full, 2 refused, 3 no answer. For REMQ a target that R251 rejects comes before an error in the command: of a block of another
device that device is asked (R234). -/
def remoteWord (once : Bool) (a b : Nat) (fin : Nat → State → State) (s : State) : State :=
  let ea := objAddr a s
  let eb := objAddr b s
  if ea % 64 ≠ 0 then fault cALIGN ea s
  else if eb % 16 ≠ 0 then fault cALIGN eb s
  else accessesFirst [{ sp := false, wr := false, rd := false, ea := ea, n := 64 }, { sp := false, wr := false, rd := false, ea := eb, n := 16 }]
    fault (fun s => if !once && refusedHere s (tileKey s ea) then fin 2 s else access true false false true eb 16
        (fun c x s => if once then fault c x s else askTarget (tileKey s ea) (fun r s => if r = 2 then fin 2 s else fault c x s) s) (fun s =>
      let (bs, s) := readBytes true false 16 eb s
      match blockOfKey s (tileKey s ea) with
      | none => fin 2 s
      | some (dev, n, _) =>
        let ctx := (core s).task.ctx
        let s := releaseAll s
        match deliverFor (s.cur + 1) ctx s dev n (packetOf bs) with
        | some (r, t) => fin r t
        | none => waitOn .object (sendFor once (s.cur + 1) ctx s dev n (packetOf bs))) s) s

/-- REMQ (R250, R251): it waits while the target is full. -/
def execRemq (a b : Nat) (s : State) : Host.Outcome State Fault Refusal :=
  .next (cIssue [] [a, b] [] (fun s => remoteWord false a b (fun r s =>
    match r with
    | 0 => retire [] (counts s)
    | 2 => fault cPROT (objAddr a s) s
    | _ => waitOn .object s) s) s)

/-- REMQT (R252). -/
def execRemqt (d a b : Nat) (s : State) : Host.Outcome State Fault Refusal :=
  .next (cIssue [] [a, b] [d] (fun s => remoteWord true a b (fun r s =>
    cResult d r (if r = 0 || r = 3 then counts s else s)) s) s)

/-! ### Work queues (R253, R336, R337) -/

/-- The header of a work queue keeps R336. -/
def wqOk (e : Nat) : Bool :=
  let n := (fieldAt e 4 4 + 2 ^ 32 - fieldAt e 0 4) % 2 ^ 32
  decide (fieldAt e 8 4 ≤ 16) && e / 256 ^ 12 == 0 && decide (n ≤ 2 ^ fieldAt e 8 4)

/-- The address of a record of a work queue. -/
def wqSlot (ea e i : Nat) : Nat := ea + 64 + 16 * (i % 2 ^ fieldAt e 8 4)

/-- The checks and the header of a work-queue word; `wr` says that the record at aB is written. `pick` gives, from HEAD, TAIL and the
ring's size, the index of the ring's record that the word reaches, if it reaches one. The header has to be read to find that record;
after it the checks of both records follow, row by row (R234, R336). Of a WPOP or WSTEAL the record at aB and the header are checked for
W even where the queue is empty and nothing is written (DESIGN CHOICE, notes/assumptions/49.md). -/
def workWord (wr : Bool) (a b : Nat) (pick : Nat → Nat → Nat → Option Nat) (go : Nat → Nat → Nat → State → State) (s : State) : State :=
  let ea := objAddr a s
  let eb := objAddr b s
  if ea % 64 ≠ 0 then fault cALIGN ea s
  else if eb % 16 ≠ 0 then fault cALIGN eb s
  else accessesFirst [{ sp := false, wr := true, rd := true, ea := ea, n := 64, st := true }, { sp := false, wr := wr, rd := false, ea := eb, n := 16 }]
    fault (fun s =>
      let (e, s) := objNat false 64 ea s
      let slot := if wqOk e then pick (fieldAt e 0 4) (fieldAt e 4 4) (2 ^ fieldAt e 8 4) else none
      accesses ({ sp := false, wr := wr, rd := !wr, ea := eb, n := 16, st := true } :: (match slot with
          | some i => [{ sp := false, wr := !wr, rd := wr, ea := wqSlot ea e i, n := 16, st := true }]
          | none => [])) fault (fun s =>
        if wqOk e then go ea eb e s else fault cQPROTO ea s) s) s

/-- WPUSH (R253, R337). -/
def execWpush (a b : Nat) (s : State) : Host.Outcome State Fault Refusal :=
  .next (cIssue [] [a, b] [] (fun s => workWord false a b (fun h t n => if (t + 2 ^ 32 - h) % 2 ^ 32 = n then none else some t) (fun ea eb e s =>
    let h := fieldAt e 0 4
    let t := fieldAt e 4 4
    let at_ := wqSlot ea e t
    if (t + 2 ^ 32 - h) % 2 ^ 32 = 2 ^ fieldAt e 8 4 then waitOn .object s
    else
      let (r, s) := objNat false 16 eb s
      retire [] (counts (objPut false 4 (ea + 4) (t + 1) (objPut false 16 at_ r (releaseAll s))))) s) s)

/-- WPOP and WSTEAL: `pick` gives, from HEAD and TAIL, the record's index and the header's new HEAD and TAIL. -/
def takeRecord (pick : Nat → Nat → Nat × Nat × Nat) (d a b : Nat) (s : State) : State :=
  cIssue [] [a, b] [d] (fun s => workWord true a b (fun h t _ => if h = t then none else some (pick h t).1) (fun ea eb e s =>
    let h := fieldAt e 0 4
    let t := fieldAt e 4 4
    let (i, h1, t1) := pick h t
    let at_ := wqSlot ea e i
    if h = t then cResult d 0 s
    else
      let (r, s) := objNat false 16 at_ s
      let s := objPut false 8 ea (h1 % 2 ^ 32 + t1 % 2 ^ 32 * 2 ^ 32) (objPut false 16 eb r s)
      cResult d 1 (counts (acquireAll s))) s) s

/-- WPOP takes the newest record (R253, R337). -/
def execWpop (d a b : Nat) (s : State) : Host.Outcome State Fault Refusal :=
  .next (takeRecord (fun h t => ((t + 2 ^ 32 - 1) % 2 ^ 32, h, (t + 2 ^ 32 - 1) % 2 ^ 32)) d a b s)
/-- WSTEAL takes the oldest record (R253, R337). -/
def execWsteal (d a b : Nat) (s : State) : Host.Outcome State Fault Refusal :=
  .next (takeRecord (fun h t => (h, (h + 1) % 2 ^ 32, t)) d a b s)

/-! ### Die engines (R254) -/

/-- Submits a command to the die engine; its descriptor stands at aA (R254). -/
def dieWord (op : EngOp) (d a : Nat) (s : State) : State :=
  cIssue [] [a] [d] (fun s =>
    let src := readA (clu s) a
    if engineFull s (dieBlock s) then waitOn .engine s
    else retire [] (counts (submit (dieBlock s) d (fun e => { e with op := op, src := src }) s))) s

/-- COLL (R254, R256). -/
def execColl (d a : Nat) (st : Bool) (s : State) : Host.Outcome State Fault Refusal := .next (dieWord (.coll st) d a s)
/-- UPD (R254, R260). -/
def execUpd (d a : Nat) (s : State) : Host.Outcome State Fault Refusal := .next (dieWord .upd d a s)
/-- MSRCH (R254, R262). -/
def execMsrch (d a : Nat) (s : State) : Host.Outcome State Fault Refusal := .next (dieWord .msrch d a s)

end Sys2Proof.Machine
end

