-- ==== Sys2Proof/Machine/Tile.lean ====
section
/-! DEFINITION. The words on sample groups, the queries, and the words that end a tile, mark a step or leave a handler
(spec/09_isa_control.md R263-R276, spec/14_group.md, spec/19_traps.md R436-R438): one meaning per instruction. -/

namespace Sys2Proof.Machine

/-! ### Sample groups (R263-R269) -/

/-- The index of a sibling path in a group, when it is one of its siblings. -/
def sibIndex (g : Group) (sib : List (Nat × Nat)) : Option Nat :=
  match sib with
  | (u, i) :: _ => if u = g.uid then some i else none
  | [] => none

/-- The executing context forked the group, or is a sibling of it (R265, R266). -/
def isMember (g : Group) (sib : List (Nat × Nat)) : Bool := g.owner == sib || (sibIndex g sib).isSome

/-- A word on the group whose record stands at aA: checks 2-5 of R234, then `go` with the live group, if any. A live
record's bytes are not read; of a released one the word reads the ranges `reads`: first byte and bytes (R353). -/
def groupWord (reads : List (Nat × Nat)) (a : Nat) (go : Nat → Option Group → State → State) (s : State) : State :=
  let ea := objAddr a s
  let g := groupAtRec s (core s).task.ctx (readA (clu s) a)
  let rs := if g.isNone then reads else []
  if ea % 64 ≠ 0 then fault cALIGN ea s
  else accesses ({ sp := false, wr := false, rd := false, ea := ea, n := 640 } :: rs.map fun x =>
    { sp := false, wr := false, rd := true, ea := ea + x.1, n := x.2, st := true }) fault (go ea g) s

/-- Bits of a group descriptor that R351 marks zero, and its ranges (R263). -/
def descBad (e : Nat) : Bool :=
  let n := fieldAt e 12 1
  fieldAt e 0 8 % 64 != 0 || n = 0 || decide (64 < n) || decide (n < fieldAt e 13 1) || fieldAt e 14 2 != 0
    || fieldAt e 16 8 % 65536 != 0 || decide (65536 < fieldAt e 24 4) || fieldAt e 40 8 % 4096 != 0 || fieldAt e 52 12 != 0

/-- EPS in use: 2^−20 where the field is not positive and finite (R351). -/
def epsOf (x : Nat) : Word :=
  if bitAt x 31 || x = 0 || fld x 30 23 = 255 then 0x35800000 else BitVec.ofNat 32 x

/-- The pages of a prompt range that GFORK can fork, or none where it returns sD = 1: each page's leaf, its place, and
the frame that the forker reads (R372). -/
def forkPages (s : State) (p0 n : Nat) : Option (List (Nat × BitVec 64 × Nat × Nat)) :=
  (List.range n).mapM fun i =>
    match ownLeaf s (p0 + i) with
    | some (l, a, 2) => if p0 + i < 2 ^ 32 && !leafSH l && leafTier l != 2 then some (p0 + i, l, a, ownFrame s (p0 + i) l) else none
    | _ => none

/-- Forks the pages: their dirty sectors in the L1s and the L2 are written back, F is set, and each entry of the map starts empty
(R372). -/
def forkOut (s : State) (ps : List (Nat × BitVec 64 × Nat × Nat)) : State :=
  ps.foldl (fun s p =>
    let k := frameKey (leafTier p.2.1) p.2.2.2 0
    let s := s.cores.foldl (fun s nc => writeBack (fun x => x.key * 64 / 65536 == k / 65536) nc.1 s) s
    let s := l2Clean s k 65536
    setLeaf s p.2.2.1 (setFld p.2.1.toNat 8 8 1)) s

/-- A failed walk of the device's own reading of the image is in the fault log (R379). -/
def readLog (s : State) (die ctx : Nat) (e : LErr) : State :=
  match e with
  | .bus _ a => logWalk s die ctx a
  | _ => s

/-- GFORK past its checks: what the forker has stored is written back, held sectors included, so that every sibling sees it (R263);
then the group, its gang and its record (R355). Its PRE is 0 even while a request of R290 is pending, which then does not reach it: R361
does not say (DESIGN CHOICE, notes/assumptions/49.md). -/
def forkGroup (d ea : Nat) (e : Nat) (node : Node) (desc : Descr) (ps : List (Nat × BitVec 64 × Nat × Nat)) (s : State) : State :=
  let k := (core s).task
  let n := fieldAt e 12 1
  let uid := s.nextGroup
  let (kern, s) := chooseDepths desc (writeBack (fun _ => true) s.cur s)
  let dl := fieldAt e 32 8
  let g : Group := {
    uid := uid, ctx := k.ctx, owner := k.sib, record := BitVec.ofNat 64 (fieldAt e 0 8), gid := BitVec.ofNat 32 (fieldAt e 8 4),
    n := n, minN := fieldAt e 13 1, eps := epsOf (fieldAt e 28 4), cont := BitVec.ofNat 64 (fieldAt e 40 8),
    node := fieldAt e 48 4, okey := runKey s, prompt := BitVec.ofNat 64 (fieldAt e 16 8), ppages := ps.length,
    left := if dl = 0 then none else some dl
    maps := ps.map fun p => { page := p.1, orig := p.2.2.2, tier := leafTier p.2.1, copies := [] }
    run := s.nextRun, forker := k.run }
  let r : NodeRun := {
    id := s.nextRun, ctx := k.ctx, node := fieldAt e 48 4, kind := 2, kern := kern, benches := [],
    tasks := (List.range n).map fun i => (i, 0, 0, i), kctl := BitVec.ofNat 32 node.kctl,
    args := BitVec.ofNat 64 node.args, minb := node.minb, gang := some uid }
  let s := forkOut s ps
  let s := { s with groups := s.groups ++ [g], nextGroup := uid + 1, runs := s.runs ++ [r], nextRun := s.nextRun + 1 }
  let _ := ea
  cResult d 0 (counts (dropLook (writeRecordAll s g) k.ctx))

/-- GFORK (R263, R355, R372). -/
def execGfork (d a : Nat) (s : State) : Host.Outcome State Fault Refusal :=
  .next (cIssue [] [a] [d] (fun s =>
    if (core s).level ≠ 0 then fault cILLEGAL 0 s
    else let ea := objAddr a s
    if ea % 64 ≠ 0 then fault cALIGN ea s
    else accessesFirst [{ sp := false, wr := false, rd := true, ea := ea, n := 64, st := true }] fault (fun s =>
      let (e, s) := objNat false 64 ea s
      let k := (core s).task
      let n := fieldAt e 12 1
      let rec_ := fieldAt e 0 8
      let slots := (List.range n).map fun i =>
        { sp := false, wr := true, rd := false, ea := fieldAt e 40 8 + 4096 * i, n := 4096 : Acc1 }
      accesses ([{ sp := false, wr := true, rd := false, ea := rec_, n := 640 }, { sp := false, wr := false, rd := true, ea := rec_, n := 1, st := true }] ++ slots) fault (fun s =>
        if descBad e then groupFault 1 s
        else match readNode s k.ctx (fieldAt e 48 4) with
          | .error e => groupFault 1 (readLog s (dieOf s.cur) k.ctx e)
          | .ok node =>
            let (b, s) := objNat false 1 rec_ s
            if node.kind ≠ 2 then groupFault 1 s
            else if b ≠ 0 || (groupAtRec s k.ctx (BitVec.ofNat 64 rec_)).isSome then groupFault 2 s
            else if s.groups.any fun g => g.ctx == k.ctx && g.gid.toNat == fieldAt e 8 4 then cResult d 2 s
            else if 7 ≤ k.sib.length || (freeCores s (heldBenches s k.ctx)).length < n then cResult d 1 s
            else match readKernel s k.ctx node.obj node.ksym, forkPages s (fieldAt e 16 8 / 65536) (fieldAt e 24 4) with
              | .ok desc, some ps =>
                let need := fun (t : Nat) => (n + 1) * (ps.filter fun p => leafTier p.2.1 == t).length
                if qspace desc || decide (unpinnedRoom s < unpinnedRows desc.kern) || decide (freeFrames s 0 < need 0) || decide (freeFrames s 1 < need 1) then cResult d 1 s
                else forkGroup d ea e node desc ps s
              | .error e, _ => cResult d 1 (readLog s (dieOf s.cur) k.ctx e)
              | _, none => cResult d 1 s) s) s) s)

/-- The state after an accepted reward (R264, R357). -/
def rewardGroup (i : Nat) (r : Word) (g : Group) : Group :=
  let g := { g with reward := fput g.reward i r, arrive := g.arrive ||| (1 <<< i) }
  if covered g then closeGroup g else { g with st := 2 }

/-- GREWD (R264). -/
def execGrewd (d a b : Nat) (s : State) : Host.Outcome State Fault Refusal :=
  .next (cIssue [b] [a] [d] (groupWord [] a fun _ g s =>
    let r := (readS (clu s) b).val
    match g.bind fun g => (sibIndex g (core s).task.sib).map fun i => (g, i) with
    | none => groupFault 3 s
    | some (g, i) =>
      if g.cancel.getLsbD i then cResult d 3 (counts s)
      else if 3 ≤ g.st && g.st ≤ 6 then cResult d 1 (counts s)
      else if g.arrive.getLsbD i then cResult d 2 (counts s)
      else if fld r.toNat 30 23 = 255 then cResult d 4 (counts s)
      else cResult d 0 (counts (releaseGroup (putGroup (releaseAll s) (rewardGroup i r g)) g.uid))) s)

/-- GBAR: it waits until the state is Scored, Failed or Cancelled; a released record is read from its bytes (R265, R353). -/
def execGbar (d a : Nat) (s : State) : Host.Outcome State Fault Refusal :=
  .next (cIssue [] [a] [d] (groupWord [(0, 1), (76, 4)] a fun ea g s =>
    let k := (core s).task
    match g with
    | some g =>
      if !isMember g k.sib then groupFault 3 s
      else if 4 ≤ g.st && g.st ≤ 6 then cResult d g.st (acquireAll s) else waitOn .object s
    | none =>
      let (st, s) := objNat false 1 ea s
      let (o, s) := objNat false 4 (ea + 76) s
      if 4 ≤ st && st ≤ 6 && o = (ctxidOf k.ctx k.sib).toNat then cResult d st (acquireAll s)
      else groupFault 3 s) s)

/-- The group after a cancellation of the siblings of a mask (R266, R357, R502). -/
def cancelGroup (m : BitVec 64) (g : Group) : Group :=
  let g := { g with cancel := g.cancel ||| m, done := if g.started then g.done else g.done ||| m }
  if g.st = 1 || g.st = 2 || g.st = 7 then
    let g := { g with arrive := g.arrive &&& ~~~m }
    let overG := fun (g : Group) =>
      if g.st = 7 then { g with pre := false, wascol := false, done := g.done ||| g.save, save := 0 } else g
    if g.cancel &&& lowMask g.n == lowMask g.n then { overG g with st := 6 }
    else if covered g then closeGroup (overG g) else g
  else g

/-- GCANC (R266). -/
def execGcanc (a b : Nat) (s : State) : Host.Outcome State Fault Refusal :=
  .next (cIssue [b] [a] [] (groupWord [] a fun _ g s =>
    let x := (readS (clu s) b).val.toNat
    match g.filter fun g => isMember g (core s).task.sib with
    | none => groupFault 3 s
    | some g =>
      if x ≠ 0xFFFFFFFF && g.n ≤ x then groupFault 4 s
      else
        let m := if x = 0xFFFFFFFF then lowMask g.n else (1 : BitVec 64) <<< x
        let s := (List.range g.n).foldl (fun s i => if m.getLsbD i then preInner s g i else s) (putGroup s (cancelGroup m g))
        retire [] (counts (releaseGroup s g.uid))) s)

/-- The field of a group record that an item of GQRY names: first byte and bytes (R267, R353). -/
def gqryField (item : Nat) : List (Nat × Nat) :=
  match item with | 0 => [(0, 1)] | 1 => [(3, 1)] | 2 => [(8, 4)] | 3 => [(12, 4)] | 4 => [(32, 4)] | _ => []

/-- GQRY (R267, R353). Item 5 gives the executing sibling's own index whichever group the record is of (DESIGN CHOICE,
notes/assumptions/25.md). -/
def execGqry (d a item : Nat) (s : State) : Host.Outcome State Fault Refusal :=
  .next (cIssue [] [a] [d] (groupWord (gqryField item) a fun ea g s =>
    match gqryField item with
    | x :: _ => match g with
      | some g => cResult d (leNat (((groupBytes g).drop x.1).take x.2)) s
      | none => let (v, s) := objNat false x.2 (ea + x.1) s
                cResult d v s
    | [] => cResult d (match (core s).task.sib with | (_, i) :: _ => i | [] => 0xFFFFFFFF) s) s)

/-- An MMA or MMAT that issued before the cycle of this word has yet to complete (R73, R206). -/
def mmaLeft (s : State) : Bool := decide ((core s).issued < (coreSeen s).issued + (core s).mma.length)

/-- A command of the core whose token no word has read, before the cycle of a rendezvous (R73, R165, R268). -/
def unreadCmd (s : State) : Bool := (coreSeen s).cmds.any fun x => !x.read

/-- A data queue of the core holds an entry, before the cycle of a rendezvous (R73, R268). -/
def queueLeft (s : State) : Bool := (coreSeen s).q.any fun x => !x.2.ents.isEmpty

/-- The other words of the rendezvous of this word have not all done what they do: one waits alone, or a trap of the group is still
to be taken (R73). -/
def groupLate (s : State) : Bool :=
  let c := core s
  !c.treq.isEmpty || ((List.range 4).any fun i => i != s.cl && (cluAt c i).active && (cluAt c i).rvDone)

/-- Saves the sibling's continuation and ends its tile, as one event (R362). Its scoreboarded results land first, and what it has
stored is written back, held sectors included, for its loads on the core where it resumes (R150, R414). -/
def saveSibling (g : Group) (i : Nat) (s : State) : State :=
  let s := onCore (fun c => (List.range 4).foldl (fun c n => landSb n c) c) s
  let s := evictAll (fun _ => true) s.cur s
  let s := deviceWrite s (dieOf s.cur) g.ctx g.owner (g.cont.toNat + 4096 * i) (slotBytes (core s))
  let g := (groupOf s g.uid).getD g
  let g := suspendCheck { g with save := g.save ||| (1 <<< i) }
  preInner (tileOver (putGroup s g) s.cur true) { g with pre := true } i

/-- GYLD (R268, R362, R364). -/
def execGyld (a : Nat) (s : State) : Host.Outcome State Fault Refusal :=
  .next (cIssue [] [a] [] (fun s =>
    if (core s).level ≠ 0 then fault cILLEGAL 0 s
    else groupWord [] a (fun _ g s =>
      if !s.word.getLsbD 30 || queueLeft s || unreadCmd s then groupFault 5 s
      else if groupLate s then waitOn .object s
      else match g.bind fun g => (sibIndex g (core s).task.sib).map fun i => (g, i) with
        | none => groupFault 3 s
        | some (g, i) =>
          if g.cancel.getLsbD i then
            if mmaLeft s then waitOn .array s else tileOver (releaseAll s) s.cur false
          else if g.pre && (g.st = 1 || g.st = 2) then saveSibling g i (retire [] s)
          else if g.pre then
            if mmaLeft s then waitOn .array s else tileOver (releaseAll s) s.cur false
          else retire [] s) s) s)

/-! ### Queries (R270) -/

/-- KiB of a context's pinned extents in rows that point `p` does not map. -/
def unmappedKiB (s : State) (ctx p : Nat) : Nat :=
  ((ctxAt s ctx).exts.filter inRows).foldl (fun n e =>
    let r0 := fld e.base 24 10
    let m := mappedRows s (e.base / 2 ^ 25) p
    n + (r0 + rowsOf e.size - max r0 (min m (r0 + rowsOf e.size)))) 0

/-- VQRY (R270). -/
def execVqry (d b : Nat) (s : State) : Host.Outcome State Fault Refusal :=
  .next (cIssue [b] [] [d] (fun s =>
    let x := (readS (clu s) b).val.toNat
    let p := fld x 10 8
    let v := match fld x 7 0 with
      | 3 => s.power.point
      | i => if 6 ≤ p then 0xFFFFFFFF else match i with
        | 0 => Config.guaranteed p
        | 1 => mappedRows s (s.cur / 4) p
        | 2 => unmappedKiB s (core s).task.ctx p
        | _ => 0xFFFFFFFF
    cResult d v s) s)

/-- ECNT (R270, R468). -/
def execEcnt (d b : Nat) (s : State) : Host.Outcome State Fault Refusal :=
  .next (cIssue [b] [] [d] (fun s =>
    let k := (core s).task
    let ce := (ctxAt s k.ctx).energy
    let ne := match runAt s k.run with | some r => r.energy | none => 0
    let v := match fld (readS (clu s) b).val.toNat 7 0 with
      | 0 => ce % 2 ^ 32 | 1 => ce / 2 ^ 32 % 2 ^ 32
      | 2 => ne % 2 ^ 32 | 3 => ne / 2 ^ 32 % 2 ^ 32
      | 4 => (core s).energy % 2 ^ 32
      | _ => 0xFFFFFFFF
    cResult d v s) s)

/-! ### Ending tiles and steps (R271-R275) -/

/-- The engine commands that issued before the cycle of this word, as they now are, with the tokens that had been read before it
(R73, R165). -/
def cmdsSeen (s : State) : List Cmd :=
  let c := coreSeen s
  ((core s).cmds.filter fun x => decide (x.id < c.nextCmd)).map fun x =>
    { x with read := match c.cmds.find? fun y => y.id == x.id with | some y => y.read | none => x.read }

/-- The failed command that TEND reports: the first to complete whose token no word has read and that no ENGERR has
reported (R271). -/
def tendErr (l : List Cmd) : Option Cmd :=
  (l.filter fun x => x.code != 0 && !x.read && !x.reported).foldl (fun b x =>
    match b with
    | some y => if x.order < y.order then some x else b
    | none => some x) none

/-- TEND: it acts on the core as it stood before the cycle of its rendezvous, after the traps of that rendezvous, and waits for what had
issued before that cycle (R73, R271). -/
def execTend (s : State) : Host.Outcome State Fault Refusal :=
  .next (issue {} false (fun s =>
    let c := coreSeen s
    let ready := s.view.isSome || (clu s).rvDone
      || [clA, clV, clM].all fun i => tendWait c i
    if c.level ≠ 0 then fault cILLEGAL 0 s
    else if !ready || !(core s).treq.isEmpty then waitOn .tend s
    else if (cmdsSeen s).any fun x => !x.done then waitOn .engine s
    else if mmaLeft s then waitOn .array s
    else match (if errmode c then none else tendErr (cmdsSeen s)) with
      | some x => raiseTok (some x.id) cENGERR (BitVec.ofNat 32 x.code) x.addr s
      | none => tileOver (releaseAll s) s.cur false) s)

/-- STEP (R272). -/
def execStep (d : Nat) (s : State) : Host.Outcome State Fault Refusal :=
  .next (issue { ws := [d] } false (fun s =>
    let k := (core s).task
    if (core s).level ≠ 0 then fault cILLEGAL 0 s
    else cResult d ((ctxAt s k.ctx).stepn + 1).toNat
      { s with runs := lmap (fun r => r.id == k.run) (fun r => { r with stepReq := true }) s.runs }) s)

/-- HALT: the tile ends without the checks of TEND, and the context gets no further tile (R273). One with Y = 1 ends the tile at once,
whatever trap or wait another word of its rendezvous has met (DESIGN CHOICE, notes/assumptions/46.md). -/
def execHalt (s : State) : Host.Outcome State Fault Refusal :=
  .next (issue {} false (fun s =>
    let ctx := (core s).task.ctx
    tileOver (haltCtx s ctx 2) s.cur false) s)

/-- SLEEP: C issues nothing for zext(s[d]) cycles (R274). -/
def execSleep (d : Nat) (s : State) : Host.Outcome State Fault Refusal :=
  .next (cIssue [d] [] [] (fun s =>
    let n := (readS (clu s) d).val.toNat
    if n = 0 then retire [] s
    else if (core s).sleep.isSome then waitOn .sleep s
    else waitOn .sleep (onCore (fun c => { c with sleep := some (s.cycle + n) }) s)) s)

/-- SYSC: the code and s6-s9 go to the firmware core of the die; the reply comes to s6 (R275). -/
def execSysc (imm : Nat) (s : State) : Host.Outcome State Fault Refusal :=
  .next (issue { rs := [6, 7, 8, 9], ws := [6] } false (fun s =>
    let k := clu s
    if [6, 7, 8, 9].any fun r => (readS k r).pois then fault cPOISON 0 s
    else if (core s).sysc.isSome then waitOn .firmware s
    else waitOn .firmware (onCore (fun c => { c with
      sysc := some (imm % 2 ^ 19, [6, 7, 8, 9].map fun r => (readS k r).val) }) s)) s)

/-! ### Trap handlers (R276, R437) -/

/-- TACK: ILLEGAL outside a handler and after a word that changes an object, a queue or memory (R276, R437). -/
def execTack (s : State) : Host.Outcome State Fault Refusal :=
  .next (issue {} false (fun s =>
    let c := core s
    if c.level = 0 || !c.tackOk then fault cILLEGAL 0 s
    else if c.tacked then retire [] s
    else
      let f := fget {} c.frames c.level
      retire [] (onCore (fun c => loopN (fun i c =>
          let k := cluAt c i
          putClu c i { k with x := { k.x with frame := BitVec.ofNat 32 (setFld k.x.frame.toNat 4 4 1) } }) 4
        { c with tacked := true, frames := fput c.frames c.level { f with flags := setFld f.flags 4 4 1 } }) s)) s)

/-- TRET: ILLEGAL outside a handler. It overwrites every scalar, and stalls while a result of the handler is on its way to one
(R76, R276, R438). -/
def execTret (s : State) : Host.Outcome State Fault Refusal :=
  .next (issue { ws := List.range 32 } false (fun s => if (core s).level = 0 then fault cILLEGAL 0 s else trapReturn s) s)

end Sys2Proof.Machine
end

