-- ==== Sys2Proof/Machine/Engine.lean ====
section
/-! DEFINITION. The bench engines: acceptance of a command, the copies, gathers, scatters, windows and ENQ, and their
errors (spec/06_isa_access.md R162-R178, spec/12_queue.md R325, R329, spec/15_page.md R377, R381). A command's whole effect comes
about at its completion, move by move in ascending order (notes/assumptions/10.md). -/

namespace Sys2Proof.Machine

/-! ### Accesses of an engine -/

/-- An engine error: its code (R166, R254) and the failing address. -/
abbrev EngErr := Nat × Nat

/-- Codes of R166 and R254. -/
def eTRANS : Nat := 1
/-- BADCMD. -/
def eBADCMD : Nat := 5
/-- BADTGT. -/
def eBADTGT : Nat := 6
/-- MISALIGN. -/
def eMISALIGN : Nat := 7
/-- LINKLOST. -/
def eLINKLOST : Nat := 8
/-- MISMATCH. -/
def eMISMATCH : Nat := 9
/-- MEMBERLOST. -/
def eMEMBERLOST : Nat := 10
/-- NORMERR. -/
def eNORMERR : Nat := 11
/-- PEERERR. -/
def ePEERERR : Nat := 12

/-- Reads `n` bytes for a command, in the vault or in memory (R146, R168). -/
def engRead (s : State) (e : EngCmd) (v : Bool) (a n : Nat) : Except EngErr (List Byte) :=
  match chkAny s e.ctx e.sib e.run v (a % 2 ^ 64) n false with
  | .ok => .ok (anyBytes s e.ctx e.sib v (a % 2 ^ 64) n)
  | c => .error (busCode c)

/-- Reads `n` bytes for a command as a number. -/
def engNat (s : State) (e : EngCmd) (v : Bool) (a n : Nat) : Except EngErr Nat := (engRead s e v a n).map leNat

/-- The pages of an access that went through stay in the lookaside arrays of the engine that acts and of its die (R377), and their frames
count as encrypted under their key slots' pairs (R371). -/
def touch (e : EngCmd) (v : Bool) (a n : Nat) (s : State) : State :=
  match s.via with
  | none => s
  | some x => if v then s else (pagesOf (a % 2 ^ 64) n).foldl (fun t pa => match findLeaf t e.ctx pa.1 with
      | .leaf l _ _ => keepHeld x e.ctx pa.1 l (sealLeaf e.ctx l.toNat 1 (if x < 128 then keepHeld (128 + x / 32) e.ctx pa.1 l t else t))
      | .bad _ _ => t) s

/-- Writes bytes for a command in pieces that no sector boundary divides, up to the first that fails: the state, the
bytes written and the error (R166). -/
def engWrite (e : EngCmd) (v : Bool) : Nat → Nat → List Byte → State → State × Nat × Option EngErr
  | 0, _, _, s => (s, 0, none)
  | f + 1, a, bs, s =>
    let a := a % 2 ^ 64
    let k := min bs.length (64 - a % 64)
    if k = 0 then (s, 0, none)
    else match chkAny s e.ctx e.sib e.run v a k true with
      | .ok =>
        let (t, n, x) := engWrite e v f (a + k) (bs.drop k) (anyPuts (touch e v a k s) e.ctx e.sib v a (bs.take k))
        (t, n + k, x)
      | c => (s, 0, some (busCode c))

/-- Writes a list of pieces in order, up to the first that fails. -/
def engWrites (e : EngCmd) (v : Bool) : List (Nat × List Byte) → State → State × Nat × Option EngErr
  | [], s => (s, 0, none)
  | (a, bs) :: r, s =>
    match engWrite e v (bs.length + 1) a bs s with
    | (t, n, some x) => (t, n, some x)
    | (t, n, none) =>
      let (u, m, x) := engWrites e v r t
      (u, n + m, x)

/-- One move of a command: what it reads first, if anything (space, address, bytes), what that becomes, and where it is
written. A move without bytes to write only reads. -/
structure Piece where
  src : Option (Bool × Nat × Nat)
  out : List Byte → List Byte
  dst : Nat

/-- Makes the moves of a command in order, up to the first that fails: each page is translated when a move reaches it, and
the bytes already written stay (R166, R381). -/
def runPieces (e : EngCmd) (v : Bool) : List Piece → State → State × Nat × Option EngErr
  | [], s => (s, 0, none)
  | p :: r, s =>
    match (match p.src with | none => (.ok [] : Except EngErr (List Byte)) | some (x, a, n) => engRead s e x a n) with
    | .error x => (s, 0, some x)
    | .ok bs =>
      let s := match p.src with | none => s | some (x, a, n) => touch e x a n s
      match engWrite e v ((p.out bs).length + 1) p.dst (p.out bs) s with
      | (t, n, some x) => (t, n, some x)
      | (t, n, none) =>
        let (u, m, x) := runPieces e v r t
        (u, n + m, x)

/-- A step of a plan: one move, or the reading of a table index at `a` and the moves, or the error, that its value leads to (R173). -/
inductive Move where
  | one (p : Piece) | pick (a : Nat) (f : Nat → Except EngErr (List Piece))

/-- Makes the steps of a plan in order, up to the first that fails. An index is read when its step comes, after the writes of the
steps before it (R173). -/
def runMoves (e : EngCmd) (v : Bool) : List Move → State → State × Nat × Option EngErr
  | [], s => (s, 0, none)
  | m :: r, s =>
    match (match m with
      | .one p => runPieces e v [p] s
      | .pick a f => match (engNat s e false a 4).bind f with
        | .error x => (s, 0, some x)
        | .ok ps => runPieces e v ps (touch e false a 4 s)) with
    | (t, n, some x) => (t, n, some x)
    | (t, n, none) =>
      let (u, m, x) := runMoves e v r t
      (u, n + m, x)

/-- A copy of `n` bytes from `a` to `b`, cut where either side crosses a sector boundary. -/
def copyPieces (x : Bool) : Nat → Nat → Nat → Nat → List Piece
  | 0, _, _, _ => []
  | f + 1, a, b, n =>
    let k := min n (min (64 - a % 64) (64 - b % 64))
    if k = 0 then [] else { src := some (x, a, k), out := id, dst := b } :: copyPieces x f (a + k) (b + k) (n - k)

/-- A failed walk of an engine is recorded in the fault log of its die (R379). -/
def engLog (s : State) (die ctx : Nat) (x : EngErr) : State :=
  if x.1 = eTRANS then logWalk s die ctx x.2 else s

/-- The checks of a command's barrier that come before any byte (R147, R340). -/
def barErr (s : State) (e : EngCmd) : Option EngErr :=
  if !e.hasBar then none
  else match barPlace e.bar with
    | none => some (eBADCMD, 0)
    | some (v, a) =>
      if a % 32 ≠ 0 then some (eMISALIGN, e.bar.toNat)
      else match chkAny s e.ctx e.sib e.run v a 8 true with
        | .ok => none
        | c => some (busCode c)

/-- Some range of one list overlaps some range of the other (R168). -/
def overlaps (x y : List (Nat × Nat)) : Bool :=
  x.any fun p => y.any fun q => p.2 != 0 && q.2 != 0 && decide (p.1 < q.1 + q.2) && decide (q.1 < p.1 + p.2)

/-! ### The operations: the moves that each makes, or its error -/

/-- The moves of a command in order, or the error that ends it before any byte. -/
abbrev Plan := Except EngErr (List Move)

/-- A plan of plain moves. -/
def moves (ps : List Piece) : Plan := .ok (ps.map .one)

/-- CPY (R169). -/
def planCpy (e : EngCmd) : Plan :=
  if e.mode ≠ 0 || (e.sd == e.ss && overlaps [(e.src.toNat, e.count)] [(e.dst.toNat, e.count)]) then .error (eBADCMD, 0)
  else moves (copyPieces e.ss e.count e.src.toNat e.dst.toNat e.count)

/-- CPYT: granule by granule, in the order of the rows (R170). Both sides are aligned to the granule: R147 gives "None" to the source
of CPYD alone (notes/assumptions/10.md). -/
def planCpyt (e : EngCmd) : Plan :=
  let g := 2 ^ (e.mode % 4)
  let rows := e.mode / 4 + 1
  if e.count = 0 || e.count % (rows * g) ≠ 0 then .error (eBADCMD, 0)
  else if e.sd == e.ss && overlaps [(e.src.toNat, e.count)] [(e.dst.toNat, e.count)] then .error (eBADCMD, 0)
  else if e.dst.toNat % g ≠ 0 then .error (eMISALIGN, e.dst.toNat)
  else if e.src.toNat % g ≠ 0 then .error (eMISALIGN, e.src.toNat)
  else
    let cols := e.count / (rows * g)
    moves ((List.range (rows * cols)).map fun i =>
      { src := some (e.ss, e.src.toNat + i * g, g), out := id, dst := e.dst.toNat + (i % cols * rows + i / cols) * g })

/-- Source block, its size and the destination's bytes per element for a MODE of CPYD (R171). -/
def cpydMode (m : Nat) : Option (Blk × Nat × Nat) :=
  match m with
  | 0 => some (.mx, 17, 2) | 1 => some (.mx, 17, 4) | 2 => some (.x, 18, 2) | 3 => some (.x, 18, 4)
  | 4 => some (.e4, 33, 2) | 5 => some (.e4, 33, 4) | _ => none

/-- The 32 elements of a block in a format of `w` bytes, each rounded once (R39, R171). -/
def widen (b : Blk) (w : Nat) (bs : List Byte) : List Byte :=
  (List.range 32).flatMap fun i => leBytes w (rnd (if w = 2 then bf16 else f32) 0 0 (blkElem b (leNat bs) i))

/-- CPYD: block by block (R171). A count of 0 ends before any address is looked at (R165). -/
def planCpyd (e : EngCmd) : Plan :=
  match cpydMode e.mode with
  | none => .error (eBADCMD, 0)
  | some (b, size, w) =>
    let n := e.count / size
    if e.count % size ≠ 0 || (e.sd == e.ss && overlaps [(e.src.toNat, e.count)] [(e.dst.toNat, n * 32 * w)]) then .error (eBADCMD, 0)
    else if e.count ≠ 0 && e.dst.toNat % w ≠ 0 then .error (eMISALIGN, e.dst.toNat)
    else moves ((List.range n).map fun k =>
      { src := some (e.ss, e.src.toNat + k * size, size), out := widen b w, dst := e.dst.toNat + k * 32 * w })

/-- What a gather or scatter's descriptor gives: BASE, IDX, ELEM, PITCH and SKIP (R172). -/
structure Gather where
  base : Nat
  idx : Nat
  elem : Nat
  pitch : Nat
  skip : Bool

/-- The descriptor of a gather or scatter (R172). -/
def readGather (s : State) (e : EngCmd) (at_ : Nat) : Except EngErr Gather :=
  if e.mode ≠ 0 then .error (eBADCMD, 0)
  else if at_ % 32 ≠ 0 then .error (eMISALIGN, at_)
  else do
    let d ← engNat s e false at_ 32
    let elem := fieldAt d 16 4
    if elem = 0 || 65536 < elem || 2 ≤ fieldAt d 24 4 || fieldAt d 28 4 ≠ 0 || e.count % elem ≠ 0 then .error (eBADCMD, 0)
    else if fieldAt d 8 8 % 4 ≠ 0 then .error (eMISALIGN, fieldAt d 8 8)
    else .ok { base := fieldAt d 0 8, idx := fieldAt d 8 8, elem := elem, pitch := fieldAt d 20 4, skip := bitAt (fieldAt d 24 4) 0 }

/-- Where table entry `x` lies; a skip has no place. -/
def Gather.place (d : Gather) (x : Nat) : Option Nat :=
  if d.skip && x == 0xFFFFFFFF then none else some ((d.base + x * d.pitch) % 2 ^ 64)

/-- The indices of a list, from number `i` on, up to the first that cannot be read. -/
def readIndices (s : State) (e : EngCmd) (d : Gather) (i : Nat) : Nat → List Nat
  | 0 => []
  | n + 1 => match engNat s e false (d.idx + 4 * i) 4 with
    | .ok x => x :: readIndices s e d (i + 1) n
    | .error _ => []

/-- The steps of a gather or scatter: element by element its index is read, and then `f` gives the element's own moves (R173). -/
def gatherMoves (e : EngCmd) (d : Gather) (f : Nat → Nat → Except EngErr (List Piece)) : List Move :=
  (List.range (e.count / d.elem)).map fun i => .pick (d.idx + 4 * i) (f i)

/-- The moves of one element, unless its place in the table overlaps the contiguous side (R168, R173). -/
def tableMoves (e : EngCmd) (d : Gather) (side a : Nat) (ps : List Piece) : Except EngErr (List Piece) :=
  if e.sd == e.ss && overlaps [(a, d.elem)] [(side, e.count)] then .error (eBADCMD, 0) else .ok ps

/-- The ranges of the table that a gather or scatter names as its index list stands. -/
def tableRanges (s : State) (e : EngCmd) (d : Gather) : List (Nat × Nat) :=
  (readIndices s e d 0 (e.count / d.elem)).filterMap fun x => (d.place x).map fun a => (a, d.elem)

/-- LDG: the table is in the space SS, the contiguous side in SD (R173). -/
def planLdg (s : State) (e : EngCmd) : Plan :=
  if e.mode = 0 && e.count = 0 then moves [] else do
  let d ← readGather s e e.src.toNat
  if e.sd == e.ss && overlaps (tableRanges s e d) [(e.dst.toNat, e.count)] then .error (eBADCMD, 0)
  else .ok (gatherMoves e d fun i x => match d.place x with
    | none => .ok [{ src := none, out := fun _ => List.replicate d.elem 0, dst := e.dst.toNat + i * d.elem }]
    | some a => tableMoves e d e.dst.toNat a (copyPieces e.ss d.elem a (e.dst.toNat + i * d.elem) d.elem))

/-- STS: the table is in the space SD, the contiguous side in SS (R173). -/
def planSts (s : State) (e : EngCmd) : Plan :=
  if e.mode = 0 && e.count = 0 then moves [] else do
  let d ← readGather s e e.dst.toNat
  if e.sd == e.ss && overlaps [(e.src.toNat, e.count)] (tableRanges s e d) then .error (eBADCMD, 0)
  else .ok (gatherMoves e d fun i x => match d.place x with
    | none => .ok []
    | some a => tableMoves e d e.src.toNat a (copyPieces e.ss d.elem (e.src.toNat + i * d.elem) a d.elem))

/-- WMCPY: element by element; coordinates outside the tensor give zeros (R175, R178). -/
def planWmcpy (e : EngCmd) : Plan :=
  if e.mode ≠ 0 then .error (eBADCMD, 0)
  else if e.org == .block && e.count == 0 then moves []
  else
    let m := e.map.toNat
    let esz := fieldAt m 8 1
    let ax := fun (n o k : Nat) => fieldAt m (16 + 12 * n + o) k
    let el := 2 ^ (esz % 4)
    let l := fun (n : Nat) => ax n 2 2
    let base := fieldAt m 0 8
    let sp := bitAt (fieldAt m 9 1) 0
    if 4 ≤ esz || 2 ≤ fieldAt m 9 1 || fieldAt m 10 6 ≠ 0 || ([0, 1, 2, 3].any fun n => ax n 7 1 == 0)
        || e.count ≠ l 0 * l 1 * l 2 * l 3 * el then .error (eBADCMD, 0)
    else if e.count ≠ 0 && base % el ≠ 0 then .error (eMISALIGN, base)
    else
      let place := fun (i : Nat) =>
        let x := fun (n w : Nat) => sgn 16 (ax n 4 2) + (w : Int) * (ax n 7 1 : Nat)
        let xs : Nat → Int := fun n => match n with
          | 0 => x 0 (i % l 0) | 1 => x 1 (i / l 0 % l 1) | 2 => x 2 (i / (l 0 * l 1) % l 2) | _ => x 3 (i / (l 0 * l 1 * l 2))
        if ((List.range 4).all fun n => decide (0 ≤ xs n) && decide (xs n < (ax n 0 2 : Nat))) then
          some (((base : Int) + (List.range 4).foldl (fun t n => t + xs n * sgn 32 (ax n 8 4)) 0) % 2 ^ 64).toNat
        else none
      let ps := (List.range (e.count / el)).map place
      if e.sd == sp && overlaps (ps.filterMap fun p => p.map fun a => (a, el)) [(e.dst.toNat, e.count)] then .error (eBADCMD, 0)
      else moves (ps.zipIdx.map fun p => match p.1 with
        | none => { src := none, out := fun _ => List.replicate el 0, dst := e.dst.toNat + p.2 * el }
        | some a => { src := some (sp, a, el), out := id, dst := e.dst.toNat + p.2 * el })

/-- The moves of a command of a bench engine. -/
def planOf (s : State) (e : EngCmd) : Plan :=
  match e.op with
  | .cpy => planCpy e
  | .cpyt => planCpyt e
  | .cpyd => planCpyd e
  | .wmcpy => planWmcpy e
  | .ldg => planLdg s e
  | .sts => planSts s e
  | _ => .error (eBADCMD, 0)

/-! ### Running a command -/

/-- The OP code of an operation (R162). -/
def opCode : EngOp → Nat
  | .cpy => 0 | .cpyt => 1 | .cpyd => 2 | .wmcpy => 3 | .ldg => 4 | .sts => 5
  | .coll st => b2n st | .upd => 2 | .msrch => 3 | .enq => 8

/-- The operation of an OP code; a reserved one is refused before it runs. -/
def opOf (n : Nat) : EngOp :=
  match n with | 0 => .cpy | 1 => .cpyt | 2 => .cpyd | 3 => .wmcpy | 4 => .ldg | _ => .sts

/-- Ends a command of block `n` with an error, after `w` bytes. -/
def failCmd (s : State) (n : Nat) (e : EngCmd) (op w : Nat) (x : EngErr) : State :=
  let die := if n < 128 then n / 32 else n - 128
  finish (engLog s die e.ctx x) n e op x.1 w w (BitVec.ofNat 64 x.2)

/-- Runs a copy, gather, scatter or window command of block `n` to its end (R165, R166). Where several errors apply, the first
found ends it: the command words and the operand record, the barrier, then MODE, count, overlap and alignment of its operation, and then
its moves in order (notes/assumptions/10.md). -/
def runCopy (s : State) (n : Nat) (e : EngCmd) (op : Nat) : State :=
  match e.pre <|> barErr s e with
  | some x => failCmd s n e op 0 x
  | none => match planOf s e with
    | .error x => failCmd s n e op 0 x
    | .ok ps => match runMoves e e.sd ps s with
      | (s, w, some x) => failCmd s n e op w x
      | (s, w, none) => finish s n e op 0 w w 0

/-- An ENQ whose 16 bytes have been read: it ends (`ok`), by its delivery or with an error, or it waits while the target is
full (`error`) (R174). -/
def runEnq (s : State) (n : Nat) (e : EngCmd) : Except State State :=
  let op := opCode .enq
  match chkMapped s e.ctx e.dst.toNat 64 false with
  | .ok =>
    let va := e.dst.toNat
    let key := match findLeaf s e.ctx (va / 65536) with
      | .leaf l _ _ => readKey s e.ctx e.sib (va / 65536) l (va % 65536)
      | .bad _ _ => 0
    match blockOfKey s key with
    | some (dev, b, 0) =>
      let p := packetOf (leBytes 16 e.map.toNat)
      match deliverFor (2 ^ 20 + n) e.ctx s dev b p with
      | some (0, t) => .ok (finish t n e op 0 16 16 0)
      | some (2, t) => .ok (failCmd t n e op 0 (eBADTGT, va))
      | some (_, t) => .error t
      | none => .error (sendFor false (2 ^ 20 + n) e.ctx s dev b p)
    | _ => .ok (failCmd s n e op 0 (eBADTGT, va))
  | c => .ok (failCmd s n e op 0 (busCode c))

/-- A memory-mapped command as its engine accepts it: the operand record, and a window map, are read now (R162, R163,
R325). -/
def acceptRaw (s : State) (n : Nat) (p : Packet) : EngCmd :=
  let b := blockAt s n
  let w2 := p.w2.toNat
  let op := fld w2 18 16
  let e : EngCmd := { org := .block, op := opOf op, ctx := b.owner, count := p.w0.toNat % 2 ^ 24, mode := p.w0.toNat / 2 ^ 24,
                      sd := bitAt w2 19, ss := bitAt w2 20, tag := p.w3.toNat / 2 ^ 24, dev := p.dev }
  let bad := w2 / 2 ^ 22 != 0 || p.w3.toNat % 2 ^ 24 != 0 || decide (6 ≤ op)
  if !b.ov then { e with pre := some (eBADCMD, 0) }
  else match engNat s e false (w2 % 2 ^ 16 * 2 ^ 32 + p.w1.toNat / 32 * 32) 32 with
    | .error x => { e with pre := some (if bad then (eBADCMD, 0) else x) }
    | .ok r =>
      let e := { e with dst := BitVec.ofNat 64 (fieldAt r 0 8), src := BitVec.ofNat 64 (fieldAt r 8 8),
                        bar := BitVec.ofNat 64 (fieldAt r 16 8), hasBar := bitAt w2 21 }
      if bad || fieldAt r 24 8 ≠ 0 then { e with pre := some (eBADCMD, 0) }
      else if op ≠ 3 || e.count = 0 then e
      else if e.src.toNat % 64 ≠ 0 then { e with pre := some (eMISALIGN, e.src.toNat) }
      else match engNat s e false e.src.toNat 64 with
        | .error x => { e with pre := some x }
        | .ok m => { e with map := BitVec.ofNat 512 m }

/-- The first entry of a queue that its engine has not accepted. -/
def nextCmd? (b : Block) : Option QCmd := b.cmds.find? fun c => match c with | .taken _ => false | _ => true

/-- Removes the first entry equal to `c`. -/
def dropCmd (s : State) (n : Nat) (c : QCmd) : State :=
  let b := blockAt s n
  setBlock s n { b with cmds := b.cmds.erase c }

/-- Replaces the first entry equal to `c`, which the engine has accepted, by the accepted command. -/
def takeCmd (s : State) (n : Nat) (c : QCmd) (e : EngCmd) : State :=
  let b := blockAt s n
  setBlock s n { b with cmds := b.cmds.replace c (.taken e) }

/-- Retries the ENQs that wait inside the engine of block `n`, in order, until one ends. -/
def retryEnqs (n : Nat) : List QCmd → State → State × Bool
  | [], s => (s, false)
  | c :: r, s => match c with
    | .taken e => if e.op = .enq then
        match runEnq (dropCmd s n c) n e with
        | .ok t => (t, true)
        | .error _ => match runEnq s n e with
          | .error t => retryEnqs n r t
          | .ok _ => retryEnqs n r s
      else retryEnqs n r s
    | _ => retryEnqs n r s

/-- A barrier address that points into the vault. -/
def barVault (a : Addr) : Bool := match barPlace a with | some (true, _) => true | _ => false

/-- A memory-mapped command names a vault address: a side, its barrier, or a window's tensor (R395). -/
def namesVault (s : State) (n : Nat) (p : Packet) : Bool :=
  if n < 128 then
    let e := acceptRaw s n p
    e.sd || e.ss || (e.hasBar && barVault e.bar) || (e.op == .wmcpy && e.map.getLsbD 72)
  else
    let e : EngCmd := { org := .block, op := .upd, ctx := (blockAt s n).owner }
    let at_ := p.w2.toNat % 2 ^ 16 * 2 ^ 32 + p.w1.toNat / 64 * 64
    let bar := fun (o : Nat) => match engNat s e false (at_ + o) 8 with
      | .ok a => barVault (BitVec.ofNat 64 a)
      | .error _ => false
    match fld p.w2.toNat 17 16 with
    | 2 => bar 32
    | 3 => false
    | _ => bar 24

/-- A command that was submitted during an operating-point step and names a vault address is held in its queue (R395). -/
def stepHolds (s : State) (n : Nat) : QCmd → Bool
  | .raw p => s.power.pend && fget 0 s.power.early n == 0 && namesVault s n p
  | _ => false

/-- Block `n` takes one of the commands that stood in its queue when the step was requested (R395). -/
def useEarly (s : State) (n : Nat) : State :=
  { s with power := { s.power with early := fput s.power.early n (fget 0 s.power.early n - 1) } }

/-- The first UPD that stands in an engine; later ones wait behind it (R260). -/
def firstUpd (b : Block) : Option EngCmd :=
  b.cmds.findSome? fun c => match c with | .taken e => if e.op = .upd then some e else none | _ => none

/-- A UPD waits in the queue behind one that stands in the update engine (R260). -/
def behindUpd (s : State) (n : Nat) (c : QCmd) : Bool :=
  (firstUpd (blockAt s n)).isSome && (match c with
    | .raw p => fld p.w2.toNat 17 16 == 2
    | .cmd e => e.op == .upd
    | .taken _ => false)

/-- The next command of block `n`, when it satisfies `p`: the first that neither an operating-point step nor a UPD before it holds (R260,
R395). -/
def nextFor (s : State) (n : Nat) (p : QCmd → Bool) : Option QCmd :=
  ((blockAt s n).cmds.find? fun c => (match c with | .taken _ => false | _ => true) && !stepHolds s n c && !behindUpd s n c).filter p

/-- The context in whose address space a command of block `n` runs. -/
def cmdSpace (s : State) (n : Nat) : QCmd → Nat
  | .raw _ => (blockAt s n).owner
  | .cmd e => e.ctx
  | .taken e => e.ctx

/-- A walk of a command's context runs on the die of block `n`: the command waits for it (R379; notes/assumptions/15.md). -/
def walkAhead (s : State) (n : Nat) (c : QCmd) : Bool :=
  s.walks.any fun w => w.die == (if n < 128 then n / 32 else n - 128) && w.ctx == cmdSpace s n c

/-- A step of the engine whose lookaside array is `a` (R377). -/
def actAs (a : Nat) (f : State → State) (s : State) : State := { f { s with via := some a } with via := none }

/-- The other devices that lend frames to a context and are not lost (R370). -/
def lendersOf (s : State) (ctx : Nat) : List Nat :=
  (((leavesOf s ctx).filter fun l => fld l.2.2.2 10 9 == 2 && !queueFrame (BitVec.ofNat 64 l.2.2.2)).map fun l => fld l.2.2.2 52 17 / 2 ^ 20).eraseDups.filter fun d =>
    d != s.device && !s.lostDevs.contains d

/-- What became of the request of block `n`'s next command to lender `d`, if there is one: none while no answer has come (R370). -/
def lentAnswer (s : State) (n d : Nat) : Option (Option Bool) :=
  s.sent.findSome? fun m => if m.core == 2 ^ 20 + n && m.dst == d then (match m.body with | .lent _ _ a => some a | _ => none) else none

/-- A command of block `n` acts by `go` once every lender of its context has answered a request of it, or has not within its time: those
are out of its reach (R370, R453, R456). The model asks them all, whichever the command needs (notes/assumptions/15.md). -/
def lentFirst (n ctx : Nat) (go : State → State) (s : State) : State :=
  match lendersOf s ctx with
  | [] => go s
  | ds =>
    match ds.filter fun d => (lentAnswer s n d).isNone with
    | [] =>
      if ds.any fun d => lentAnswer s n d == some none then s
      else
        let own := fun (m : Msg) => m.core == 2 ^ 20 + n && (match m.body with | .lent _ _ _ => true | _ => false)
        { go { s with cutOff := ds.filter (fun d => lentAnswer s n d == some (some false)), sent := s.sent.filter fun m => !own m } with cutOff := [] }
    | us => us.foldl (fun s d => postMsg s d 1 (2 ^ 20 + n) (.lent 0 0 none)) s

/-- Block `n` takes its next command, when it satisfies `p` and no walk and no lender holds it, by `f`. -/
def takeNext (p : QCmd → Bool) (n : Nat) (f : QCmd → State → State) (s : State) : State :=
  match nextFor s n p with
  | none => s
  | some c =>
    if walkAhead s n c then s
    else lentFirst n (cmdSpace s n c) (fun s => actAs n (f c) (if s.power.pend then useEarly s n else s)) s

/-- Accepts a command of block `n`: a copy runs to its end, an ENQ reads its bytes and delivers or waits. -/
def acceptCmd (n : Nat) (c : QCmd) (s : State) : State :=
  match c with
  | .raw q => runCopy (dropCmd s n c) n (acceptRaw s n q) (fld q.w2.toNat 18 16)
  | .cmd e =>
    if e.op = .enq then
      match e.pre <|> barErr s e with
      | some x => failCmd (dropCmd s n c) n e (opCode .enq) 0 x
      | none => match engNat s e false e.src.toNat 16 with
        | .error x => failCmd (dropCmd s n c) n e (opCode .enq) 0 x
        | .ok m =>
          let e1 := { e with map := BitVec.ofNat 512 m }
          match runEnq (dropCmd s n c) n e1 with
          | .ok t => t
          | .error _ => takeCmd s n c e1
    else runCopy (dropCmd s n c) n e (opCode e.op)
  | .taken _ => s

/-- Accepts the next command of block `n` when it satisfies `p`. -/
def acceptNext (p : QCmd → Bool) (n : Nat) (s : State) : State := takeNext p n (acceptCmd n) s

/-- ENGINE_COMPLETION: at the engine of the block whose turn it is, an ENQ that waited ends, or else the next command of
a word, or a packet of a reserved OP, completes (R165). -/
def execEngineCompletion (s : State) : Host.Outcome State Fault Refusal :=
  let (r, done) := retryEnqs s.cur (blockAt s s.cur).cmds { s with via := some s.cur }
  let t := { r with via := none }
  .next (if done then t else acceptNext (fun c => match c with
    | .cmd _ => true
    | .raw p => decide (6 ≤ fld p.w2.toNat 18 16)
    | .taken _ => false) t.cur t)

/-- A memory-mapped command with an OP code completes, when it is the next of its block (R162, R163). -/
def rawTurn (op : Nat) (s : State) : State :=
  acceptNext (fun c => match c with | .raw p => fld p.w2.toNat 18 16 == op | _ => false) s.cur s

/-- ENGINE_CPY (R169). -/
def execEngineCpy (s : State) : Host.Outcome State Fault Refusal := .next (rawTurn 0 s)
/-- ENGINE_CPYT (R170). -/
def execEngineCpyt (s : State) : Host.Outcome State Fault Refusal := .next (rawTurn 1 s)
/-- ENGINE_CPYD (R171). -/
def execEngineCpyd (s : State) : Host.Outcome State Fault Refusal := .next (rawTurn 2 s)
/-- ENGINE_WMCPY: the window map is read from memory (R163, R178). -/
def execEngineWmcpy (s : State) : Host.Outcome State Fault Refusal := .next (rawTurn 3 s)
/-- ENGINE_LDG (R173). -/
def execEngineLdg (s : State) : Host.Outcome State Fault Refusal := .next (rawTurn 4 s)
/-- ENGINE_STS (R173). -/
def execEngineSts (s : State) : Host.Outcome State Fault Refusal := .next (rawTurn 5 s)

end Sys2Proof.Machine
end

