-- ==== Sys2Proof/Machine/DieEngine.lean ====
section
/-! DEFINITION. The die engines: collectives over the rank tree, the update engine and the mask search
(spec/09_isa_control.md R254-R262, spec/10_context.md R285-R288, spec/12_queue.md R332, spec/02_numbers.md R48). -/

namespace Sys2Proof.Machine

/-! ### Collectives (R255-R258) -/

/-- Bytes of an element of a COLL type (R255). -/
def collSize (ty : Nat) : Nat := if ty = 1 || ty = 2 then 2 else 4
/-- The format of a floating-point COLL type (R255). -/
def collFmt (ty : Nat) : Fmt := match ty with | 1 => bf16 | 2 => f16 | _ => f32

/-- Splits bytes into `n` little-endian elements. -/
def elems (w n : Nat) (bs : List Byte) : List Word :=
  let a := bs.toArray
  (List.range n).map fun i => BitVec.ofNat 32 (leNat ((List.range w).map fun j => a.getD (w * i + j) 0))

/-- The errors of a member's own COLL descriptor, of `n` members (R255-R258, R340). -/
def collBad (d n : Nat) (st : Bool) : Bool :=
  let op := fieldAt d 20 1
  let ty := fieldAt d 21 1
  let cnt := fieldAt d 16 4
  fieldAt d 44 20 != 0 || cnt = 0 || decide (268435456 < cnt) || decide (6 < op) || decide (3 < ty) || (op == 3 && ty == 3)
    || (st && op != 0 && op != 3) || (op == 4 && cnt % n != 0) || (op == 6 && decide (n ≤ fieldAt d 22 2))

/-- Bytes that a member's RECV takes (R256). -/
def recvBytes (op ty cnt n : Nat) : Nat :=
  collSize ty * (match op with | 4 => cnt / n | 5 => n * cnt | _ => cnt)

/-- A member's SEND overlaps its RECV or its STATS (R168); a broadcast reads ROOT's SEND only. -/
def collOverlap (d n rank : Nat) (st : Bool) : Bool :=
  let op := fieldAt d 20 1
  let w := collSize (fieldAt d 21 1)
  !(op == 6 && rank != fieldAt d 22 2) && overlaps [(fieldAt d 0 8, w * fieldAt d 16 4)]
    ((fieldAt d 8 8, recvBytes op (fieldAt d 21 1) (fieldAt d 16 4) n) :: if st then [(fieldAt d 32 8, 8)] else [])

/-- Reads `n` bytes sector by sector, each page when it is reached (R381). -/
def engReads (s : State) (e : EngCmd) : Nat → Nat → Nat → Except EngErr (List Byte)
  | 0, _, _ => .ok []
  | f + 1, a, n =>
    let k := min n (64 - a % 64)
    if k = 0 then .ok []
    else do
      let x ← engRead s e false a k
      let r ← engReads s e f (a + k) (n - k)
      .ok (x ++ r)

/-- A member's own error before its RECV and STATS, or the elements of its SEND (R258, R381): one in its command words is the first. -/
def collOwn (s : State) (e : EngCmd) (d n rank : Nat) (st : Bool) : Except EngErr (Option (List Word)) :=
  if e.pre.isSome || collBad d n st || collOverlap d n rank st then .error (eBADCMD, 0)
  else match barErr s e with
    | some x => .error x
    | none =>
      let ty := fieldAt d 21 1
      let cnt := fieldAt d 16 4
      if fieldAt d 20 1 = 6 && rank ≠ fieldAt d 22 2 then .ok none
      else (engReads s e (collSize ty * cnt) (fieldAt d 0 8) (collSize ty * cnt)).map fun bs => some (elems (collSize ty) cnt bs)

/-- A slot of an endpoint table names members (R285, R286): a slot with V = 1 whose other fields R285 does not allow is taken as not
valid (notes/assumptions/24.md). -/
def slotOk (ep : Nat) : Bool :=
  fieldAt ep 12 4 == 1 && fieldAt ep 4 4 != 0 && decide (fieldAt ep 4 4 ≤ 65536) && decide (fieldAt ep 8 4 < fieldAt ep 4 4)

/-- A member's COLL as its engine accepts it: it ends with its own code, or it joins the k-th collective of its set, here
and at the other devices (R254, R258, R286, R287). A packet of an engine without an owner names no context and joins nothing, one that
breaks R332 ends with BADCMD whatever else fails, and a collective that a link has ended ends for a member that joins it later too. -/
def collAccept (s : State) (n : Nat) (e : EngCmd) (st : Bool) : State :=
  let op := b2n st
  if e.org == .block && !(blockAt s n).ov then failCmd s n e op 0 (eBADCMD, 0)
  else
    if e.src.toNat % 64 ≠ 0 then failCmd s n e op 0 (e.pre.getD (eMISALIGN, e.src.toNat))
    else match engNat s e false e.src.toNat 64 with
      | .error x => failCmd s n e op 0 (e.pre.getD x)
      | .ok d =>
        let set := fieldAt d 40 4
        let e := { e with desc := BitVec.ofNat 768 d, dst := BitVec.ofNat 64 (fieldAt d 8 8),
                          bar := BitVec.ofNat 64 (fieldAt d 24 8), hasBar := fieldAt d 24 8 != 0 }
        match (if 8 ≤ set then .error (eBADCMD, 0) else engNat s e false ((ctxAt s e.ctx).eptab.toNat + 16 * set) 16) with
        | .error x => failCmd s n e op 0 (e.pre.getD x)
        | .ok ep =>
          let setid := fieldAt ep 0 4
          let num := fieldAt ep 4 4
          let rank := fieldAt ep 8 4
          if !slotOk ep then failCmd s n e op 0 (eBADCMD, 0)
          else
            let c := ctxAt s e.ctx
            let seq := fget 0 c.collSeq setid
            let s := setCtx s e.ctx { c with collSeq := fput c.collSeq setid (seq + 1) }
            let own := collOwn s e d num rank st
            let s := match own with | .ok _ => s | .error x => engLog s (n - 128) e.ctx x
            let j : Joined := {
              dev := s.device
              setid := setid, seq := seq, rank := rank, n := num, op := fieldAt d 20 1, ty := fieldAt d 21 1,
              count := fieldAt d 16 4, root := fieldAt d 22 2, stats := st,
              data := match own with | .ok v => v | .error _ => none
              err := match own with | .ok _ => none | .error x => some (x.1, BitVec.ofNat 64 x.2)
              die := n - 128, cmd := some e }
            if s.broken.contains (setid, seq) then failCmd s n e op 0 (match own with | .ok _ => (eLINKLOST, 0) | .error x => x)
            else sendAll { s with joined := s.joined ++ [j] } (setDevs s setid) 2 (.member { j with cmd := none })

/-- Element `i` of a member's SEND. -/
def collElem (j : Joined) (i : Nat) : Word := ((j.data.getD []).toArray).getD i 0

/-- The root of the rank tree for element `i` of a floating-point collective: `op` 1 maximum, 2 minimum, else the sum
(R48, R256). -/
def collRoot (op ty : Nat) (ms : List Joined) (i : Nat) : Ex :=
  let v := ms.map fun j => dec (collFmt ty) (collElem j i).toNat
  match op with
  | 1 => (v.drop 1).foldl exMax (v.headD .nan)
  | 2 => (v.drop 1).foldl exMin (v.headD .nan)
  | _ => treeSum (fun r => v.getD r .nan) v.length

/-- The root of an INT32 collective: sums wrap modulo 2^32 (R256). -/
def collRootI (op : Nat) (ms : List Joined) (i : Nat) : Word :=
  let v := ms.map fun j => collElem j i
  match op with
  | 1 => (v.drop 1).foldl (fun a b => if a.slt b then b else a) (v.headD 0)
  | 2 => (v.drop 1).foldl (fun a b => if b.slt a then b else a) (v.headD 0)
  | _ => v.foldl (· + ·) 0

/-- The reduced element `i` as its type's code: a mean is rounded to FP32 and then to the type (R48, R256). -/
def collCode (op ty : Nat) (ms : List Joined) (i : Nat) : Nat :=
  if ty = 3 then (collRootI op ms i).toNat
  else
    let x := collRoot op ty ms i
    rnd (collFmt ty) 0 0 (if op = 3 then dec32 (rne32 (exDiv x (exOfInt ms.length))) else x)

/-- What a member's RECV takes, the members being in rank order (R256). -/
def collOut (ms : List Joined) (j : Joined) : List Byte :=
  let w := collSize j.ty
  let out := fun (f : Nat → Nat) (n : Nat) => (List.range n).flatMap fun i => leBytes w (f i)
  match j.op with
  | 5 => ms.flatMap fun m => out (fun i => (collElem m i).toNat) j.count
  | 6 => match ms.find? fun m => m.rank == j.root with
    | some m => out (fun i => (collElem m i).toNat) j.count
    | none => []
  | 4 => out (fun i => collCode 4 j.ty ms (j.rank * (j.count / j.n) + i)) (j.count / j.n)
  | op => out (collCode op j.ty ms) j.count

/-- The exact square of an element, rounded to FP32 once (R257). -/
def collSq (x : Ex) : Ex := dec32 (rne32 (exMul x x))

/-- The 8 bytes of the statistics record (R257). -/
def collStats (ms : List Joined) (j : Joined) : List Byte :=
  let val := fun (w : Word) => if j.ty = 3 then exOfInt w.toInt else dec (collFmt j.ty) w.toNat
  let sq := fun (m : Joined) => treeSum (fun i => collSq (val (collElem m i))) j.count
  let root := fun (i : Nat) => if j.ty = 3 then exOfInt (collRootI 0 ms i).toInt else collRoot 0 j.ty ms i
  leBytes 4 (rne32 (treeSum (fun r => match ms[r]? with | some m => sq m | none => .nan) ms.length)).toNat
    ++ leBytes 4 (rne32 (treeSum (fun i => collSq (root i)) j.count)).toNat

/-- Two members of one collective disagree (R258). Members whose endpoint slots give different numbers of members do too: the spec names
no outcome for them (DESIGN CHOICE, notes/assumptions/49.md). -/
def collDiffer (a b : Joined) : Bool :=
  a.op != b.op || a.ty != b.ty || a.count != b.count || a.stats != b.stats || a.n != b.n || (a.op == 6 && a.root != b.root)

/-- Ends a member's COLL with a code, after `w` bytes in all, of which `nb` went to RECV (R255-R258). -/
def collFinish (s : State) (j : Joined) (w nb : Nat) (x : EngErr) : State :=
  match j.cmd with
  | none => s
  | some e => actAs (128 + j.die) (fun s => finish s (128 + j.die) e (b2n j.stats) x.1 w nb (BitVec.ofNat 64 x.2)) s

/-- Ends a member's COLL with an error before any byte. -/
def collEnd (s : State) (j : Joined) (x : EngErr) : State := collFinish s j 0 0 x

/-- The members of a collective disagree. Two with one rank, or a rank that is missing, count as a disagreement: the spec names no outcome
for them (DESIGN CHOICE, notes/assumptions/49.md). -/
def collMixed (ms : List Joined) (j : Joined) : Bool := (ms.any fun m => collDiffer j m) || (ms.zipIdx.any fun m => m.1.rank != m.2)

/-- The first error of writing some ranges for a command, without a write (R146, R258). -/
def engChks (s : State) (e : EngCmd) : List (Nat × Nat) → Option EngErr
  | [] => none
  | (a, n) :: r => match chkAny s e.ctx e.sib e.run false (a % 2 ^ 64) n true with
    | .ok => engChks s e r
    | c => some (busCode c)

/-- The members of a collective in rank order. -/
def membersOf (s : State) (j : Joined) : List Joined :=
  let ms := s.joined.filter fun m => m.setid == j.setid && m.seq == j.seq
  (List.range (ms.foldl (fun n m => max n (m.rank + 1)) 0)).flatMap fun r => ms.filter fun m => m.rank == r

/-- Writes the RECV and the STATS of the members of this device that have not written theirs, up to the first failure of any member,
and gives for each what it wrote (R256-R258, R381). Where the members disagree nothing is written, and each member's own RECV and STATS are
only checked, for an error there goes before MISMATCH (R258). -/
def collWrites (ms : List Joined) (stop : Bool) : List Joined → State → State × List Joined
  | [], s => (s, [])
  | j :: r, s =>
    match j.cmd with
    | none => collWrites ms stop r s
    | some e =>
      if j.wrote.isSome then collWrites ms stop r s
      else
        let parts := if stop then [] else [(e.dst.toNat, collOut ms j), (fieldAt e.desc.toNat 32 8, if j.stats then collStats ms j else [])]
        let (t, w, x) := if collMixed ms j then
            (s, 0, engChks { s with via := some (128 + j.die) } e [(e.dst.toNat, recvBytes j.op j.ty j.count j.n), (fieldAt e.desc.toNat 32 8, if j.stats then 8 else 0)])
          else engWrites e false parts { s with via := some (128 + j.die) }
        let t := match x with | none => t | some y => engLog t j.die e.ctx y
        let (u, l) := collWrites ms (stop || x.isSome) r { t with via := none }
        (u, { j with wrote := some (w, x) } :: l)

/-- Two entries are of one member of one collective. -/
def sameMember (a b : Joined) : Bool := a.setid == b.setid && a.seq == b.seq && a.rank == b.rank && a.dev == b.dev

/-- Replaces the entries of members, or adds them. -/
def putMember (s : State) (j : Joined) : State :=
  { s with joined := if s.joined.any (sameMember j) then lmap (sameMember j) (fun x => { j with cmd := x.cmd }) s.joined else s.joined ++ [j] }

/-- A member has failed to write its RECV or STATS. -/
def badWrite (m : Joined) : Bool := match m.wrote with | some (_, some _) => true | _ => false

/-- The collective leaves the list. -/
def dropColl (s : State) (j : Joined) : State :=
  { s with joined := s.joined.filter fun m => !(m.setid == j.setid && m.seq == j.seq) }

/-- Every member has written: each ends, with its own code where it failed, else PEERERR where another did, else MISMATCH where they
disagree (R258). -/
def collClose (s : State) (j : Joined) : State :=
  let ms := membersOf s j
  ms.foldl (fun s m => match m.wrote with
    | some (w, x) => collFinish s m w (min w (collOut ms m).length) (match x with
      | some y => y
      | none => if ms.any badWrite then (ePEERERR, 0) else if collMixed ms j then (eMISMATCH, 0) else (0, 0))
    | none => s) (dropColl s j)

/-- A collective that every member has joined goes on: own errors first, else the members of this device write, or check what they would
write, and tell the other devices how that went; it ends when every member has written (R258). -/
def collRun (s : State) (j : Joined) : State :=
  let ms := membersOf s j
  if ms.any fun m => m.err.isSome then
    ms.foldl (fun s m => collEnd s m (match m.err with | some (c, a) => (c, a.toNat) | none => (ePEERERR, 0))) (dropColl s j)
  else
    let (s, l) := collWrites ms (ms.any badWrite) ms s
    let s := l.foldl (fun s m => sendAll (putMember s m) (setDevs s m.setid) 2 (.member { m with cmd := none })) s
    if (membersOf s j).all fun m => m.wrote.isSome then collClose s j else s

/-- A collective can go on: every member has joined, and one of this device has still to write, or all have written (R258). -/
def collReady (s : State) (j : Joined) : Bool :=
  let ms := membersOf s j
  decide (j.n ≤ ms.length) && ((ms.any fun m => m.cmd.isSome && m.wrote.isNone) || ms.all fun m => m.wrote.isSome)

/-- Ends the collectives that satisfy `p` with one code at every local member (R258, R296, R456); a context whose
collective lost a member is Suspended (R281). -/
def collFail (s : State) (p : Joined → Bool) (code : Nat) : State :=
  let bad := s.joined.filter p
  let s := { s with joined := s.joined.filter fun m => !p m }
  bad.foldl (fun s m =>
    let s := collEnd s m (code, 0)
    match m.cmd with
    | some e => if code = eMEMBERLOST then haltCtx s e.ctx 5 else s
    | none => s) s

/-- A link that a collective needs has failed: it ends with LINKLOST for every member, one that joins it later too (R258, R456). -/
def breakColl (s : State) (set seq : Nat) : State :=
  collFail { s with broken := (set, seq) :: s.broken } (fun j => j.setid == set && j.seq == seq) eLINKLOST

/-- The sets in which a context has a member (R285). -/
def memberSets (s : State) (ctx : Nat) : List Nat :=
  (List.range 8).filterMap fun i =>
    let e : EngCmd := { org := .block, op := .coll false, ctx := ctx }
    match engNat s e false ((ctxAt s ctx).eptab.toNat + 16 * i) 16 with
    | .ok d => if fieldAt d 12 4 = 1 then some (fieldAt d 0 4) else none
    | .error _ => none

/-- The sets of a context with its rank in each (R285). -/
def memberRanks (s : State) (ctx : Nat) : List (Nat × Nat) :=
  (List.range 8).filterMap fun i =>
    let e : EngCmd := { org := .block, op := .coll false, ctx := ctx }
    match engNat s e false ((ctxAt s ctx).eptab.toNat + 16 * i) 16 with
    | .ok d => if slotOk d then some (fieldAt d 0 4, fieldAt d 8 4) else none
    | .error _ => none

/-- Firmware routing places a member of a set on a device (R285, R293). -/
def routeMember (s : State) (set rank dev : Nat) : State :=
  let l := fget [] s.routes set
  { s with routes := fput s.routes set ((l ++ List.replicate (rank + 1 - l.length) dev).set rank dev) }

/-- The collectives of a set end with MEMBERLOST, here and at the other devices (R254, R258). -/
def loseSet (s : State) (set : Nat) : State :=
  collFail (sendAll s (setDevs s set) 2 (.lost set)) (fun j => j.setid == set) eMEMBERLOST

/-- A member context is retired, or failed to migrate, while collectives of its sets wait (R254). -/
def loseMember (s : State) (ctx : Nat) : State :=
  ((memberSets s ctx).eraseDups.filter fun k => s.joined.any fun j => j.setid == k).foldl loseSet s

/-! ### Die engine packets (R332) -/

/-- A die engine packet as its engine accepts it. -/
def acceptDie (s : State) (n : Nat) (p : Packet) : EngCmd :=
  let b := blockAt s n
  let bad := !b.ov || p.w0 != 0 || p.w1.toNat % 64 != 0 || p.w2.toNat / 2 ^ 18 != 0 || p.w3.toNat % 2 ^ 24 != 0
  { org := .block, ctx := b.owner, tag := p.w3.toNat / 2 ^ 24, dev := p.dev,
    op := match fld p.w2.toNat 17 16 with | 0 => .coll false | 1 => .coll true | 2 => .upd | _ => .msrch
    src := BitVec.ofNat 64 (p.w2.toNat % 2 ^ 16 * 2 ^ 32 + p.w1.toNat / 64 * 64)
    pre := if bad then some (eBADCMD, 0) else none }

/-- Accepts the next command of the block whose turn it is, when it satisfies `p`, by `f`; the command leaves the queue. -/
def dieTurn (p : QCmd → Bool) (f : State → Nat → EngCmd → State) (s : State) : State :=
  takeNext p s.cur (fun c s => match c with
    | .raw q => f (dropCmd s s.cur c) s.cur (acceptDie s s.cur q)
    | .cmd e => f (dropCmd s s.cur c) s.cur e
    | .taken _ => s) s

/-- A packet of a die engine with an operation code. -/
def isRaw (op : Nat) (c : QCmd) : Bool := match c with | .raw p => fld p.w2.toNat 17 16 == op | _ => false
/-- A command of a word with an operation code. -/
def isCmd (p : EngOp → Bool) (c : QCmd) : Bool := match c with | .cmd e => p e.op | _ => false

/-- DIE_COLL (R332). -/
def execDieColl (s : State) : Host.Outcome State Fault Refusal :=
  .next (dieTurn (isRaw 0) (fun s n e => collAccept s n e false) s)
/-- DIE_COLL_ST (R332). -/
def execDieCollSt (s : State) : Host.Outcome State Fault Refusal :=
  .next (dieTurn (isRaw 1) (fun s n e => collAccept s n e true) s)

/-- A collective needs a member that a lost device holds, as firmware routing has it, and that has not joined or not written (R285,
R296). -/
def needsLost (s : State) (j : Joined) : Bool :=
  (fget [] s.routes j.setid).zipIdx.any fun r => decide (r.2 < j.n) && s.lostDevs.contains r.1
    && !((membersOf s j).any fun m => m.rank == r.2 && m.wrote.isSome)

/-- A collective that cannot complete because it needs a member of a lost device (R296). -/
def lostColl (s : State) : Option Joined := s.joined.find? fun j => !collReady s j && needsLost s j

/-- COLLECTIVE_COMPLETION: a collective that every member has joined ends, or one that a lost device keeps incomplete; else
the next COLL word of the die is accepted (R256-R258, R296). -/
def execCollectiveCompletion (s : State) : Host.Outcome State Fault Refusal :=
  match s.joined.find? (collReady s) with
  | some j => .next (collRun s j)
  | none => match lostColl s with
    | some j => .next (collFail s (fun m => m.setid == j.setid && m.seq == j.seq) eMEMBERLOST)
    | none => .next (dieTurn (isCmd fun o => match o with | .coll _ => true | _ => false)
        (fun s n e => collAccept s n e (e.op == .coll true)) s)

/-! ### The update engine (R259, R260) -/

/-- An array that the update reads overlaps another that it writes (R168): the gradients and any written array, or two written
arrays, each of which it reads too. -/
def updOverlap (d : Nat) : Bool :=
  let n := fieldAt d 40 4
  let at_ := fun (o : Nat) => (fieldAt d o 8, 4 * n)
  let mom2 := if fieldAt d 44 1 = 0 then [at_ 24] else []
  overlaps [(fieldAt d 8 8, (if fieldAt d 45 1 = 1 then 2 else 4) * n)] (at_ 0 :: at_ 16 :: mom2)
    || overlaps [at_ 0] (at_ 16 :: mom2) || overlaps [at_ 16] mom2

/-- The descriptor checks that come before any byte (R168, R259, R340). CLIP −0 counts as negative: it is not the +0 that stands for
no clipping (notes/assumptions/24.md). -/
def updBad (d : Nat) : Option EngErr :=
  let nb := BitVec.ofNat 64 (fieldAt d 32 8)
  if fieldAt d 40 4 = 0 || 268435456 < fieldAt d 40 4 || 1 < fieldAt d 44 1 || 1 < fieldAt d 45 1 || fieldAt d 46 2 ≠ 0
      || bitAt (fieldAt d 48 4) 31 || decide (0x7F800000 < fieldAt d 48 4) || fieldAt d 80 16 ≠ 0 || (barPlace nb).isNone || updOverlap d then
    some (eBADCMD, 0)
  else if fld nb.toNat 4 1 ≠ 0 then some (eMISALIGN, nb.toNat)
  else none

/-- A failing UPD sets E in its norm barrier (R344). -/
def updFail (s : State) (n : Nat) (e : EngCmd) (w : Nat) (x : EngErr) : State :=
  let s := match barPlace e.bar with
    | some (v, a) =>
      let a := a - a % 2
      if e.desc ≠ 0 && a % 32 = 0 && chkAny s e.ctx e.sib e.run v a 8 true = .ok then
        anyAtoms s e.ctx e.sib v a (leBytes 8 (setFld (leNat (anyBytes s e.ctx e.sib v a 8)) 62 62 1))
      else s
    | none => s
  failCmd s n e 2 w x

/-- One element of an update: the new p, m and v (R260). `k` is the clip factor. -/
def updElem (d : Nat) (k p g m v : Word) : Word × Word × Word :=
  let f := fun (o : Nat) => BitVec.ofNat 32 (fieldAt d o 4)
  let g := mul32 g k
  if fieldAt d 44 1 = 0 then
    let m := add32 (mul32 (f 52) m) (mul32 (f 56) g)
    let v := add32 (mul32 (f 60) v) (mul32 (mul32 (f 64) g) g)
    let q := div32 m (add32 (sqrt32 v) (f 72))
    (sub32 (sub32 p (mul32 (f 76) p)) (mul32 (f 68) q), m, v)
  else
    let m := add32 (mul32 (f 52) m) g
    (sub32 (sub32 p (mul32 (f 76) p)) (mul32 (f 68) m), m, v)

/-- The clip factor of R260. -/
def updClip (d : Nat) (nrm : Word) : Word :=
  let c := BitVec.ofNat 32 (fieldAt d 48 4)
  if c ≠ 0 && exLt (dec32 c) (dec32 nrm) then div32 c nrm else 0x3F800000

/-- The new p, m and v of element `i`, from the arrays as they stand (R260). -/
def updOut (s : State) (e : EngCmd) (k : Word) (i : Nat) : Except EngErr (Word × Word × Word) := do
  let d := e.desc.toNat
  let w := if fieldAt d 45 1 = 1 then 2 else 4
  let rd := fun (o w : Nat) => (engNat s e false (fieldAt d o 8 + w * i) w).map (BitVec.ofNat 32)
  let p ← rd 0 4
  let g ← rd 8 w
  let m ← rd 16 4
  let v ← if fieldAt d 44 1 = 0 then rd 24 4 else .ok 0
  .ok (updElem d k p (if w = 2 then g <<< 16 else g) m v)

/-- Applies an update element by element, in ascending order: each is read and then written to PARAM, MOM1 and, under AdamW,
MOM2. It gives the bytes written to PARAM and the error that ended it (R166, R260; notes/assumptions/10.md). -/
def updLoop (e : EngCmd) (k : Word) (i : Nat) : Nat → State → State × Nat × Option EngErr
  | 0, s => (s, 0, none)
  | n + 1, s =>
    let d := e.desc.toNat
    match updOut s e k i with
    | .error x => (s, 0, some x)
    | .ok (p, m, v) =>
      let ws := [(fieldAt d 0 8 + 4 * i, leBytes 4 p.toNat), (fieldAt d 16 8 + 4 * i, leBytes 4 m.toNat)]
        ++ (if fieldAt d 44 1 = 0 then [(fieldAt d 24 8 + 4 * i, leBytes 4 v.toNat)] else [])
      match engWrites e false ws s with
      | (t, w, some x) => (t, min 4 w, some x)
      | (t, w, none) =>
        let (u, m, x) := updLoop e k (i + 1) n t
        (u, min 4 w + m, x)

/-- Applies an update (R260). -/
def updApply (s : State) (n : Nat) (e : EngCmd) (nrm : Word) : State :=
  match updLoop e (updClip e.desc.toNat nrm) 0 (fieldAt e.desc.toNat 40 4) s with
  | (s, w, none) => finish s n e 2 0 w 0 0
  | (s, w, some x) => updFail s n e w x

/-- Looks at the norm barrier of an accepted UPD: nothing while its phase is open, else the UPD ends (R260). -/
def updTry (s : State) (n : Nat) (e : EngCmd) : Option State :=
  match barPlace e.bar with
  | none => some (updFail s n e 0 (eBADCMD, 0))
  | some (v, x) =>
    let a := x - x % 2
    match chkAny s e.ctx e.sib e.run v a 16 false with
    | .ok =>
      let w := leNat (anyBytes s e.ctx e.sib v a 8)
      let nrm := BitVec.ofNat 32 (leNat (anyBytes s e.ctx e.sib v (a + 8) 4))
      if fld w 63 63 ≠ x % 2 then none
      else if bitAt w 62 || dec32 nrm == .nan then some (updFail s n e 0 (eNORMERR, 0))
      else some (updApply s n e nrm)
    | c => some (updFail s n e 0 (busCode c))

/-- A UPD as its engine accepts it: its descriptor is read and checked, and it stands in the engine until its phase
completes (R254, R259). -/
def updAccept (s : State) (n : Nat) (e : EngCmd) : State :=
  match e.pre with
  | some x => failCmd s n e 2 0 x
  | none =>
    if e.src.toNat % 64 ≠ 0 then failCmd s n e 2 0 (eMISALIGN, e.src.toNat)
    else match engNat s e false e.src.toNat 96 with
      | .error x => failCmd s n e 2 0 x
      | .ok d =>
        let e := { e with desc := BitVec.ofNat 768 d, bar := BitVec.ofNat 64 (fieldAt d 32 8) }
        match updBad d with
        | some x => updFail s n e 0 x
        | none =>
          let b := blockAt s n
          setBlock s n { b with cmds := b.cmds ++ [.taken e] }

/-- DIE_UPD (R332). -/
def execDieUpd (s : State) : Host.Outcome State Fault Refusal := .next (dieTurn (isRaw 2) updAccept s)

/-- UPD_COMPLETION: the UPD that stands in the engine ends once its phase is complete; where none stands there, the next UPD word of the
die is accepted (R260). -/
def execUpdCompletion (s : State) : Host.Outcome State Fault Refusal :=
  match firstUpd (blockAt s s.cur) with
  | some e => match updTry { dropCmd s s.cur (.taken e) with via := some s.cur } s.cur e with
    | some t => .next { t with via := none }
    | none => .next s
  | none => .next (dieTurn (isCmd fun o => o == .upd) updAccept s)

/-! ### Mask search (R261, R262) -/

/-- The elements of a group that are chosen, in ascending order: the G/2 largest magnitudes, on a tie the lower (R262). -/
def chooseHalf (f : Fmt) (g : Nat) (code : Nat → Nat) : List Nat :=
  let mag := fun (e : Nat) => if dec f (code e) == .nan then 2 ^ 32 else code e % signW f
  (List.range g).filter fun e =>
    decide (((List.range g).filter fun x => decide (mag e < mag x) || (mag x == mag e && decide (x < e))).length < g / 2)

/-- The compressed and the masked image of one dense panel (R220, R262). -/
def searchPanel (s48 : Bool) (ty : Nat) (img : List Byte) : List Byte × List Byte :=
  let t := fmtOfCode ty
  let w := tileBits t / 8
  let k := tileK t
  let g := if s48 then 8 else 4
  let a := (elems w (k * 128) img).toArray
  let at_ := fun (r j : Nat) => (a.getD (128 * r + j) 0).toNat
  let pick := fun (gr j : Nat) => chooseHalf (tileFmt t) g fun e => at_ (g * gr + e) j
  let table := ((List.range (k / g * 128)).map fun i => pick (i / 128) (i % 128)).toArray
  let sel := fun (gr j : Nat) => table.getD (128 * gr + j) []
  let vals := (List.range (k / 2 * 128)).flatMap fun i =>
    let gs := i / 128
    leBytes w (at_ (g * (gs / (g / 2)) + (sel (gs / (g / 2)) (i % 128)).getD (gs % (g / 2)) 0) (i % 128))
  let idx := fun (gr j b : Nat) => (sel gr j).zipIdx.foldl (fun n p => n + p.1 * 2 ^ (b * p.2)) 0
  let ix := if s48 then (List.range (k / 8 * 128)).flatMap fun i => leBytes 2 (idx (i / 128) (i % 128) 3)
    else (List.range (k / 8 * 128)).map fun i =>
      BitVec.ofNat 8 (idx (2 * (i / 128)) (i % 128) 2 + 16 * idx (2 * (i / 128) + 1) (i % 128) 2)
  let dense := (List.range (k * 128)).flatMap fun i =>
    let r := i / 128
    let j := i % 128
    leBytes w (if (sel (r / g) j).contains (r % g) then at_ r j else 0)
  (vals ++ ix, dense)

/-- Bytes of the compressed image of a panel (R219, R220): half the elements, then one index byte or word for eight rows. -/
def compBytes (s48 : Bool) (ty : Nat) : Nat :=
  let t := fmtOfCode ty
  tileK t / 2 * 128 * (tileBits t / 8) + tileK t / 8 * 128 * (if s48 then 2 else 1)

/-- A MSRCH as its engine accepts and runs it, panel by panel (R254, R261, R262). -/
def searchRun (s : State) (n : Nat) (e : EngCmd) : State :=
  match e.pre with
  | some x => failCmd s n e 3 0 x
  | none =>
    if e.src.toNat % 64 ≠ 0 then failCmd s n e 3 0 (eMISALIGN, e.src.toNat)
    else match engNat s e false e.src.toNat 64 with
      | .error x => failCmd s n e 3 0 x
      | .ok d =>
        let np := fieldAt d 24 4
        let m := fieldAt d 28 1
        if np = 0 || 65535 < np || m = 0 || 2 < m || 3 < fieldAt d 29 1 || fieldAt d 30 34 ≠ 0 then failCmd s n e 3 0 (eBADCMD, 0)
        else
          let ty := fieldAt d 29 1
          let size := compBytes (m == 2) ty
          let from_ := fun (p : Nat) => some (false, fieldAt d 0 8 + 32768 * p, 32768)
          if overlaps [(fieldAt d 0 8, 32768 * np)] [(fieldAt d 8 8, size * np), (fieldAt d 16 8, 32768 * np)] then
            failCmd s n e 3 0 (eBADCMD, 0)
          else match runPieces e false ((List.range np).flatMap fun p =>
              [({ src := from_ p, out := fun bs => (searchPanel (m == 2) ty bs).1, dst := fieldAt d 8 8 + size * p } : Piece),
               { src := from_ p, out := fun bs => (searchPanel (m == 2) ty bs).2, dst := fieldAt d 16 8 + 32768 * p }]) s with
            | (s, w, none) => finish s n e 3 0 w 0 0
            | (s, w, some x) => failCmd s n e 3 w x

/-- DIE_MSRCH (R332). -/
def execDieMsrch (s : State) : Host.Outcome State Fault Refusal := .next (dieTurn (isRaw 3) searchRun s)
/-- MSRCH_COMPLETION: the next MSRCH word of the die writes its images (R262). -/
def execMsrchCompletion (s : State) : Host.Outcome State Fault Refusal :=
  .next (dieTurn (isCmd fun o => o == .msrch) searchRun s)

end Sys2Proof.Machine
end

