-- ==== Sys2Proof/Machine/Events.lean ====
section
/-! DEFINITION. Steps inside a core: results and loads that land, walks that end, sleeps and replies, taking a trap, the
deadlock count and PC samples (spec/03_model.md R76, spec/06_isa_access.md R157, R176, spec/09_isa_control.md R274, R275,
spec/12_queue.md R333-R335, spec/15_page.md R377-R379, spec/19_traps.md). The step's place is `cur`. -/

namespace Sys2Proof.Machine

/-- Window-map slots whose load is on its way. -/
def mapsLoading (c : Core) : List Nat := (c.d.filter fun x => x.2.loading).map fun x => x.1

/-- One result of cluster `cl` of core `n` lands: the scalar at place `i`, or else a window map (R76, R176). -/
def landOne (n cl i : Nat) (s : State) : State :=
  let c := coreAt s n
  let k := cluAt c cl
  match k.sb[i]? with
  | some x => setCoreAt s n (landScalar cl x.reg x.val (putClu c cl { k with sb := k.sb.eraseIdx i }))
  | none =>
    match (mapsLoading c)[i - k.sb.length]? with
    | some d => setCoreAt s n { c with d := fput c.d d { fget {} c.d d with loading := false } }
    | none => s

/-- The results of a cluster that are on their way. -/
def pendingOf (s : State) (n cl : Nat) : Nat :=
  (cluAt (coreAt s n) cl).sb.length + (if cl = clA then (mapsLoading (coreAt s n)).length else 0)

/-- SCOREBOARDED_RESULT: at place 4 × core + cluster, one of the results on their way lands; which one, the device
chooses (R16, R76). -/
def execScoreboardedResult (s : State) : Host.Outcome State Fault Refusal :=
  let n := s.cur / 4
  let cl := s.cur % 4
  let m := pendingOf s n cl
  if m = 0 then .next s
  else
    let (f, s) := freeVal s
    .next (landOne n cl (f % m) s)

/-- The oldest hole becomes an element when its data has arrived (R157, R333). -/
def fillHole : List QEnt → List QEnt
  | [] => []
  | .hole (some d) :: r => .elem d :: r
  | .hole none :: r => .hole none :: r
  | e :: r => e :: fillHole r

/-- Every page that an access of core `n` touches is in the core's lookaside array. -/
def lookedUp (c : Core) (x : LateLoad) (n : Nat) : Bool := x.sp || (pagesOf x.ea n).all fun p => (lookLeaf c p.1).isSome

/-- The size of the element that a queue load of core `n` reads. -/
def lateSize (c : Core) (l : LateLoad) : Nat := kindBytes (fget ({} : Queue) c.q l.q).kind

/-- The frames that a queue load of core `n` reads, and whether its pages are strong (R403, R406). -/
def lateFrames (s : State) (n : Nat) (l : LateLoad) : List Nat × Bool :=
  if l.sp then ([], false)
  else
    let t := { s with cur := n }
    let ps := pagesOf l.ea (lateSize (coreAt s n) l)
    (ps.map fun p => tileKey t p.2 / 65536, ps.any fun p => match lookLeaf (coreAt s n) p.1 with | some k => leafKind k == 0 | none => true)

/-- Two queue loads of core `n` keep their order: they may read one byte, or both are strong (R150, R403, R405, R406). -/
def lateOrder (s : State) (n : Nat) (x y : LateLoad) : Bool :=
  let a := lateFrames s n x
  let b := lateFrames s n y
  (x.sp && y.sp) || (a.2 && b.2) || a.1.any b.1.contains

/-- A queue load of core `n` that has not landed reads its bytes now. -/
def lateRead (n : Nat) (l : LateLoad) (s : State) : State :=
  let x := fget ({} : Queue) (coreAt s n).q l.q
  let (bs, t) := readBytes false l.sp (kindBytes x.kind) l.ea { s with cur := n, cl := clA }
  let c := coreAt t n
  let d := elemOf x.kind bs
  setCoreAt { t with cur := s.cur, cl := s.cl } n { c with q := fput c.q l.q { x with ents := x.ents.set (l.seq - x.cseq).toNat (.hole (some d)) } }

/-- The loads of the list that are to keep their order behind those of `done` read their bytes now, and those behind them. -/
def lateReads (n : Nat) : List LateLoad → List LateLoad → State → State
  | _, [], s => s
  | done, y :: r, s => if done.any fun x => lateOrder s n x y then lateReads n (y :: done) r (lateRead n y s) else lateReads n done r s

/-- The load of the oldest hole of queue `q` may read its bytes as late as now, as the device chooses; later loads that are ordered
behind it then read theirs again. The loads before it read no later than it lands, for what pops its element comes after them
(R157, R405-R407, R412; notes/assumptions/8.md). -/
def readLate (n q : Nat) (s : State) : State :=
  let c := coreAt s n
  let x := fget ({} : Queue) c.q q
  match c.late.findIdx? fun l => l.q == q && l.seq.toNat == holeSeq x with
  | none => s
  | some i =>
    let (f, s) := freeVal s
    let s := setCoreAt s n { c with late := c.late.drop (i + 1) }
    match c.late.drop i with
    | [] => s
    | l :: r =>
      if f % 2 = 0 || !(l :: r).all (fun y => lookedUp c y (lateSize c y)) then s
      else lateReads n [l] r (lateRead n l s)

/-- QUEUE_LOAD_LANDS: at place 16 × core + queue (R157). -/
def execQueueLoadLands (s : State) : Host.Outcome State Fault Refusal :=
  let n := s.cur / 16
  let q := s.cur % 16
  if fhas (coreAt s n).q q then
    let s := readLate n q s
    let c := coreAt s n
    .next (setCoreAt s n { c with q := fput c.q q { fget {} c.q q with ents := fillHole (fget {} c.q q).ents } })
  else .next s

/-- TRAP_TAKEN: the core takes the trap that a word of it has raised (R429, R431). -/
def execTrapTaken (s : State) : Host.Outcome State Fault Refusal := .next (takeTrap s)

/-! ### Deadlock (R335) -/

/-- The kind and the number of a wait that counts (R335). An outcome queue has no number, so the cluster that it belongs to gives it
(DESIGN CHOICE, notes/assumptions/41.md). -/
def waitKind : Wait → Nat × Nat
  | .pop q => (1, q) | .push q => (2, q) | .hs h => (3, h) | .outq c => (4, c) | .rv => (5, 0) | .tend => (6, 0)
  | _ => (0, 0)

/-- A cluster waits on something that counts: at a Y = 1 word that a wait on a unit holds back, that wait does not (R335). -/
def waitCounts (k : Clu) : Bool :=
  (waitKind k.wait).1 != 0 && !(k.wait == .rv && k.inner != .none && (waitKind k.inner).1 == 0)

/-- Every active cluster of a core waits on something that counts and that has not come (R335). -/
def deadCount (c : Core) : Bool :=
  c.busy && c.level == 0 && c.treq.isEmpty
    && (List.range 4).all fun i => let k := cluAt c i; !k.active || (waitCounts k && !waitOver c k)

/-- Packs a number for each cluster of the core into fields of `w` bits; an inactive cluster gives 0. -/
def perClu (w : Nat) (f : Wait → Nat) (c : Core) : Nat :=
  (List.range 4).foldl (fun n i => let k := cluAt c i
    n + (if k.active then f k.wait else 0) * 2 ^ (w * i)) 0

/-- QDEAD: a core whose count has reached 2^20 traps at C's waiting word, or at that of its lowest active cluster
(R335). -/
def execQdead (s : State) : Host.Outcome State Fault Refusal :=
  let c := core s
  if deadCount c && decide (2 ^ 20 ≤ c.qdead) then
    let at_ := if (cluAt c clC).active then clC
      else (firstBelow (fun i => (cluAt c i).active) 4).getD clC
    let t : TrapReq := { cl := at_, cause := cQDEAD, info := BitVec.ofNat 32 (perClu 4 (fun w => (waitKind w).1) c),
                         addr := BitVec.ofNat 64 (perClu 8 (fun w => (waitKind w).2) c) }
    .next (takeTrap (setCore s { c with treq := [t], qdead := 0 }))
  else .next s

/-! ### Page walks (R378, R379) -/

/-- A core's access that waited for a walk takes its result: the leaf of its page, which enters the core's lookaside array, or a
failure. -/
def walkResult (ctx : Nat) (leaf : Nat → Option (BitVec 64)) (s : State) (w : Nat × Nat × Nat) : State :=
  let c := coreAt s w.1
  let k := cluAt c w.2.1
  let s := setCoreAt s w.1 (putClu c w.2.1 { k with wait := if k.wait = .walk then .none else k.wait })
  match leaf w.2.2 with
  | some l => keepLook ctx w.2.2 l w.1 s
  | none => setCoreAt s w.1 { coreAt s w.1 with walkBad := (w.2.1, w.2.2) :: (coreAt s w.1).walkBad }

/-- PAGE_WALK: the walk at a place of the list ends: every access that waits takes its result, and a failure is logged
once, even where no access waits any more. A leaf enters the die's array, and its frame counts as encrypted under its key slot's pair (R371,
R377, R379). -/
def execPageWalk (s : State) : Host.Outcome State Fault Refusal :=
  match s.walks[s.cur]? with
  | none => .next s
  | some w =>
    let s := { s with walks := s.walks.eraseIdx s.cur }
    match walkKey s w.ctx w.page with
    | .leaf l _ _ =>
      let leaf := fun (p : Nat) => match walkKey s w.ctx p with | .leaf l _ _ => some l | .bad _ _ => none
      let s := (w.page :: w.waiters.map fun x => x.2.2).eraseDups.foldl (fun s p => match leaf p with | some l => sealLeaf w.ctx l.toNat 1 s | none => s) s
      .next (keepHeld (128 + w.die) w.ctx w.page l (w.waiters.foldl (walkResult w.ctx leaf) s))
    | .bad cause level =>
      let s := logFault s w.die w.ctx cause level w.waiters.length (w.page * 65536)
      .next (w.waiters.foldl (walkResult w.ctx fun _ => none) s)

/-! ### SLEEP and SYSC (R274, R275) -/

/-- C's waiting word issues. -/
def retireC (s : State) : State := retire [] { s with cl := clC }

/-- SLEEP_EXPIRY (R274). -/
def execSleepExpiry (s : State) : Host.Outcome State Fault Refusal :=
  match (core s).sleep with
  | some t => if t ≤ s.cycle then .next (retireC (onCore (fun c => { c with sleep := none }) s)) else .next s
  | none => .next s

/-- What the firmware core does for a SYSC, and its reply (R275): advice of a point above 5 is refused (R466). -/
def service (code : Nat) (args : List Word) (s : State) : Word × State :=
  let ctx := (core s).task.ctx
  let x := ctxAt s ctx
  match code with
  | 0 => (0, s)
  | 1 => (0, setCtx s ctx { x with log := x.log ++ args })
  | 2 =>
    let p := (args.headD 0).toNat
    if 5 < p then (1, s) else (0, { s with power := { s.power with advice := some (max p (s.power.advice.getD 0)) } })
  | _ => (0xFFFFFFFF, s)

/-- SYSC_REPLY: s6 takes the reply (R275). -/
def execSyscReply (s : State) : Host.Outcome State Fault Refusal :=
  match (core s).sysc with
  | some (code, args) =>
    let (v, s) := service code args s
    .next (retireC (sbWrite 6 { val := v } { onCore (fun c => { c with sysc := none }) s with cl := clC }))
  | none => .next s

/-! ### PC samples (R445, R446) -/

/-- Cycles between samples (R445). -/
def samplePeriod (c : Core) : Nat := 2 ^ (min 23 (fld c.trctl.toNat 8 4) + 6)

/-- PC_SAMPLE: each enabled cluster writes the virtual PC of its next word (R446). -/
def execPcSample (s : State) : Host.Outcome State Fault Refusal :=
  let c := core s
  if c.busy && c.kctl.getLsbD 4 && decide (c.sampleAt ≤ s.cycle) then
    let s := setCore s { c with sampleAt := s.cycle + samplePeriod c }
    .next ((List.range 4).foldl (fun s i =>
      if (cluAt c i).active then traceOut s s.cur 1 i (cluAt c i).pc.toNat else s) s)
  else .next s

end Sys2Proof.Machine
end

