-- ==== Sys2Proof/Machine/Gaffer.lean ====
section
/-! DEFINITION. Gaffer: the commands of context queues, the waiters and the benches, launches, tile starts, gangs, and
node-boundary pre-emption (spec/18_dispatch.md R419-R428, spec/14_group.md R355-R363). A step of a context has the
context's number in `cur`, one of a node or a gang its launch number, one of a group its group number. -/

namespace Sys2Proof.Machine

/-! ### Nodes of a run (R423) -/

/-- A launch is that of a Suspended group which still waits for cores to resume on (R363). -/
def resumeWaits (s : State) (r : NodeRun) : Bool :=
  !r.tasks.isEmpty && r.gang.any fun u => s.groups.any fun g => g.uid == u && g.st == 7
/-- A node of a context runs, its gangs included. -/
def nodeRuns (s : State) (ctx : Nat) : Bool := s.runs.any fun r => r.ctx == ctx && !resumeWaits s r
/-- Node `m` of a context runs as a node of its run. -/
def nodeLive (s : State) (ctx m : Nat) : Bool := s.runs.any fun r => r.ctx == ctx && r.node == m && r.gang.isNone

/-- Node `m` has completed in the run. -/
def nodeDone (s : State) (ctx : Nat) (u : Run) (m : Nat) : Bool :=
  u.doneNodes.contains m && !nodeLive s ctx m && ((ctxAt s ctx).rerun.all fun x => x.1 != m)

/-- The next node of a run: one to run again after a Rescue, or the next in order (R423, R436). -/
def nextNode (x : Context) (u : Run) : Option Nat :=
  match x.rerun with
  | some (n, _) => some n
  | none => if u.failed.isNone && decide (u.next ≤ u.last) then some u.next else none

/-- The predecessors of a node in its run have completed (R423). NRUN ignores edges (R421). -/
def predsDone (s : State) (ctx : Nat) (u : Run) (n : Nat) : Except LErr Bool :=
  if u.single then .ok true
  else (readEdges s ctx).map fun es => es.all fun e => e.2 != n || decide (e.1 < u.first) || nodeDone s ctx u e.1

/-- A pinned extent of the context stands in a vault that left service (R400). -/
def mustLeave (s : State) (ctx : Nat) : Bool := (ctxAt s ctx).exts.any fun e => inRows e && s.outVaults.contains (e.base / 2 ^ 25)

/-- The step boundary of a STEP is due (R272). -/
def boundaryDue (s : State) (ctx : Nat) : Bool :=
  let x := ctxAt s ctx
  x.stepReq && !nodeRuns s ctx && x.rerun.isNone

/-- Gaffer may start nodes of the context: it is Hot, nothing stops it, no boundary is due, and no extent of it has to leave its
vault first (R289, R291, R395, R400). A node that Rescue interrupted runs again before a boundary (R272, R436). -/
def mayLaunch (s : State) (ctx : Nat) : Bool :=
  let x := ctxAt s ctx
  x.st == .hot && x.halt.isNone && !s.power.pend && decide (x.pending < 3) && !boundaryDue s ctx
    && !mustLeave s ctx

/-- The checks of a launch before benches are granted: SEALV, QSPACE, CAPACITY (R393, R421, R428). -/
def launchCheck (s : State) (ctx n : Nat) : Except (Nat × Nat × Nat) (Node × Descr) :=
  let err : LErr → Nat × Nat × Nat := fun e => match e with
    | .unlinked => (0x11, 0, 0) | .badcode => (0x02, 0, 0) | .bus c a => (0x40 + c, a, 0)
  match readNode s ctx n with
  | .error e => .error (err e)
  | .ok node =>
    if node.kind = 2 then .ok (node, { kern := {}, depths := [] })
    else match readKernel s ctx node.obj node.ksym with
      | .error e => .error (err e)
      | .ok d =>
        if qspace d then .error (0x10, 0, 0)
        else if unpinnedRoom s < unpinnedRows d.kern then .error (0x12, unpinnedRows d.kern, unpinnedRoom s)
        else .ok (node, d)

/-! ### Benches and waiters (R424-R426) -/

/-- A bench is free: in service, no launch holds it, and no tile runs on it. -/
def benchFree (s : State) (b : Nat) : Bool :=
  !s.outVaults.contains b && !s.runs.any (holdsBench s b) && (List.range 4).all fun i => coreFree s (4 * b + i)

/-- The free benches in ascending order. -/
def freeBenches (s : State) : List Nat := (List.range 128).filter (benchFree s)

/-- The siblings that a gang must place: those not cancelled, and on a resume those that saved (R355, R363). -/
def toPlace (g : Group) : List Nat :=
  (List.range g.n).filter fun i => !g.cancel.getLsbD i && (g.st != 7 || g.save.getLsbD i)

/-- A gang waits to start, or a Suspended group may resume: not while a request is pending or a step boundary is due, and while an
operating-point step is pending, or an extent of the context has to leave its vault, only for a node that has still to run to its end
(R272, R355, R363, R395, R400). -/
def gangDue (s : State) (g : Group) : Bool :=
  let x := ctxAt s g.ctx
  x.st == .hot && x.halt.isNone && s.tableBusy.isNone
    && (!s.power.pend || (s.power.part == 0 && (g.st != 7 || (runAt s g.forker).isSome)))
    && (!mustLeave s g.ctx || g.st != 7 || (runAt s g.forker).isSome)
    && ((g.st == 7 && x.pending == 0 && !boundaryDue s g.ctx) || (!g.started && g.st != 7))

/-- Benches that a gang lacks beyond the cores of the benches its context holds (R425). -/
def gangLack (s : State) (g : Group) : Nat :=
  ((toPlace g).length - (freeCores s (heldBenches s g.ctx)).length + 3) / 4

/-- The gang that is the waiter of a context, in place of any node. -/
def gangWaits (s : State) (ctx : Nat) : Option Group :=
  s.groups.find? fun g => g.ctx == ctx && gangDue s g && decide (0 < gangLack s g)

/-- MINB and WANT of a context's waiter (R425). -/
def waiterOf (s : State) (ctx : Nat) : Option (Nat × Nat) :=
  match gangWaits s ctx with
  | some g => some (gangLack s g, gangLack s g)
  | none =>
    if !mayLaunch s ctx then none
    else match (ctxAt s ctx).run with
      | none => none
      | some u => match nextNode (ctxAt s ctx) u with
        | none => none
        | some n => match predsDone s ctx u n, launchCheck s ctx n with
          | .ok true, .ok (node, _) => if node.kind = 2 then none else some (node.minb, node.want)
          | _, _ => none

/-- Time that a context's waiter has waited, in nanoseconds. -/
def waited (s : State) (ctx : Nat) : Nat := s.ns - ((ctxAt s ctx).waitFrom.getD s.ns)

/-- The effective class of a waiter (R425). -/
def effClass (s : State) (ctx : Nat) : Nat := (ctxAt s ctx).prio - waited s ctx / 1000000

/-- The contexts with waiters, in ascending order. -/
def waiters (s : State) : List Nat := (s.ctxs.filter fun x => (waiterOf s x.1).isSome).map fun x => x.1

/-- The oldest reserving waiter (R425). -/
def oldestReserving (s : State) : Option Nat :=
  ((waiters s).filter fun c => (ctxAt s c).reserving).foldl (fun b c => match b with
    | none => some c
    | some d => if (ctxAt s c).waitFrom.getD s.ns < (ctxAt s d).waitFrom.getD s.ns then some c else b) none

/-- The waiter that is served next among those that the free benches suffice: the lowest effective class, round-robin
by context number, with up to 4 − PRIO grants in a turn (R425). -/
def chosen (s : State) : Option Nat :=
  let fits := fun (c : Nat) => match waiterOf s c with
    | some (m, _) => decide (m ≤ (freeBenches s).length)
    | none => false
  match oldestReserving s with
  | some c => if fits c then some c else none
  | none =>
    let ws := (waiters s).filter fits
    let best := ws.foldl (fun m c => min m (effClass s c)) 4
    let cs := ws.filter fun c => effClass s c == best
    let (last, k) := fget (0, 0) s.served best
    if cs.contains last && decide (k < 4 - (ctxAt s last).prio) then some last
    else (cs.find? fun c => decide (last < c)) <|> cs.head?

/-- Takes `k` free benches of the device's choice for a context, in ascending order (R11, R425). -/
def grantBenches (s : State) (ctx k : Nat) : List Nat × State :=
  let (f, s) := freeVal s
  let fs := freeBenches s
  let r := f % (fs.length + 1)
  let pick := (fs.drop r ++ fs.take r).take k
  let cls := effClass s ctx
  let (last, n) := fget (0, 0) s.served cls
  ((List.range 128).filter fun b => pick.contains b,
   setCtx { s with served := fput s.served cls (ctx, if last = ctx then n + 1 else 1) } ctx
     { ctxAt s ctx with waitFrom := none, reserving := false })

/-- The unpinned bytes of granted benches have contents that are not stated (R392). -/
def freshVaults (s : State) (bs : List Nat) : State :=
  let pinned := fun (a : Nat) => s.ctxs.any fun x => x.2.exts.any fun e => inRows e && decide (e.base ≤ a) && decide (a < e.base + e.size)
  { s with vault := s.vault.filter fun x => !bs.contains (x.1 / 2 ^ 25) || pinned x.1,
           vaultSeed := bs.foldl (fun f b => fput f b s.free) s.vaultSeed, free := s.free + 1 }

/-- A context with its waiter noted, and since when; a gang that takes a node's place as the waiter, or gives it back, has not waited yet
(R425). -/
def markWaiter (s : State) (ctx : Nat) (x : Context) : Context :=
  let g := (gangWaits s ctx).map fun g => g.uid
  if (waiterOf s ctx).isNone then { x with waitFrom := none, waitGang := none, reserving := false }
  else if x.waitFrom.isSome && x.waitGang == g then x
  else { x with waitFrom := some s.ns, waitGang := g, reserving := false }

/-- Notes which contexts have waiters, and since when. -/
def markWaiters (s : State) : State := { s with ctxs := s.ctxs.map fun x => (x.1, markWaiter s x.1 x.2) }

/-! ### Patches (R417) -/

/-- The value of a patch point. -/
def patchVal (s : State) (ctx src idx : Nat) : Except (Nat × Nat) Nat :=
  let x := ctxAt s ctx
  match src with
  | 0 => match chkSpace s ctx [] (x.exttab.toNat + 16 * idx) 4 false with
    | .ok => .ok (spaceNat s ctx [] (x.exttab.toNat + 16 * idx) 4)
    | c => .error (busCode c)
  | 1 => .ok (fget 0 x.gs idx).toNat
  | _ => .ok (x.stepn.toNat % 2 ^ 32)

/-- Writes patch points in table order, up to the first that fails (R417). -/
def writePatches (ctx args : Nat) : List (Nat × Nat × Nat) → State → State × Option (Nat × Nat)
  | [], s => (s, none)
  | (src, idx, off) :: r, s =>
    match patchVal s ctx src idx with
    | .error e => (s, some e)
    | .ok v => match chkSpace s ctx [] (args + off) 4 true with
      | .ok => writePatches ctx args r (spacePuts s ctx [] (args + off) (leBytes 4 v))
      | c => (s, some (busCode c))

/-! ### Launches -/

/-- Ends a command of block `n` with a completion record (R329). -/
def endCmd (s : State) (n : Nat) (p : Packet) (status detail result : Nat) : State :=
  writeRecord s n status (p.w0.toNat % 256) (p.w3.toNat / 2 ^ 24) detail result

/-- The block of a context's queue (R323). -/
def ctxBlock (ctx : Nat) : Nat := 132 + ctx

/-- A launch fault: no later node of the run starts; a walk that failed is logged (R379, R421). -/
def launchFault (s : State) (ctx : Nat) (u : Run) (f : Nat × Nat × Nat) : State :=
  let s := engLog s 0 ctx (f.1 - 0x40, f.2.1)
  setCtx s ctx { ctxAt s ctx with run := some { u with failed := some (f.1, BitVec.ofNat 32 f.2.1, f.2.2) }, rerun := none }

/-- The node leaves the head of the run. -/
def pastNode (x : Context) (u : Run) (n : Nat) (done : Bool) : Context :=
  { x with rerun := none
           run := some { u with next := if x.rerun.isSome then u.next else u.next + 1
                                doneNodes := if done then u.doneNodes ++ [n] else u.doneNodes.filter fun m => m != n } }

/-- The tasks of a node (R419, R420). -/
def tasksOf (node : Node) (benches : Nat) : List (Nat × Nat × Nat × Nat) :=
  if node.kind = 1 then (List.range (benches * node.workers)).map fun i => (0, 0, 0, i) else walk node

/-- Launches node `n` with the benches that its context is granted (R425, R428). -/
def launch (s : State) (ctx : Nat) (u : Run) (n : Nat) (node : Node) (d : Descr) : State :=
  match readPatches s ctx n with
  | .error .unlinked => launchFault s ctx u (0x11, 0, 0)
  | .error .badcode => launchFault s ctx u (0x02, 0, 0)
  | .error (.bus c a) => launchFault s ctx u (0x40 + c, a, 0)
  | .ok ps =>
    let (bs, s) := grantBenches s ctx (min node.want (freeBenches s).length)
    match writePatches ctx node.args ps s with
    | (s, some (c, a)) => launchFault s ctx u (0x40 + c, a, 0)
    | (s, none) =>
      let (kern, s) := chooseDepths d s
      let r : NodeRun := {
        id := s.nextRun, ctx := ctx, node := n, kind := node.kind, kern := kern, benches := bs,
        tasks := tasksOf node bs.length, kctl := BitVec.ofNat 32 node.kctl, args := BitVec.ofNat 64 node.args,
        minb := node.minb }
      let s := freshVaults s bs
      setCtx { s with runs := s.runs ++ [r], nextRun := s.nextRun + 1 } ctx (pastNode (ctxAt s ctx) u n false)

/-- A run with no node left to launch and none running completes its command (R421). -/
def endRun (s : State) (ctx : Nat) (u : Run) : State :=
  let s := setCtx s ctx { ctxAt s ctx with run := none }
  match u.failed with
  | some (st, d, r) => endCmd s (ctxBlock ctx) u.pk st d.toNat r
  | none => endCmd s (ctxBlock ctx) u.pk 0 0 u.tiles

/-- NODE_LAUNCH: at a context, its run completes, or its next node launches, counts as complete, or faults (R421,
R423, R425). -/
def execNodeLaunch (s : State) : Host.Outcome State Fault Refusal :=
  let ctx := s.cur
  let x := ctxAt s ctx
  match x.run with
  | none => .next s
  | some u =>
    match nextNode x u with
    | none => if (x.st = .hot || x.st = .suspended) && !(s.runs.any fun r => r.ctx == ctx && r.gang.isNone) then
        .next (endRun s ctx u) else .next s
    | some n =>
      if !mayLaunch s ctx then .next s
      else match predsDone s ctx u n with
        | .error (.bus c a) => .next (launchFault s ctx u (0x40 + c, a, 0))
        | .error _ => .next (launchFault s ctx u (0x11, 0, 0))
        | .ok false => .next s
        | .ok true => match launchCheck s ctx n with
          | .error f => .next (launchFault s ctx u f)
          | .ok (node, d) =>
            if node.kind = 2 then
              if u.single then .next (launchFault s ctx u (0x02, 0, 0)) else .next (setCtx s ctx (pastNode x u n true))
            else if (gangWaits s ctx).isNone && chosen s == some ctx then .next (launch s ctx u n node d)
            else .next s

/-- A bench of a launch that left service before a tile of it could start there, and one that takes its place in the grant
(R400; notes/assumptions/33.md). -/
def replaceOut (s : State) (r : NodeRun) : Option State :=
  match r.benches.find? (fun b => s.outVaults.contains b), freeBenches s with
  | some b, f :: _ => if r.kind = 1 || r.benches.all (fun b => s.outVaults.contains b) then
      some (freshVaults { s with runs := lmap (fun y => y.id == r.id) (fun y => { y with
        benches := (List.range 128).filter fun x => x == f || (y.benches.contains x && x != b) }) s.runs } [f])
    else none
  | _, _ => none

/-- TILE_DISPATCH: at a launch, its next task starts on a free core of its benches whose die has the translations; the
workers of a resident node start together, once all their cores are free (R312, R400, R419, R420, R424). -/
def execTileDispatch (s : State) : Host.Outcome State Fault Refusal :=
  match runAt s s.cur with
  | none => .next s
  | some r =>
    let x := ctxAt s r.ctx
    if x.st ≠ .hot || x.halt.isSome || r.gang.isSome || s.tableBusy.isSome then .next s
    else
      let cut := fun (n : Nat) (s : State) => { s with runs := lmap (fun y => y.id == r.id) (fun y => { y with tasks := y.tasks.drop n }) s.runs }
      let task := fun (t : Nat × Nat × Nat × Nat) => ({ ctx := r.ctx, node := r.node, run := r.id, t := t.2.2.2, i := t.1, j := t.2.1, k := t.2.2.1, args := r.args } : Task)
      match r.tasks with
      | [] => .next s
      | t :: _ =>
        if r.kind = 1 then
          let w := r.tasks.length / r.benches.length
          let at_ := fun (i : Nat) => 4 * r.benches.getD (i / w) 0 + i % w
          let cores := (List.range r.tasks.length).map at_
          if !cores.all fun n => (freeCores s r.benches).contains n then .next ((replaceOut s r).getD s)
          else match cores.find? fun n => !translated s r.ctx (dieOf n) r.kern with
          | some n => .next (lookStreams s r.ctx (dieOf n) r.kern)
          | none => .next (r.tasks.foldl (fun s t => startTile s (at_ t.2.2.2) (task t) r.kern r.kctl 0 0 0 t.2.2.2) (cut r.tasks.length s))
        else
          let fs := freeCores s r.benches
          if fs.isEmpty then .next ((replaceOut s r).getD s)
          else
            let (f, s) := freeVal s
            let n := fs.getD (f % fs.length) 0
            if translated s r.ctx (dieOf n) r.kern then
              .next (startTile (cut 1 s) n (task t) r.kern r.kctl t.1 t.2.1 t.2.2.1 t.2.2.2)
            else .next (lookStreams s r.ctx (dieOf n) r.kern)

/-! ### Waiting (R424-R427) -/

/-- A bench that a reserving waiter may take from a node that still runs (R424). -/
def reclaimable (s : State) (r : NodeRun) (b : Nat) : Bool :=
  ((r.gang.isNone && r.kind == 0) || r.joined.contains b) && r.tasks.isEmpty && (List.range 4).all fun i =>
    let c := coreAt s (4 * b + i)
    !c.busy || (!c.task.sib.isEmpty && c.task.run != r.id)

/-- The reclaimable benches that are not yet on their way to a waiter, idle ones first. -/
def reclaims (s : State) : List Nat :=
  let bs := (List.range 128).filter fun b => s.runs.any fun r => r.benches.contains b && !r.giving.contains b && reclaimable s r b
  let idle := fun (b : Nat) => (List.range 4).all fun i => coreFree s (4 * b + i)
  bs.filter idle ++ bs.filter fun b => !idle b

/-- Benches that leave their nodes' grants once the siblings there have ended. -/
def givenBenches (s : State) : List Nat := s.runs.flatMap fun r => r.giving

/-- Asks `k` reclaimable benches back from their nodes: an idle one leaves the grant at once, and another as soon as the siblings there
have ended (R424, R426). -/
def reclaim (k : Nat) (s : State) : State :=
  let bs := (reclaims s).take k
  leaveBenches { s with
    runs := s.runs.map fun r => { r with giving := r.giving ++ r.benches.filter fun b => bs.contains b && !r.giving.contains b && reclaimable s r b } }

/-- Contexts whose siblings run on benches that are asked back. -/
def gangsAtBenches (s : State) : List Nat :=
  (s.ctxs.filter fun x => s.runs.any fun r => r.ctx == x.1 && !r.giving.isEmpty).map fun x => x.1

/-- WAITER_RESERVING: a waiter of 4 ms becomes reserving; the benches that it lacks are taken from nodes that have no more
use for them, and the gangs on reclaimable benches are asked to yield (R361, R424-R426). -/
def execWaiterReserving (s : State) : Host.Outcome State Fault Refusal :=
  let ctx := s.cur
  match waiterOf s ctx with
  | none => .next s
  | some (m, _) =>
    if waited s ctx < 4000000 then .next s
    else
      let s := setCtx s ctx { ctxAt s ctx with reserving := true }
      if oldestReserving s != some ctx then .next s
      else
        let s := reclaim (m - (freeBenches s).length - (givenBenches s).length) s
        if m ≤ (freeBenches s).length then .next s
        else .next ((gangsAtBenches s).foldl requestPre s)

/-- NODE_BOUNDARY_PREEMPTION: a context whose run waits without benches while none of its nodes runs records where it
stands; a gang that waits in place of the node is none of this (R425, R427). -/
def execNodeBoundaryPreemption (s : State) : Host.Outcome State Fault Refusal :=
  let ctx := s.cur
  let x := ctxAt s ctx
  match x.run with
  | none => .next s
  | some u =>
    if x.st = .hot && !nodeRuns s ctx && (waiterOf s ctx).isSome && (gangWaits s ctx).isNone then
      match nextNode x u with
      | some n => .next (setCtx s ctx { x with cmdptr := BitVec.ofNat 64 (x.taken % 2 ^ 32 + n % 2 ^ 16 * 2 ^ 32), saved := x.gs })
      | none => .next s
    else .next s

/-! ### Gangs (R355, R358, R361, R363) -/

/-- The task of a sibling. -/
def siblingTask (g : Group) (r : NodeRun) (i : Nat) : Task :=
  { ctx := g.ctx, sib := (g.uid, i) :: g.owner, node := g.node, run := r.id, t := i, i := i, args := r.args }

/-- Starts a sibling on a core (R355). -/
def startSibling (g : Group) (r : NodeRun) (s : State) (x : Nat × Nat) : State :=
  startTile s x.2 (siblingTask g r x.1) r.kern r.kctl x.1 g.n 0 x.1

/-- Grants a gang the benches that it lacks, when its context is the waiter served next: they join the grant of the node
that forked the group, which may be a gang itself, or the gang's own (R425), while the unpinned rows of that launch fit at the present
point (R393). -/
def gangGrant (s : State) (g : Group) (r : NodeRun) : State :=
  let k := gangLack s g
  let dest := if (runAt s g.forker).isSome then g.forker else r.id
  let rows := match s.runs.find? fun y => y.id == dest with | some y => unpinnedRows y.kern | none => 0
  if k = 0 || chosen s != some g.ctx || ((gangWaits s g.ctx).all fun x => x.uid != g.uid) || decide (unpinnedRoom s < rows) then s
  else
    let (bs, s) := grantBenches s g.ctx k
    let s := freshVaults s bs
    { s with runs := lmap (fun y => y.id == dest) (fun y => { y with
        benches := (List.range 128).filter fun b => (y.benches ++ bs).contains b
        joined := if y.gang.isSome && dest != r.id then y.joined ++ bs else y.joined }) s.runs }

/-- Free cores of the benches that a gang's context holds, one for each sibling to place, of the device's choice; none
while there are too few, or while a die is still without the translations (R312, R355). -/
def gangCores (s : State) (g : Group) (r : NodeRun) : Option (List Nat) × State :=
  let fs := freeCores s (heldBenches s g.ctx)
  let m := (toPlace g).length
  if fs.length < m then (none, s)
  else
    let (f, s) := freeVal s
    let k := f % (fs.length + 1)
    let cores := (fs.drop k ++ fs.take k).take m
    match cores.find? fun n => !translated s g.ctx (dieOf n) r.kern with
    | some n => (none, lookStreams s g.ctx (dieOf n) r.kern)
    | none => (some cores, s)

/-- GANG_START: at a gang's launch, every sibling that is not cancelled starts at once; the node's patches are written
first, and siblings whose patches fail count as ended (R355, R417, R502). -/
def execGangStart (s : State) : Host.Outcome State Fault Refusal :=
  match runAt s s.cur with
  | none => .next s
  | some r =>
    match r.gang.bind (groupOf s) with
    | none =>
      if r.gang.isNone then .next s
      else .next (nodeCheck { s with runs := lmap (fun y => y.id == r.id) (fun y => { y with tasks := [] }) s.runs } r.id)
    | some g =>
      if g.started || !gangDue s g then .next s
      else
        let s := gangGrant s g r
        let begun := fun (s : State) => { s with
          runs := lmap (fun y => y.id == r.id) (fun y => { y with tasks := [] }) s.runs
          groups := lmap (fun x => x.uid == g.uid) (fun x => { x with started := true }) s.groups }
        match gangCores s g r with
        | (none, s) => .next s
        | (some cores, s) =>
          let s := begun s
          match (match readPatches s g.ctx g.node with
              | .ok ps => writePatches g.ctx r.args.toNat ps s
              | .error (.bus c a) => (s, some (c, a))
              | .error _ => (s, some (0, 0))) with
          | (s, none) => .next (nodeCheck (((toPlace g).zip cores).foldl (startSibling g r) s) r.id)
          | (s, some x) => .next (nodeCheck ((toPlace g).foldl (fun s i => siblingDone s g.uid i) (engLog s 0 g.ctx x)) r.id)

/-- GROUP_DEADLINE_EXPIRY: a group whose LEFT has reached 0 closes with TMO and is scored (R357-R359). -/
def execGroupDeadlineExpiry (s : State) : Host.Outcome State Fault Refusal :=
  match groupOf s s.cur with
  | none => .next s
  | some g =>
    if (g.st = 1 || g.st = 2) && g.left == some 0 then
      .next (releaseGroup (putGroup s (closeGroup { g with tmo := true })) g.uid)
    else .next s

/-- The launch of a gang that resumes; while it waits for cores its list of tasks is not empty (R363). Where its node or kernel can no longer
be read there is none, and a walk that failed is logged (R379): the spec names no outcome, and the group stays Suspended and tries again
(DESIGN CHOICE, notes/assumptions/49.md). -/
def resumeRun (s : State) (g : Group) : Option NodeRun × State :=
  match s.runs.find? fun r => r.gang == some g.uid with
  | some r => (some r, s)
  | none => match readNode s g.ctx g.node with
    | .error e => (none, readLog s 0 g.ctx e)
    | .ok node => match readKernel s g.ctx node.obj node.ksym with
      | .error e => (none, readLog s 0 g.ctx e)
      | .ok d =>
        let (kern, s) := chooseDepths d s
        let r : NodeRun := {
          id := s.nextRun, ctx := g.ctx, node := g.node, kind := 2, kern := kern, benches := [], tasks := [(0, 0, 0, 0)],
          kctl := BitVec.ofNat 32 node.kctl, args := BitVec.ofNat 64 node.args, minb := node.minb, gang := some g.uid }
        (some r, { s with runs := s.runs ++ [r], nextRun := s.nextRun + 1 })

/-- Restarts a sibling from its slot; what of it cannot be read is 0, and logged (R352, R363, R379). -/
def resumeSibling (g : Group) (r : NodeRun) (s : State) (x : Nat × Nat) : State :=
  let a := g.cont.toNat + 4096 * x.1
  let slot := spaceNat s g.ctx g.owner a 4096
  let s := startSibling g r ((pagesOf a 4096).foldl (fun t p => logWalk t (dieOf x.2) g.ctx p.2) s) x
  setCoreAt s x.2 (restoreCore (coreAt s x.2) slot)

/-- GROUP_RESUME: the saved siblings of a Suspended group that are not cancelled go on, all at once, and those that are have ended; a launch
of theirs that waits for cores keeps the benches granted to it while the group may resume, and no longer (R357, R363, R425, R502). It writes
no patch points, which stand as the gang's start wrote them: the spec does not say whether the relaunch is a launch of the node in R417's
sense (DESIGN CHOICE, notes/assumptions/49.md). -/
def execGroupResume (s : State) : Host.Outcome State Fault Refusal :=
  match groupOf s s.cur with
  | none => .next s
  | some g =>
    if g.st ≠ 7 then .next s
    else if !gangDue s g then .next { s with runs := s.runs.filter fun r => !(r.gang == some g.uid && resumeWaits s r) }
    else match resumeRun s g with
      | (none, t) => .next t
      | (some r, t) =>
        let g1 := { g with st := if g.wascol then 2 else 1, pre := false, wascol := false, save := 0, done := g.done ||| (g.save &&& g.cancel) }
        match gangCores (gangGrant t g r) g r with
        | (none, s) => .next s
        | (some cores, s) =>
          let s := { s with runs := lmap (fun y => y.id == r.id) (fun y => { y with tasks := [] }) s.runs }
          .next (nodeCheck (((toPlace g).zip cores).foldl (resumeSibling g r) (putGroup s g1)) r.id)

/-! ### Commands of a context's queue (R421, R422) -/

/-- Takes the next command of a context's queue, when it has a code and the context is Hot with no run in progress. -/
def takeCtx (p : Nat → Bool) (go : State → Nat → Packet → State) (s : State) : State :=
  let ctx := s.cur
  let x := ctxAt s ctx
  if x.st ≠ .hot || x.halt.isSome || x.run.isSome || x.rerun.isSome then s
  else match nextCmd? (blockAt s (ctxBlock ctx)) with
    | some (.raw q) =>
      if !p (q.w0.toNat % 256) then s
      else
        let s := setCtx (dropCmd s (ctxBlock ctx) (.raw q)) ctx { x with taken := (x.taken + 1) % 2 ^ 32 }
        if q.w0.toNat / 256 ≠ 0 then endCmd s (ctxBlock ctx) q 2 0 0 else go s ctx q
    | _ => s

/-- CONTEXT_NOP completes DONE; a code that is not assigned completes BADCODE (R421). -/
def execContextNop (s : State) : Host.Outcome State Fault Refusal :=
  .next (takeCtx (fun c => c == 0 || decide (3 < c)) (fun s ctx q =>
    endCmd s (ctxBlock ctx) q (if q.w0.toNat % 256 = 0 then 0 else 2) 0 0) s)

/-- Starts a run of nodes `a` to `b` (R421, R423). -/
def startRun (single : Bool) (a b : Nat) (s : State) (ctx : Nat) (q : Packet) : State :=
  match graphHead s ctx with
  | .error (.bus c v) => endCmd (engLog s 0 ctx (c, v)) (ctxBlock ctx) q (0x40 + c) (v % 2 ^ 32) 0
  | .error _ => endCmd s (ctxBlock ctx) q 2 0 0
  | .ok h =>
    if b < a || fieldAt h 8 4 ≤ b then endCmd s (ctxBlock ctx) q 2 0 0
    else setCtx s ctx { ctxAt s ctx with run := some { id := (ctxAt s ctx).taken, pk := q, first := a, last := b, next := a, single := single } }

/-- NRUN (R421). -/
def execNrun (s : State) : Host.Outcome State Fault Refusal :=
  .next (takeCtx (fun c => c == 1) (fun s ctx q =>
    startRun true (q.w1.toNat % 2 ^ 16) (q.w1.toNat % 2 ^ 16) s ctx q) s)
/-- GRUN (R421). -/
def execGrun (s : State) : Host.Outcome State Fault Refusal :=
  .next (takeCtx (fun c => c == 2) (fun s ctx q =>
    startRun false (q.w1.toNat % 2 ^ 16) (q.w1.toNat / 2 ^ 16) s ctx q) s)
/-- GSET (R421, R422). -/
def execGset (s : State) : Host.Outcome State Fault Refusal :=
  .next (takeCtx (fun c => c == 3) (fun s ctx q =>
    if 8 ≤ q.w1.toNat then endCmd s (ctxBlock ctx) q 2 0 0
    else
      let x := ctxAt s ctx
      endCmd (setCtx s ctx { x with gs := fput x.gs q.w1.toNat q.w2 }) (ctxBlock ctx) q 0 0 0) s)

end Sys2Proof.Machine
end

