-- ==== Sys2Proof/Machine/Kernel.lean ====
section
/-! DEFINITION. Objects and linking, the translation cache and the substitution table (spec/11_kernel.md R301-R321,
spec/18_dispatch.md R415-R418). A graph image is read whole at its device address. -/

namespace Sys2Proof.Machine

/-! ### Images -/

/-- The field of `n` bytes at byte `o` of an image. -/
def iat (b : Array Byte) (o n : Nat) : Nat := leNat ((List.range n).map fun i => b.getD (o + i) 0)

/-- Bytes `o` to `o + n − 1` of an image. -/
def ibytes (b : Array Byte) (o n : Nat) : List Byte := (List.range n).map fun i => b.getD (o + i) 0

/-- The bytes of a graph image at a device address: up to the last byte that a table, an object or a memory-plan source
takes (R415). -/
def imageLen (s : State) (base : Nat) : Nat :=
  let h := devNat s base 128
  let ends := [128, fieldAt h 24 8 + 16 * fieldAt h 4 2, fieldAt h 32 8 + 64 * fieldAt h 8 4, fieldAt h 40 8 + 8 * fieldAt h 12 4,
      fieldAt h 48 8 + 16 * fieldAt h 16 4, fieldAt h 56 8 + 32 * fieldAt h 20 4]
    ++ ((List.range (fieldAt h 4 2)).map fun i =>
      let e := devNat s (base + fieldAt h 24 8 + 16 * i) 16
      fieldAt e 0 8 + fieldAt e 8 8)
    ++ (List.range (fieldAt h 20 4)).map fun i =>
      let e := devNat s (base + fieldAt h 56 8 + 32 * i) 32
      if fieldAt e 16 8 = 0 then 0 else fieldAt e 16 8 + fieldAt e 8 8
  ends.foldl max 0

/-- A graph image as bytes. -/
def imageAt (s : State) (base : Nat) : Array Byte := (devBytes s base (imageLen s base)).toArray

/-- Replaces bits 0 to `w` − 1 of the little-endian number at byte `o`. -/
def setBits (b : Array Byte) (o w v : Nat) : Array Byte :=
  let n := (w + 7) / 8
  let x := iat b o n
  let y := x / 2 ^ w * 2 ^ w + v % 2 ^ w
  loopN (fun i (b : Array Byte) => b.setIfInBounds (o + i) (BitVec.ofNat 8 (y / 256 ^ i))) n b

/-! ### Admission of an object (R301-R307) -/

/-- An entry of a section table (R302). -/
structure Sect where
  kind : Nat
  clus : Nat
  ker : Nat
  name : Nat
  off : Nat
  len : Nat
  al : Nat
  rest : Nat
deriving DecidableEq, Repr, Inhabited

/-- The section table of an object image. -/
def sectsOf (b : Array Byte) : List Sect :=
  (List.range (iat b 4 2)).map fun i =>
    let o := iat b 16 8 + 32 * i
    { kind := iat b o 1, clus := iat b (o + 1) 1, ker := iat b (o + 2) 2, name := iat b (o + 4) 4, off := iat b (o + 8) 8,
      len := iat b (o + 16) 8, al := iat b (o + 24) 1, rest := iat b (o + 25) 7 }

/-- The only section of a kind, or an empty one. -/
def oneSect (ss : List Sect) (kind : Nat) : Sect := (ss.find? fun x => x.kind == kind).getD default

/-- A string of the string section, without its zero byte. -/
def strOf (b : Array Byte) (ss : List Sect) (n : Nat) : List Byte :=
  let t := oneSect ss 5
  (ibytes b (t.off + n) (t.len - n)).takeWhile fun x => x != 0

/-- One byte of a UTF-8 check: continuation bytes still to come, and the range of the next one. -/
def utf8Step (st : Option (Nat × Nat × Nat)) (x : Byte) : Option (Nat × Nat × Nat) :=
  let c := x.toNat
  match st with
  | none => none
  | some (0, _, _) =>
    if c < 0x80 then some (0, 0, 0)
    else if c < 0xC2 then none
    else if c < 0xE0 then some (1, 0x80, 0xBF)
    else if c < 0xF0 then some (2, if c = 0xE0 then 0xA0 else 0x80, if c = 0xED then 0x9F else 0xBF)
    else if c < 0xF5 then some (3, if c = 0xF0 then 0x90 else 0x80, if c = 0xF4 then 0x8F else 0xBF)
    else none
  | some (n + 1, lo, hi) => if lo ≤ c && c ≤ hi then some (n, 0x80, 0xBF) else none

/-- The string section is UTF-8, and its last string ends (R302). -/
def stringsOk (b : Array Byte) (t : Sect) : Bool :=
  let bs := ibytes b t.off t.len
  bs.foldl utf8Step (some (0, 0, 0)) == some (0, 0, 0) && bs.getLast? == some 0

/-- A section-table entry keeps R302. -/
def sectOk (b : Array Byte) (ss : List Sect) (x : Sect) : Bool :=
  decide (1 ≤ x.kind) && decide (x.kind ≤ 7) && x.rest == 0 && decide (x.al ≤ 16) && decide (x.off + x.len ≤ b.size)
    && decide (x.name < (oneSect ss 5).len)
    && (if x.kind = 1 then decide (x.clus ≤ 3) && ((ss[x.ker]?).map fun k => k.kind) == some 3 && decide (2 ≤ x.al)
          && x.len != 0 && x.len % 4 == 0 && decide (x.len ≤ 16777216)
        else x.clus == 0 && x.ker == 0)

/-- The streams that a descriptor section owns, in cluster order. -/
def streamsOf (ss : List Sect) (k : Nat) : List Sect :=
  (List.range 4).flatMap fun c => ss.filter fun x => x.kind == 1 && x.ker == k && x.clus == c

/-- A kernel descriptor section keeps R302 and R303. -/
def descrOk (b : Array Byte) (ss : List Sect) (k : Nat) (x : Sect) : Bool :=
  let o := x.off
  let n := iat b (o + 216) 4
  let strs := oneSect ss 5
  decide (256 ≤ x.len) && decide (n ≤ 65535) && x.len == 256 + 16 * n && decide (iat b o 4 < strs.len)
    && decide (iat b (o + 4) 1 < 16) && iat b (o + 5) 3 == 0 && iat b (o + 148) 4 == 0 && iat b (o + 220) 36 == 0
    && iat b (o + 4) 1 != 0
    && ((List.range 4).all fun c => (ss.filter fun y => y.kind == 1 && y.ker == k && y.clus == c).length
      == b2n (bitAt (iat b (o + 4) 1) c))
    && ((List.range 16).all fun i =>
      let q := o + 8 + 8 * i
      let d := iat b (q + 4) 2
      decide (iat b q 1 ≤ 1) && decide (iat b (q + 1) 1 < 16) && iat b (q + 3) 1 == 0
        && (iat b q 1 == 0 || (decide (iat b (q + 2) 1 ≤ 2) && decide (1 ≤ d) && decide (d ≤ 4096) && decide (d + iat b (q + 6) 2 ≤ 4096))))
    && ((List.range 12).all fun i => decide (iat b (o + 136 + i) 1 % 16 ≤ iat b (o + 136 + i) 1 / 16))
    && ((List.range 16).all fun i => let e := iat b (o + 152 + 4 * i) 4; entryOk e && decide (e < 8192))
    && ((List.range n).all fun i =>
      let e := o + 256 + 16 * i
      decide (iat b e 4 < strs.len) && decide (iat b (e + 8) 4 ≤ 1) && iat b (e + 12) 4 == 0)

/-- A symbol (R304). -/
structure Sym where
  name : List Byte
  bind : Nat
  type : Nat
  sect : Nat
  value : Nat
  len : Nat
deriving DecidableEq, Repr, Inhabited

/-- The symbols of an object. -/
def symsOf (b : Array Byte) (ss : List Sect) : List Sym :=
  let t := oneSect ss 4
  (List.range (t.len / 24)).map fun i =>
    let o := t.off + 24 * i
    { name := strOf b ss (iat b o 4), bind := iat b (o + 4) 1, type := iat b (o + 5) 1, sect := iat b (o + 6) 2,
      value := iat b (o + 8) 8, len := iat b (o + 16) 8 }

/-- A symbol keeps R304. -/
def symOk (ss : List Sect) (y : Sym) : Bool :=
  decide (y.bind ≤ 3) && decide (y.type ≤ 2)
    && (if y.bind = 3 then y.sect == 0 && y.len == 0
        else match ss[y.sect]? with
          | none => false
          | some x => match y.type with
            | 0 => x.kind == 3 && y.value == 0
            | 1 => decide (y.value + y.len ≤ x.len)
            | _ => x.kind == 1 && decide (y.value < x.len) && decide (y.value + y.len ≤ x.len))

/-- A relocation entry (R305). -/
structure Reloc where
  off : Nat
  sect : Nat
  kind : Nat
  pad : Nat
  sym : Nat
  addend : Nat
deriving DecidableEq, Repr, Inhabited

/-- The relocations of an object. -/
def relocsOf (b : Array Byte) (ss : List Sect) : List Reloc :=
  (ss.filter fun x => x.kind == 6).flatMap fun t => (List.range (t.len / 24)).map fun i =>
    let o := t.off + 24 * i
    { off := iat b o 8, sect := iat b (o + 8) 2, kind := iat b (o + 10) 1, pad := iat b (o + 11) 1, sym := iat b (o + 12) 4,
      addend := iat b (o + 16) 8 }

/-- Bits that a relocation patches, from bit 0 of its item (R305). -/
def relocBits (kind : Nat) : Nat := match kind with | 0 => 64 | 1 => 32 | 2 => 18 | 3 => 14 | _ => 16
/-- The bits of a value that a relocation takes (R305). -/
def relocPart (kind v : Nat) : Nat := match kind with | 0 => v | 1 => v | 2 => v / 2 ^ 14 | 3 => v | _ => v / 2 ^ 32

/-- The MAJs of the shared map whose words have the F-RRI form (R90). -/
def majRri : List Nat := [3, 4, 5, 6, 7, 8, 9, 10, 11, 13, 0x26, 0x28, 0x29, 0x2A, 0x2B, 0x2C, 0x2D, 0x2E, 0x2F, 0x30, 0x31]

/-- The word has the form that a relocation kind patches: LUI; F-RRI, which WMADV of A has too; the F-AR immediate form of AADDI,
ALUI and JR (R90, R305). `a` says that the word stands in a stream of A. -/
def relocForm (kind w : Nat) (a : Bool) : Bool :=
  let h := bitAt w 31
  let maj := fld w 29 24
  match kind with
  | 2 => !h && maj == 0x0C
  | 3 => (!h && majRri.contains maj) || (h && a && maj == 0x19)
  | 4 => !h && (maj == 0x11 || maj == 0x13 || maj == 0x20)
  | _ => true

/-- A relocation keeps R305. -/
def relocOk (b : Array Byte) (ss : List Sect) (nsym : Nat) (r : Reloc) : Bool :=
  decide (r.kind ≤ 4) && r.pad == 0 && decide (r.sym < nsym)
    && (match ss[r.sect]? with
      | none => false
      | some x => decide (r.off + (if r.kind = 0 then 8 else 4) ≤ x.len) && relocForm r.kind (iat b (x.off + r.off) 4) (x.kind == 1 && x.clus == 0))

/-- Where a relocation's item lies in its object. -/
def relocAt (ss : List Sect) (r : Reloc) : Nat := ((ss[r.sect]?).getD default).off + r.off

/-- An object with every relocated item masked to zero (R301). -/
def maskItems (b : Array Byte) (ss : List Sect) : Array Byte :=
  (relocsOf b ss).foldl (fun b r => setBits b (relocAt ss r) (relocBits r.kind) 0) b

/-- The entries of a version note: key, zero bytes, value (R306). -/
def notesOf (b : Array Byte) (ss : List Sect) : List (Nat × Nat × Nat) :=
  let t := oneSect ss 7
  (List.range (t.len / 8)).map fun i => (iat b (t.off + 8 * i) 2, iat b (t.off + 8 * i + 2) 2, iat b (t.off + 8 * i + 4) 4)

/-- The value of a key of a version note. -/
def noteVal (ns : List (Nat × Nat × Nat)) (k : Nat) : Option Nat := (ns.find? fun x => x.1 == k).map fun x => x.2.2

/-- No two elements of a list are equal. -/
def noDup {α : Type} [BEq α] : List α → Bool
  | [] => true
  | x :: r => !r.contains x && noDup r

/-- MAGIC, the reserved fields and R302-R306 of an object whose image is `b` (R307). -/
def objOk (b : Array Byte) (ss : List Sect) : Bool :=
  let count := fun (k : Nat) => (ss.filter fun x => x.kind == k).length
  let ks := ss.zipIdx.filter fun x => x.1.kind == 3
  let ns := notesOf b ss
  iat b 0 4 == 0x4F4C5449 && decide (1 ≤ iat b 4 2) && iat b 6 2 == 0 && iat b 8 8 == b.size && iat b 72 24 == 0
    && decide (96 ≤ b.size) && decide (iat b 16 8 + 32 * iat b 4 2 ≤ b.size)
    && ss.all (sectOk b ss) && count 7 == 1 && count 5 == 1 && decide (count 4 ≤ 1) && stringsOk b (oneSect ss 5)
    && (ks.all fun x => descrOk b ss x.2 x.1) && noDup (ks.map fun x => strOf b ss (iat b x.1.off 4))
    && (oneSect ss 4).len % 24 == 0
    && ((List.range ((oneSect ss 4).len / 24)).all fun i => decide (iat b ((oneSect ss 4).off + 24 * i) 4 < (oneSect ss 5).len))
    && (symsOf b ss).all (symOk ss)
    && (ss.all fun x => x.kind != 6 || x.len % 24 == 0) && (relocsOf b ss).all (relocOk b ss (symsOf b ss).length)
    && (oneSect ss 7).len % 8 == 0 && (ns.all fun x => x.2.1 == 0) && noDup (ns.map fun x => x.1) && (noteVal ns 1).isSome

/-- Admission of an object: 0, or the status that refuses it (R307, R309). -/
def admission (b : Array Byte) : Nat :=
  let ss := sectsOf b
  if !objOk b ss then 0x30
  else if sha384 (setBits (maskItems b ss) 24 384 0).toList != ibytes b 24 48 then 0x35
  else
    let ns := notesOf b ss
    if ns.any fun x => decide (0x8000 ≤ x.1) then 0x32
    else
      let lv := (noteVal ns 1).getD 0
      let tol := fun (t : Nat) => t / 256 % 256 == 2 && decide (t ≤ 0x0200)
      if lv / 256 % 256 ≠ 2 then 0x31
      else if lv ≤ 0x0200 then 0
      else if (noteVal ns 3).any tol then 0 else 0x31

/-! ### Linking (R305, R308, R309) -/

/-- An object of a graph image as linking uses it. -/
structure Obj where
  off : Nat
  b : Array Byte
  ss : List Sect
  syms : List Sym
  rels : List Reloc
deriving Inhabited

/-- The objects of an image in load order. -/
def objsOf (b : Array Byte) : List Obj :=
  (List.range (iat b 4 2)).map fun i =>
    let e := iat b 24 8 + 16 * i
    let x := (ibytes b (iat b e 8) (iat b (e + 8) 8)).toArray
    let ss := sectsOf x
    { off := iat b e 8, b := x, ss := ss, syms := symsOf x ss, rels := relocsOf x ss }

/-- What the body digest of a definition is taken over (R308): TYPE, LENGTH, the defined bytes with the relocated items
masked, and the relocations within them with their targets' names. -/
def bodyOf (o : Obj) (y : Sym) : Nat × Nat × List Byte × List (Nat × Nat × Nat × List Byte) :=
  let parts : List (Nat × Nat × Nat) :=
    if y.type = 0 then
      let d := (o.ss[y.sect]?).getD default
      (y.sect, 0, d.len) :: (o.ss.zipIdx.filter fun x => x.1.kind == 1 && x.1.ker == y.sect).map fun x => (x.2, 0, x.1.len)
    else [(y.sect, y.value, y.len)]
  let parts := (List.range 5).flatMap fun c => parts.filter fun p =>
    let x := (o.ss[p.1]?).getD default
    (if x.kind = 1 && y.type = 0 then x.clus + 1 else 0) == c
  let m := maskItems o.b o.ss
  let bytes := parts.flatMap fun p => ibytes m (((o.ss[p.1]?).getD default).off + p.2.1) p.2.2
  let rels := (parts.foldl (fun (a : Nat × List (Nat × Nat × Nat × List Byte)) p =>
    (a.1 + p.2.2, a.2 ++ (o.rels.filter fun r => r.sect == p.1 && decide (p.2.1 ≤ r.off) && decide (r.off < p.2.1 + p.2.2)).map fun r =>
      (a.1 + r.off - p.2.1, r.kind, r.addend, ((o.syms[r.sym]?).getD default).name))) (0, [])).2
  (y.type, y.len, bytes, rels)

/-- The global definitions of an image in load order: object, symbol index, object image, symbol. -/
def globals (os : List Obj) : List (Nat × Nat × Obj × Sym) :=
  os.zipIdx.flatMap fun o => (o.1.syms.zipIdx.filter fun y => y.1.bind == 1 || y.1.bind == 2).map fun y => (o.2, y.2, o.1, y.1)

/-- Two definitions of one name that cannot stand together (R308). -/
def conflict (a b : Nat × Nat × Obj × Sym) : Bool :=
  a.2.2.2.name == b.2.2.2.name
    && (a.2.2.2.type != b.2.2.2.type
      || (a.2.2.2.bind == 1 && b.2.2.2.bind == 1 && bodyOf a.2.2.1 a.2.2.2 != bodyOf b.2.2.1 b.2.2.2))

/-- The first definition in load order that conflicts with an earlier one. -/
def firstConflict (seen : List (Nat × Nat × Obj × Sym)) : List (Nat × Nat × Obj × Sym) → Option (Nat × Nat)
  | [] => none
  | d :: r => if seen.any fun e => conflict e d then some (d.1, d.2.1) else firstConflict (seen ++ [d]) r

/-- The definition that a global name resolves to (R308). -/
def chosenDef (gs : List (Nat × Nat × Obj × Sym)) (name : List Byte) : Option (Obj × Sym) :=
  let ds := gs.filter fun d => d.2.2.2.name == name
  ((ds.find? fun d => d.2.2.2.bind == 1) <|> ds.head?).map fun d => (d.2.2.1, d.2.2.2)

/-- The virtual address of a symbol (R305). -/
def symAddr (gbase : Nat) (o : Obj) (y : Sym) : Nat := gbase + o.off + ((o.ss[y.sect]?).getD default).off + y.value

/-- Index of the first element that fails a check. -/
def firstNot {α : Type} (p : α → Bool) (l : List α) : Option Nat := l.findIdx? fun x => !p x

/-- Two memory-plan ranges share a page. -/
def rangesMeet (a b : Nat × Nat) : Bool := decide (a.1 < b.1 + b.2) && decide (b.1 < a.1 + a.2)

/-- A memory-plan entry keeps R418. -/
def planOk (e : Nat) : Bool :=
  let attr := fieldAt e 24 4
  let pg := if bitAt attr 3 then 33554432 else 65536
  fieldAt e 0 8 % pg == 0 && fieldAt e 8 8 != 0 && fieldAt e 8 8 % pg == 0 && decide (fieldAt e 0 8 + fieldAt e 8 8 ≤ 2 ^ 48)
    && decide (attr < 2 ^ 17) && !bitAt attr 0 && !bitAt attr 6 && !bitAt attr 7 && !bitAt attr 8 && decide (fld attr 10 9 ≤ 1)
    && fieldAt e 28 4 == 0

/-- The entries of a table of an image. -/
def tableOf (b : Array Byte) (at_ n size : Nat) : List Nat := (List.range n).map fun i => iat b (iat b at_ 8 + size * i) size

/-- The memory plan of an image. -/
def planEntries (b : Array Byte) : List Nat := tableOf b 56 (iat b 20 4) 32

/-- The header and the tables of an image keep R415-R418: nothing, or the DETAIL that OLINK reports. -/
def tablesBad (b : Array Byte) (os : List Obj) : Option Nat :=
  let entry := fun (x : Option Nat) => x.map fun i => 0xFFFF + i % 65536 * 65536
  let nnode := iat b 8 4
  let plan := planEntries b
  if iat b 0 4 ≠ 0x46415247 || iat b 4 2 = 0 || iat b 6 2 ≠ 0 || nnode = 0 || 65535 < nnode || iat b 116 4 ≠ 0
      || iat b 120 8 % 65536 ≠ 0 || 2 ^ 48 ≤ iat b 120 8 then some 0xFFFFFFFF
  else
    (entry (firstNot (fun e => nodeOk (iat b 4 2) e &&
        (match os[(nodeOf e).obj]? with
         | some o => (o.syms[(nodeOf e).ksym]?).any fun y => y.type == 0
         | none => false)) (tableOf b 32 nnode 64)))
      <|> entry (firstNot (fun e => decide (fieldAt e 0 4 < fieldAt e 4 4) && decide (fieldAt e 4 4 < nnode)) (tableOf b 40 (iat b 12 4) 8))
      <|> entry (firstNot (fun e => decide (fieldAt e 0 2 < nnode) && decide (fieldAt e 2 1 ≤ 2) && fieldAt e 4 4 % 4 == 0
          && decide (fieldAt e 4 4 < 65536) && fieldAt e 8 8 == 0
          && (fieldAt e 2 1 == 2 || decide (fieldAt e 3 1 < if fieldAt e 2 1 = 0 then 128 else 8))) (tableOf b 48 (iat b 16 4) 16))
      <|> entry (firstNot planOk plan)
      <|> entry (firstNot (fun x => !((plan.take x.2).any fun y =>
          rangesMeet (fieldAt y 0 8, fieldAt y 8 8) (fieldAt x.1 0 8, fieldAt x.1 8 8))) plan.zipIdx)

/-- A section lies at a multiple of its alignment in the image (R418). -/
def alignOk (o : Obj) : Bool := o.ss.all fun x => (o.off + x.off) % 2 ^ x.al == 0

/-- The patched items of an image, or a status and a DETAIL (R308, R309). -/
def linkImage (b : Array Byte) : Except (Nat × Nat) (Array Byte) :=
  let os := objsOf b
  match os.zipIdx.find? fun o => admission o.1.b != 0 || !alignOk o.1 with
  | some (o, i) => .error (if admission o.b ≠ 0 then admission o.b else 0x30, i)
  | none => match tablesBad b os with
    | some d => .error (0x30, d)
    | none =>
      let gs := globals os
      match firstConflict [] gs with
      | some (o, y) => .error (0x33, o + y % 65536 * 65536)
      | none =>
        let refs := os.zipIdx.flatMap fun o => (o.1.syms.zipIdx.filter fun y => y.1.bind == 3).map fun y => (o.2, y.2, y.1)
        match refs.find? fun r => (chosenDef gs r.2.2.name).isNone with
        | some (o, y, _) => .error (0x34, o + y % 65536 * 65536)
        | none =>
          let items := os.zipIdx.flatMap fun o => o.1.rels.map fun r =>
            let y := (o.1.syms[r.sym]?).getD default
            let (def_, d) := if y.bind = 0 then (o.1, y) else (chosenDef gs y.name).getD (o.1, y)
            (o.2, o.1.off + relocAt o.1.ss r, r, (symAddr (iat b 120 8) def_ d + r.addend) % 2 ^ 64)
          match items.find? fun x => x.2.2.1.kind == 1 && decide (2 ^ 32 ≤ x.2.2.2) with
          | some x => .error (0x30, x.1 + x.2.2.1.sym % 65536 * 65536)
          | none => .ok (items.foldl (fun b x => setBits b x.2.1 (relocBits x.2.2.1.kind) (relocPart x.2.2.1.kind x.2.2.2)) b)

/-- The bytes that differ between two images, with their places. -/
def changed (a b : Array Byte) : List (Nat × Byte) :=
  (b.toList.zipIdx.filter fun x => a.getD x.2 0 != x.1).map fun x => (x.2, x.1)

/-- Takes the next command of a host command queue when its code satisfies `p`, on a device that has booted (R331,
R476). -/
def takeHost (p : Nat → Bool) (go : State → Nat → Packet → State) (s : State) : State :=
  let n := s.cur
  if n < 1156 || 1160 ≤ n || s.boot.stage ≠ 7 then s
  else match nextCmd? (blockAt s n) with
    | some (.raw q) => if p (q.w0.toNat % 256) then go (dropCmd s n (.raw q)) n q else s
    | _ => s

/-- The device address that a packet names (R299, R309). -/
def packetAddr (q : Packet) : Nat := q.w1.toNat + q.w2.toNat % 2 ^ 16 * 2 ^ 32

/-- Lists a name once, with the largest size. -/
def mergeName {α : Type} [BEq α] (l : List (α × Nat)) (x : α × Nat) : List (α × Nat) :=
  if l.any fun y => y.1 == x.1 then lmap (fun y => y.1 == x.1) (fun y => (y.1, max y.2 x.2)) l else l ++ [x]

/-- The pinned extents that the descriptors of an object declare: name and size, in order (R303). -/
def pinnedDecls (o : Obj) : List (List Byte × Nat) :=
  (o.ss.filter fun x => x.kind == 3).flatMap fun d => (List.range (iat o.b (d.off + 216) 4)).filterMap fun j =>
    let e := d.off + 256 + 16 * j
    if bitAt (iat o.b (e + 8) 4) 0 then some (strOf o.b o.ss (iat o.b e 4), iat o.b (e + 4) 4) else none

/-- The sizes of the pinned extents of an image, in load order of their first declaration (R389). -/
def pinnedOf (b : Array Byte) : List Nat := (((objsOf b).flatMap pinnedDecls).foldl mergeName []).map fun x => x.2

/-- OLINK: the image is checked, linked and sealed, and its pinned extents are listed under its seal, or nothing changes (R308,
R309, R389, R415). -/
def execOlink (s : State) : Host.Outcome State Fault Refusal :=
  .next (takeHost (fun c => c == 0x20) (fun s n q =>
    let base := packetAddr q
    if q.w0.toNat / 256 ≠ 0 then endCmd s n q 2 0 0
    else
      let b := imageAt s base
      match linkImage b with
      | .error (st, d) => endCmd s n q st d 0
      | .ok x =>
        let mark := sha384 (setBits x 64 416 0).toList
        let s := (changed b x).foldl (fun s p => strongPut s (base + p.1) p.2) { s with linked := fput s.linked (leNat mark) (pinnedOf x) }
        endCmd (strongPuts s (base + 64) (mark ++ leBytes 4 1)) n q 0 0 0) s)

/-! ### Pinned extents of an image (R389) -/

/-- The pinned extents that the descriptors of object `i` declare: name and size, in order. -/
def pinnedIn (s : State) (ctx i : Nat) : Except LErr (List (List Nat × Nat)) := do
  let v ← readObj s ctx i
  let ds := v.sects.filter fun e => fieldAt e 0 1 == 3
  let xs ← ds.mapM fun d => do
    let o := v.at_ + fieldAt d 8 8
    let n ← devRead s ctx (o + 216) 4
    let es ← (List.range n).mapM fun j => do
      let e ← devRead s ctx (o + 256 + 16 * j) 16
      let name ← symName s ctx v e
      .ok (name, fieldAt e 4 4, bitAt (fieldAt e 8 4) 0)
    .ok ((es.filter fun e => e.2.2).map fun e => (e.1, e.2.1))
  .ok xs.flatten

/-- The sizes of the pinned extents of a context's image: as OLINK listed them under its seal, from the image where this device has
no such list, and none where the image is not sealed (R389). -/
def pinnedSizes (s : State) (ctx : Nat) : Except LErr (List Nat) := do
  let h ← graphHead s ctx
  if fieldAt h 112 4 ≠ 1 then .ok []
  else if fhas s.linked (fieldAt h 64 48) then .ok (fget [] s.linked (fieldAt h 64 48))
  else
  let xs ← (List.range (fieldAt h 4 2)).mapM (pinnedIn s ctx)
  .ok ((xs.flatten.foldl mergeName []).map fun x => x.2)

/-! ### The substitution table (R319, R320) -/

/-- A host command of a block that waits. -/
def refOf (n : Nat) (q : Packet) : HostRef := { block := n, pk := q }

/-- The context that a command names (R299). -/
def cmdCtx (q : Packet) : Nat := fld q.w0.toNat 17 8

/-- Completes a waiting host command, here or at the device where it waits. -/
def endRef (s : State) (r : Option HostRef) (status : Nat) : State :=
  match r with
  | some r => match r.away with
    | none => endCmd s r.block r.pk status 0 0
    | some d => sendMsg s d 2 (.retired (cmdCtx r.pk) status)
  | none => s

/-- VERSION of a substitution table (R319). -/
def tableVersion (t : List Byte) : Nat := leNat ((t.drop 4).take 4)

/-- The header of a substitution table is wrong (R319). -/
def tableBad (t : List Byte) : Bool := leNat (t.take 4) != 0x42555354 || (t.drop 16).take 48 != List.replicate 48 0

/-- A table's signature verifies (R319, R474; notes/assumptions/12.md). -/
def tableSigned (t : List Byte) : Bool := Config.signed t

/-- SUBLOAD: a table that is accepted is installed once no tile runs (R320). -/
def execSubload (s : State) : Host.Outcome State Fault Refusal :=
  .next (takeHost (fun c => c == 0x21 && s.tableBusy.isNone && !s.power.pend) (fun s n q =>
    let base := packetAddr q
    let t := devBytes s base (160 + devNat s (base + 12) 4)
    if q.w0.toNat / 256 ≠ 0 then endCmd s n q 2 0 0
    else if tableBad t then endCmd s n q 0x3A 0 0
    else if !tableSigned t then endCmd s n q 0x38 0 0
    else if t == tableImage s then endCmd s n q 0 0 0
    else if tableVersion t ≤ tableVersion (tableImage s) then endCmd s n q 0x39 0 0
    else { s with tableBusy := some (refOf n q), tableNew := t }) s)

/-- SUBSTITUTION_INSTALL: no tile runs and no context moves: the table is installed, every
translation is gone, and SUBLOAD completes (R320). -/
def execSubstitutionInstall (s : State) : Host.Outcome State Fault Refusal :=
  match s.tableBusy with
  | none => .next s
  | some r =>
    if (s.cores.any fun nc => nc.2.busy) || (s.ctxs.any fun x => x.2.st == .migrating) then .next s
    else .next (endRef { s with table := s.tableNew, tableNew := [], tableBusy := none, xlates := [] } (some r) 0)

/-! ### Translations (R311-R313) -/

/-- The streams of a context's running tiles on a die. -/
def usedStreams (s : State) (ctx die : Nat) : List Addr :=
  (s.cores.filter fun nc => nc.2.busy && nc.2.task.ctx == ctx && dieOf nc.1 == die).flatMap fun nc =>
    (nc.2.clu.filter fun k => k.2.active).map fun k => k.2.base

/-- TRANSLATION_BUILD_END: at a place of the list, an entry that is being built becomes Valid with the words that memory
holds (R312, R313). -/
def execTranslationBuildEnd (s : State) : Host.Outcome State Fault Refusal :=
  match s.xlates[s.cur]? with
  | none => .next s
  | some x =>
    if x.st ≠ .building then .next s
    else .next (logCode { s with xlates := s.xlates.set s.cur (buildEntry s x) } x)

/-- TRANSLATION_EVICTION: an entry at a place of the list that no running tile uses is gone (R311, R313). -/
def execTranslationEviction (s : State) : Host.Outcome State Fault Refusal :=
  match s.xlates[s.cur]? with
  | none => .next s
  | some x =>
    if x.st = .building || (usedStreams s x.ctx x.die).contains x.base then .next s
    else .next { s with xlates := s.xlates.eraseIdx s.cur }

end Sys2Proof.Machine
end

