-- ==== Sys2Proof/Machine/Moves.lean ====
section
/-! DEFINITION. Moving a context's pages, extents and record: between tiers, between vaults, and to and from an image
(spec/10_context.md R289-R298, spec/15_page.md R365-R382, spec/16_extent.md R388-R401). -/

namespace Sys2Proof.Machine

/-! ### The leaves and frames of a context (R365-R376) -/

/-- The frames of a context's page tables. -/
def tableFrames (s : State) (ctx : Nat) : List Nat :=
  let root := (ctxAt s ctx).ptroot
  root :: (listedIn s (root * 65536) 1024).flatMap fun i =>
    let e0 := devNat s (root * 65536 + 8 * i) 8
    if ptrBad 0 e0 then []
    else (fld e0 51 12 / 16) :: (listedIn s (fld e0 51 12 * 4096) 8192).flatMap fun j =>
      let e1 := devNat s (fld e0 51 12 * 4096 + 8 * j) 8
      if bitAt e1 3 || ptrBad 1 e1 then [] else [fld e1 51 12 / 16]

/-- Adds a run of frames unless its first frame is covered. -/
def addRun (l : List (Nat × Nat × Nat)) (x : Nat × Nat × Nat) : List (Nat × Nat × Nat) :=
  if l.any fun y => y.1 == x.1 && decide (y.2.1 ≤ x.2.1) && decide (x.2.1 < y.2.1 + y.2.2) then l else l ++ [x]

/-- The runs of frames of every tier that the pages selected by `p` use, fork copies and shadows included: tier, first frame,
frames. -/
def runsOf (s : State) (ctx : Nat) (p : Nat → Bool) : List (Nat × Nat × Nat) :=
  let ls := ((leavesOf s ctx).filter fun x => p x.2.2.1).map fun x =>
    (fld x.2.2.2 10 9, fld x.2.2.2 52 17, if x.1 = 1 then 512 else 1)
  let gs := (s.groups.filter fun g => g.ctx == ctx).flatMap fun g => (g.maps.filter fun m => p m.page).flatMap fun m =>
    (m.tier, m.orig, 1) :: m.copies.map fun c => (m.tier, c.2, 1)
  ((ls.filter fun x => x.2.2 == 512) ++ (ls.filter fun x => x.2.2 == 1) ++ gs).foldl addRun []

/-- The runs of this package's own frames. -/
def framesOf (s : State) (ctx : Nat) (p : Nat → Bool) : List (Nat × Nat × Nat) := (runsOf s ctx p).filter fun x => decide (x.1 ≤ 1)

/-- Writes back and drops every core's sectors in the frames of a context, held sets and lent frames included; its entries
leave the lookaside arrays (R289, R293, R380). What stands on a held set stays listed (R346). -/
def flushCtx (s : State) (ctx : Nat) : State :=
  let keys := (runsOf s ctx fun _ => true).flatMap fun x => (List.range x.2.2).map fun i => frameKey x.1 (x.2.1 + i) 0 / 65536
  let mine := fun (x : Sector) => keys.contains (x.key * 64 / 65536)
  dropLook (s.cores.foldl (fun s nc => evictAll mine nc.1 s) s) ctx

/-- Writes the L2 bytes of a context's frames back to their tiers (R293). -/
def cleanCtx (s : State) (ctx : Nat) : State :=
  (runsOf s ctx fun _ => true).foldl (fun s x => l2Clean s (frameKey x.1 x.2.1 0) (65536 * x.2.2)) s

/-- Writes zeros at a place of a context's pinned extent, wherever its bytes now are. -/
def zeroInExt (s : State) (ctx i o n : Nat) : State :=
  let x := ctxAt s ctx
  match x.exts[i]? with
  | none => s
  | some e =>
    if inRows e then vaultPuts s (e.base + o) (leBytes n 0)
    else setCtx s ctx { x with exts := x.exts.set i { e with saved := e.saved.filter fun b => !(decide (o ≤ b.1) && decide (b.1 < o + n)) } }

/-- The frames of a page that any viewer of it uses: that of its leaf, and those of the live groups that fork it, with its tier (R373). -/
def viewsOf (s : State) (ctx page : Nat) : List (Nat × Nat) :=
  match walkTable s (ctxAt s ctx).ptroot page with
  | .leaf l _ _ => (framesNamed s ctx page).eraseDups.map fun f => (leafTier l, f)
  | .bad _ _ => []

/-- The held-set word of a listed object becomes 0: in memory in every view that has the list, or where the extent that holds it now
stands; an unpinned instance is gone by then, and so is the view of a released sibling (R346, R374). -/
def zeroHold (s : State) (ctx : Nat) (h : Hold) : State :=
  match h.vault, h.ext with
  | false, _ => (viewsOf s ctx (h.word / 65536)).foldl (fun s f =>
      let k := frameKey f.1 f.2 (h.word % 65536)
      if devNat s k 8 % 2 ^ 20 = h.list then strongPuts s k (leBytes 8 0) else s) s
  | true, some i => zeroInExt s ctx i h.word 8
  | true, none => s

/-- Every held set of a context is emptied: its entries leave the hold table, and the held-set word of each object is 0 (R346,
R350). -/
def emptyHolds (s : State) (ctx : Nat) : State :=
  (s.holds.filter fun h => h.ctx == ctx).foldl (fun s h => zeroHold s ctx h) { s with holds := s.holds.filter fun h => h.ctx != ctx }

/-- The new place of a frame: runs of frames with the first frame that each moves to. -/
def moved (m : List (Nat × Nat × Nat × Nat)) (tier f : Nat) : Nat :=
  match m.find? fun y => y.1 == tier && decide (y.2.1 ≤ f) && decide (f < y.2.1 + y.2.2.1) with
  | some y => y.2.2.2 + (f - y.2.1)
  | none => f

/-- The map of a fork entry after a move: a lent page that does not move keeps its tier. -/
def movedFork (m : List (Nat × Nat × Nat × Nat)) (dest : Nat → Nat) (k : Fork) : Fork :=
  { k with orig := moved m k.tier k.orig, tier := if k.tier = 2 && moved m 2 k.orig = k.orig then 2 else dest k.tier, copies := k.copies.map fun c => (c.1, moved m k.tier c.2) }

/-- The sector number of a listed sector after a move of frames of tier `from_` to tier `dest`. -/
def movedSector (m : List (Nat × Nat × Nat × Nat)) (from_ dest sec : Nat) : Nat :=
  match m.find? fun y => decide (frameKey from_ y.2.1 0 ≤ sec * 64) && decide (sec * 64 < frameKey from_ (y.2.1 + y.2.2.1) 0) with
  | some y => (sec * 64 - frameKey from_ y.2.1 0 + frameKey dest y.2.2.2 0) / 64
  | none => sec

/-- The 512-byte line of a translated word after a move (R313). -/
def movedLine (m : List (Nat × Nat × Nat × Nat)) (from_ dest line : Nat) : Nat := movedSector m from_ dest (8 * line) / 8

/-- Moves the frames of the selected pages from one tier to another; each distinct frame moves once (R289, R370, R371). -/
def moveTier (s : State) (ctx from_ dest : Nat) (p : Nat → Bool) : State :=
  let runs := (framesOf s ctx p).filter fun x => x.1 == from_
  let ls := (leavesOf s ctx).filter fun x => p x.2.2.1 && fld x.2.2.2 10 9 == from_
  let (m, s) := runs.foldl (fun (a : List (Nat × Nat × Nat × Nat) × State) x =>
    let (f, s) := takeRun a.2 dest x.2.2
    let s := (List.range x.2.2).foldl (fun s i => copyFrame s (frameKey from_ (x.2.1 + i) 0) (frameKey dest (f + i) 0)) s
    (a.1 ++ [(from_, x.2.1, x.2.2, f)], s)) ([], s)
  let s := ls.foldl (fun s x => setLeaf s x.2.1 (setFld (setFld x.2.2.2 10 9 dest) 52 17 (moved m from_ (fld x.2.2.2 52 17)))) s
  let s := runs.foldl (fun s x => (List.range x.2.2).foldl (fun s i => freeFrame s from_ (x.2.1 + i)) s) s
  { s with
    groups := lmap (fun g => g.ctx == ctx) (fun g => { g with
      maps := lmap (fun k => p k.page && k.tier == from_) (movedFork m fun _ => dest) g.maps }) s.groups
    holds := s.holds.map fun h => { h with sector := movedSector m from_ dest h.sector }
    xlates := s.xlates.map fun x => { x with lines := x.lines.map (movedLine m from_ dest) }
    shadows := lmap (fun x => x.ctx == ctx && p (x.window.toNat / 65536) && x.tier == from_)
      (fun x => { x with frames := x.frames.map (moved m from_), tier := dest }) s.shadows }

/-- Frames that the selected pages take in a tier. -/
def framesIn (s : State) (ctx tier : Nat) (p : Nat → Bool) : Nat :=
  ((framesOf s ctx p).filter fun x => x.1 == tier).foldl (fun n x => n + x.2.2) 0

/-- Frames of a tier that the context's groups have reserved for the selected pages and not used (R372). -/
def reservedIn (s : State) (ctx tier : Nat) (p : Nat → Bool) : Nat :=
  (s.groups.filter fun g => g.ctx == ctx).foldl (fun n g => n + reservedOf { g with maps := g.maps.filter fun m => p m.page } tier) 0

/-! ### Pinned extents (R388-R401) -/

/-- Writes an extent's slot of the extent table (R389). -/
def writeSlot (s : State) (ctx i : Nat) : State :=
  let x := ctxAt s ctx
  match x.exts[i]? with
  | none => s
  | some e => deviceWrite s 0 ctx [] (x.exttab.toNat + 16 * i)
      (leBytes 4 e.base ++ leBytes 4 e.size ++ leBytes 2 (rowsOf e.size) ++ [BitVec.ofNat 8 e.st, 0] ++ leBytes 4 e.gen.toNat)

/-- Writes every slot of a context's extents. -/
def writeSlots (s : State) (ctx : Nat) : State :=
  (List.range (ctxAt s ctx).exts.length).foldl (fun s i => writeSlot s ctx i) s

/-- An extent's bytes and damage marks, taken out of its vault (R289, R397). -/
def saveExt (s : State) (e : Extent) : Extent :=
  if !inRows e then e
  else
    let here := fun (a : Nat) => decide (e.base ≤ a) && decide (a < e.base + e.size)
    { e with st := 3, base := 0, saved := (s.vault.filter fun x => here x.1).map (fun x => (x.1 - e.base, x.2))
             bad := (s.badVault.filter fun x => decide (e.base ≤ 64 * x) && decide (64 * x < e.base + 1024 * rowsOf e.size)).map fun x => x - e.base / 64 }

/-- Clears the rows of an extent: its bytes and marks leave the vault. -/
def clearRows (s : State) (e : Extent) : State :=
  let here := fun (a : Nat) => decide (e.base ≤ a) && decide (a < e.base + 1024 * rowsOf e.size)
  { s with vault := s.vault.filter fun x => !here x.1, badVault := s.badVault.filter fun x => !here (64 * x) }

/-- Saves every placed extent of a context to the cold tier (R289, R401). -/
def saveExts (s : State) (ctx : Nat) : State :=
  let x := ctxAt s ctx
  let s1 := setCtx s ctx { x with exts := x.exts.map (saveExt s) }
  writeSlots ((x.exts.filter inRows).foldl clearRows s1) ctx

/-- Rows of a vault that placed extents take: first row and rows. -/
def placedIn (s : State) (v : Nat) : List (Nat × Nat) :=
  s.ctxs.flatMap fun x => (x.2.exts.filter fun e => inRows e && e.base / 2 ^ 25 == v).map fun e => (fld e.base 24 10, rowsOf e.size)

/-- A place for `n` rows in the band of vault `v`: the first that is free (R388). -/
def placeIn (s : State) (v n : Nat) : Option Nat :=
  let lo := mappedRows s v (mapPoint s.power) - 1536
  if s.outVaults.contains v || decide (1536 < n) then none
  else (firstBelow (fun i => (placedIn s v).all fun p => decide (lo + i + n ≤ p.1) || decide (p.1 + p.2 ≤ lo + i)) (1536 - n + 1)).map
    fun i => lo + i

/-- A place in some vault in service, of the device's choice: BASE (R388, R400). -/
def placeAny (s : State) (n : Nat) : Option Nat :=
  let f := Config.free s.free
  ((List.range 128).findSome? fun i => (placeIn s ((f + i) % 128) n).map fun r => (f + i) % 128 * 2 ^ 25 + r * 1024)

/-- Puts extent `i` of a context into rows: its saved bytes and marks return, all else reads 0 (R392, R401). -/
def putExt (s : State) (ctx i base : Nat) (gen : Word) : State :=
  let x := ctxAt s ctx
  match x.exts[i]? with
  | none => s
  | some e =>
    let e1 := { e with st := 1, base := base, gen := gen, saved := [], bad := [] }
    let s := clearRows { s with free := s.free + 1 } e1
    let s := vaultPuts1 e.saved base s
    setCtx { s with badVault := s.badVault ++ e.bad.map fun b => b + base / 64 } ctx { x with exts := x.exts.set i e1 }
where
  /-- Writes listed bytes at an offset. -/
  vaultPuts1 (l : List (Nat × Byte)) (base : Nat) (s : State) : State :=
    l.foldl (fun s x => { s with vault := fput s.vault (base + x.1) x.2 }) s

/-- Places the saved or new extents of a context, all of them or none; `first` says that they are new (R289, R401). -/
def placeExts (s : State) (ctx : Nat) (first : Bool) : Option State :=
  ((List.range (ctxAt s ctx).exts.length).foldl (fun (o : Option State) i => o.bind fun s =>
    match (ctxAt s ctx).exts[i]? with
    | none => some s
    | some e => if inRows e then some s
      else (placeAny s (rowsOf e.size)).map fun b => putExt s ctx i b (if first then 0 else e.gen + 1)) (some s)).map
    fun s => writeSlots s ctx

/-- An extent that cannot be placed leaves its context Suspended, its extents saved (R397, R400). A context that is on its way to
another device has its extents there in the copy, and its own rows are left alone (R293). -/
def evacFail (s : State) (ctx : Nat) : State :=
  if (ctxAt s ctx).st = .migrating then s else saveExts (suspendCtx s ctx 6) ctx

/-! ### Images (R293, R294, R297, R298) -/

/-- A device key lies in a run of frames: tier, first frame, frames. -/
def inRun (r : Nat × Nat × Nat) (k : Nat) : Bool := decide (frameKey r.1 r.2.1 0 ≤ k) && decide (k < frameKey r.1 (r.2.1 + r.2.2) 0)

/-- The listed bytes of a run of frames. -/
def frameData (s : State) (tier f n : Nat) : List (Nat × Byte) :=
  let lo := frameKey tier f 0
  let here := fun (x : Nat × Byte) => decide (lo ≤ x.1) && decide (x.1 < lo + 65536 * n)
  ((s.mem.filter fun x => here x && !fhas s.l2 x.1) ++ s.l2.filter fun x => here x && x.2 != 0).map fun x => (x.1 - lo, x.2)

/-- A copy of a context as it stands, with the bytes of the frames that other devices lend it (R293, R294, R297). -/
def imageOf (s : State) (ctx : Nat) : Image :=
  let x := ctxAt s ctx
  { ctx := ctx, copy := { x with exts := x.exts.map (saveExt s) }
    leaves := (leavesOf s ctx).map fun l => (l.1, l.2.2.1, l.2.2.2)
    frames := (runsOf s ctx fun _ => true).map fun r => (r.1, r.2.1, r.2.2, frameData s r.1 r.2.1 r.2.2)
    groups := s.groups.filter fun g => g.ctx == ctx
    shadows := s.shadows.filter fun x => x.ctx == ctx
    tags := (runsOf s ctx fun _ => true).flatMap fun r => (s.sealed.filter fun y => inRun r (y.1 * 64)).map fun y =>
      (r.1, (y.1 * 64 - frameKey r.1 0 0) / 65536, y.1 % 1024, y.2)
    seals := (runsOf s ctx fun _ => true).flatMap fun r => (s.sealedFrames.filter fun y => inRun r (y.1 * 65536)).map fun y =>
      (r.1, y.1 - frameKey r.1 0 0 / 65536, y.2)
    bads := (runsOf s ctx fun _ => true).flatMap fun r => (s.badSectors.filter fun y => inRun r (y * 64)).map fun y =>
      (r.1, (y * 64 - frameKey r.1 0 0) / 65536, y % 1024)
    cmds := (blockAt s (ctxBlock ctx)).cmds, holder := x.mirdev }

/-- Frames that an image takes in a tier, when its HBM4E frames go to tier `hot`, with what its groups have reserved. -/
def imageFrames (img : Image) (hot tier : Nat) : Nat :=
  let here := fun (t : Nat) => (if t = 0 then hot else t) == tier
  img.frames.foldl (fun n r => if here r.1 then n + r.2.2.1 else n) 0
    + img.groups.foldl (fun n g => (List.range 2).foldl (fun n t => if here t then n + reservedOf g t else n) n) 0

/-- The frames that device `dev` lends to an image's context, as runs (R294, R370). -/
def lentRuns (img : Image) (dev : Nat) : List (Nat × Nat × Nat) :=
  let ls := (img.leaves.filter fun l => fld l.2.2 10 9 == 2 && fld l.2.2 52 17 / 2 ^ 20 == dev).map fun l =>
    (2, fld l.2.2 52 17, if l.1 = 1 then 512 else 1)
  ((ls.filter fun x => x.2.2 == 512) ++ ls.filter fun x => x.2.2 == 1).foldl addRun []

/-- Frames of page tables that an image needs: the root, and one for each pointer that its leaves ask for. -/
def imageTables (img : Image) : Nat :=
  1 + (img.leaves.map fun l => l.2.1 / 4194304).eraseDups.length
    + ((img.leaves.filter fun l => l.1 == 2).map fun l => l.2.1 / 512).eraseDups.length

/-- Every frame that an image needs is free, its HBM4E frames going to tier `hot`; `saved` says that its extents stay in the cold
tier (R289, R295). -/
def roomFor (s : State) (img : Image) (hot : Nat) (saved : Bool) : Bool :=
  let lent := (lentRuns img s.device).foldl (fun n r => n + r.2.2) 0
  decide (imageFrames img hot 0 + lent + imageTables img ≤ freeFrames s 0)
    && decide (imageFrames img hot 1 + (if saved then extFrames img.copy else 0) ≤ freeFrames s 1)

/-- Writes a leaf of an image at its level. -/
def mapLeaf (s : State) (ctx level page leaf : Nat) : State := if level = 1 then mapBig s ctx page leaf else mapPage s ctx page leaf

/-- The bytes of a run of frames are 0. -/
def eraseRun (s : State) (tier f n : Nat) : State :=
  let stays := fun (x : Nat × Byte) => !inRun (tier, f, n) x.1
  { s with mem := s.mem.filter stays, l2 := s.l2.filter stays }

/-- Takes room at this device for one run of an image's frames, and puts the bytes there: the runs moved so far grow by it. Its HBM4E
frames go to tier `hot`, a run that this device lends becomes local, and one that another device lends stays where it is, with the bytes of
the image alone (R293, R294, R298). -/
def putRun (hot : Nat) (a : List (Nat × Nat × Nat × Nat) × State) (r : Nat × Nat × Nat × List (Nat × Byte)) :
    List (Nat × Nat × Nat × Nat) × State :=
  let away := r.1 == 2 && r.2.1 / 2 ^ 20 != a.2.device
  let t := if away then 2 else if r.1 = 0 then hot else if r.1 = 2 then 0 else r.1
  let (f, s) := if away then (r.2.1, eraseRun a.2 2 r.2.1 r.2.2.1) else takeRun a.2 t r.2.2.1
  let s := placeBytes s (r.2.2.2.map fun b => (frameKey t f 0 + b.1, b.2))
  (if away then a.1 else a.1 ++ [(r.1, r.2.1, r.2.2.1, f)], s)

/-- Installs an image's pages, groups and shadows at this device; its HBM4E frames go to tier `hot`, and frames that this
device lends become local ones, shared as before (R293, R294, R298). The launch that forked a group was the other device's. -/
def installImage (s : State) (img : Image) (hot : Nat) : State :=
  let ctx := img.ctx
  let (m, s) := img.frames.foldl (putRun hot) ([], s)
  let local_ := fun (t f : Nat) => t != 2 || f / 2 ^ 20 == s.device
  let dest := fun (t : Nat) => if t = 0 then hot else if t = 2 then 0 else t
  let at_ := fun (t f : Nat) => frameKey (if local_ t f then dest t else t) (if local_ t f then moved m t f else f) 0
  let (root, s) := takeFrame s 0
  let s := setCtx s ctx { img.copy with ptroot := root, dev := s.device }
  let s := img.leaves.foldl (fun s l =>
    let t := fld l.2.2 10 9
    let f := fld l.2.2 52 17
    mapLeaf s ctx l.1 l.2.1 (if local_ t f then setFld (setFld l.2.2 10 9 (dest t)) 52 17 (moved m t f) else l.2.2)) s
  let up := fun (p : List (Nat × Nat)) => p.map fun y => (y.1 + s.nextGroup, y.2)
  let gs := img.groups.map fun g => { g with uid := g.uid + s.nextGroup, owner := up g.owner, maps := g.maps.map (movedFork m dest), forker := 0 }
  { s with
    sealed := img.tags.foldl (fun q t => fput q (at_ t.1 t.2.1 / 64 + t.2.2.1) t.2.2.2) s.sealed
    sealedFrames := img.seals.foldl (fun q t => fput q (at_ t.1 t.2.1 / 65536) t.2.2) s.sealedFrames
    badSectors := img.bads.map (fun t => at_ t.1 t.2.1 / 64 + t.2.2) ++ s.badSectors
    groups := s.groups ++ gs, nextGroup := gs.foldl (fun n g => max n (g.uid + 1)) s.nextGroup,
    shadows := s.shadows ++ img.shadows.map fun x => { x with
      sib := up x.sib, frames := x.frames.map (moved m x.tier), tier := dest x.tier } }

/-- Frees everything that a context holds on this device but for a mirror on its way: its pages, copies, shadows and tables, its
extents, groups, launches, held sets and translations (R289, R293, R382, R401). -/
def dropCtx (s : State) (ctx : Nat) : State :=
  let fs := (framesOf s ctx fun _ => true).flatMap fun x => (List.range x.2.2).map fun i => (x.1, x.2.1 + i)
  let ts := tableFrames s ctx
  let x := ctxAt s ctx
  let s := (x.exts.filter inRows).foldl clearRows (flushCtx s ctx)
  let s := fs.foldl (fun s f => freeFrame s f.1 f.2) s
  let s := ts.foldl (fun s f => freeFrame s 0 f) s
  { s with groups := s.groups.filter (fun g => g.ctx != ctx), shadows := s.shadows.filter (fun y => y.ctx != ctx),
           runs := s.runs.filter (fun r => r.ctx != ctx), xlates := s.xlates.filter (fun y => y.ctx != ctx),
           holds := s.holds.filter (fun h => h.ctx != ctx) }

end Sys2Proof.Machine
end

