-- ==== Sys2Proof/Machine/Context.lean ====
section
/-! DEFINITION. The host's context commands, step boundaries, migration, mirrors and lost devices
(spec/10_context.md R277-R300). A command has its host command queue's block in `cur`, an event its context. -/

namespace Sys2Proof.Machine

/-- A tile of the context runs. -/
def ctxBusy (s : State) (ctx : Nat) : Bool := s.cores.any fun nc => nc.2.busy && nc.2.task.ctx == ctx

/-- A context whose migration to this device has not committed: it exists at its source only (R293). -/
def incoming (s : State) (ctx : Nat) : Bool := (ctxAt s ctx).st == .migrating && (ctxAt s ctx).dev != s.device

/-- Contexts that are Hot, or that a migration may give back to Hot (R277, R295). -/
def hotCount (s : State) : Nat := (s.ctxs.filter fun y => y.2.st == .hot || (y.2.st == .migrating && y.2.prior == .hot)).length

/-- Takes a context command of a code: BADCTX for a Retired context; while `wait` holds the command stays (R299). -/
def ctxCmd (code : Nat) (wait : State → Nat → Bool) (go : State → Nat → Packet → Nat → State) (s : State) : State :=
  match nextCmd? (blockAt s s.cur) with
  | some (.raw q) =>
    if wait s (cmdCtx q) then s
    else takeHost (fun c => c == code) (fun s n q =>
      if (ctxAt s (cmdCtx q)).st = .retired || incoming s (cmdCtx q) then endCmd s n q 0x21 0 0 else go s n q (cmdCtx q)) s
  | _ => s

/-- A command that never waits. -/
def atOnce : State → Nat → Bool := fun _ _ => false

/-! ### CDEFINE, CLOAD, CQUERY -/

/-- CDEFINE. Where several of its checks fail, BADSTATE comes before BADIMAGE and that before LIMIT; the number of a context whose
migration to this device has not committed is taken, so it is BADSTATE (R289, R293, R299; notes/assumptions/29.md). R289 has no outcome
for a root table, nor for the tables that CLOAD maps pages by, when no HBM4E frame is free: the model takes the frame that comes next, past
the installed ones too (DESIGN CHOICE, notes/assumptions/49.md). -/
def execCdefine (s : State) : Host.Outcome State Fault Refusal :=
  .next (takeHost (fun c => c == 0x10) (fun s n q =>
    let ctx := cmdCtx q
    let e := devNat s (packetAddr q) 256
    if (ctxAt s ctx).st ≠ .retired then endCmd s n q 0x22 0 0
    else if 3 < fieldAt e 6 1 || 1 < fieldAt e 7 1 || fieldAt e 114 6 ≠ 0 || fieldAt e 130 126 ≠ 0 then endCmd s n q 0x28 0 0
    else if 1024 ≤ (s.ctxs.filter fun x => x.2.st != .retired).length then endCmd s n q 0x23 0 0
    else
      let (root, s) := takeFrame s 0
      let (key, s) := freeVal s
      endCmd (setCtx s ctx {
        st := .defined, prio := fieldAt e 6 1, mirror := bitAt (fieldAt e 7 1) 0, rkey := BitVec.ofNat 64 (fieldAt e 8 8),
        ptroot := root, exttab := BitVec.ofNat 64 (fieldAt e 88 8), eptab := BitVec.ofNat 64 (fieldAt e 96 8),
        mirdev := fieldAt e 112 2, dev := s.device, vkey := key % 2 ^ 256 }) n q 0 0 0) s)

/-- Copies a range of device bytes into the backing tier. -/
def copyRange (s : State) (src dst n : Nat) : State :=
  let t := placeBytes s ((listedBytes s src n).map fun x => (x.1 - src + dst, x.2))
  { t with xlates := staleRange dst n t.xlates }

/-- The frames of every page of a context that carry no key pair yet are encrypted under that of the page (R371). -/
def sealCtx (s : State) (ctx : Nat) : State :=
  (leavesOf s ctx).foldl (fun s l => sealLeaf ctx l.2.2.2 (if l.1 = 1 then 512 else 1) s) s

/-- Pages of a plan entry: the level of its leaves and their number. -/
def planShape (e : Nat) : Nat × Nat :=
  if bitAt (fieldAt e 24 4) 3 then (1, fieldAt e 8 8 / 33554432) else (2, fieldAt e 8 8 / 65536)

/-- Places a memory-plan range in the cold tier, encrypted under its KEY, and records its TIER 00 pages as moved (R289, R418). -/
def placePlan (base ctx : Nat) (s : State) (e : Nat) : State :=
  let (lv, n) := planShape e
  let w := if lv = 1 then 512 else 1
  let attr := fieldAt e 24 4
  (List.range n).foldl (fun s i =>
    let page := fieldAt e 0 8 / 65536 + w * i
    let (f, s) := takeRun s 1 w
    let s := if fieldAt e 16 8 = 0 then s
      else copyRange s (base + fieldAt e 16 8 + 65536 * w * i) (frameKey 1 f 0) (65536 * w)
    let leaf := setFld (attr + 1) 10 9 1 + f * 2 ^ 17
    let s := mapLeaf (sealLeaf ctx leaf w s) ctx lv page leaf
    if fld attr 10 9 = 0 then setCtx s ctx { ctxAt s ctx with moved := (ctxAt s ctx).moved ++ [page] } else s) s

/-- The tier of a device address, and its frame there. -/
def frameAt (a : Nat) : Nat × Nat := if a < 2 ^ 40 then (0, a / 65536) else (1, (a - 2 ^ 40) / 65536)

/-- Maps the image over the frames that hold it (R418). -/
def mapImage (base ctx gbase : Nat) (s : State) (i : Nat) : State :=
  let (t, f) := frameAt (base + 65536 * i)
  mapPage { s with used := if s.used.contains (t, f) then s.used else (t, f) :: s.used } ctx (gbase / 65536 + i)
    (5 + t * 2 ^ 9 + f * 2 ^ 17)

/-- CLOAD (R289, R418). -/
def execCload (s : State) : Host.Outcome State Fault Refusal :=
  .next (ctxCmd 0x11 atOnce (fun s n q ctx =>
    if (ctxAt s ctx).st ≠ .defined then endCmd s n q 0x22 0 0
    else
      let base := packetAddr q
      let h := devNat s base 128
      let len := imageLen s base
      let gbase := fieldAt h 120 8
      let plan := (List.range (fieldAt h 20 4)).map fun i => devNat s (base + fieldAt h 56 8 + 32 * i) 32
      let rs := (gbase, (len + 65535) / 65536 * 65536) :: plan.map fun e => (fieldAt e 0 8, fieldAt e 8 8)
      if fieldAt h 0 4 ≠ 0x46415247 || base % 65536 ≠ 0 || gbase % 65536 ≠ 0 || 2 ^ 48 < gbase + len || !plan.all planOk
          || (rs.zipIdx.any fun x => (rs.take x.2).any fun y => rangesMeet y x.1) then endCmd s n q 0x28 0 0
      else if freeFrames s 1 < plan.foldl (fun m e => m + fieldAt e 8 8 / 65536) 0 then endCmd s n q 0x24 0 0
      else
        let s := (List.range ((len + 65535) / 65536)).foldl (mapImage base ctx gbase) s
        let s := sealCtx (plan.foldl (placePlan base ctx) s) ctx
        endCmd (setCtx s ctx { ctxAt s ctx with st := .loaded, graph := BitVec.ofNat 64 gbase }) n q 0 0 0) s)

/-- The code of a state (R280). -/
def stCode : CtxSt → Nat
  | .defined => 0 | .loaded => 1 | .hot => 2 | .cold => 3 | .migrating => 4 | .suspended => 5 | .retired => 6

/-- The 256-byte record of a context (R280). -/
def recordBytes (ctx : Nat) (x : Context) : List Byte :=
  leBytes 4 (ctxidOf ctx []).toNat
    ++ [BitVec.ofNat 8 (stCode x.st), BitVec.ofNat 8 x.reason, BitVec.ofNat 8 x.prio, BitVec.ofNat 8 (b2n x.mirror)]
    ++ leBytes 8 x.rkey.toNat ++ leBytes 8 x.stepn.toNat ++ leBytes 8 x.ptroot ++ leBytes 8 x.graph.toNat ++ leBytes 8 x.cmdptr.toNat
    ++ ((List.range 8).flatMap fun i => leBytes 4 (fget 0 x.saved i).toNat)
    ++ leBytes 4 (packN 1 (fun i => b2n (fhas x.keys i)) 32) ++ leBytes 4 (x.pending + x.target * 2 ^ 8)
    ++ leBytes 8 x.exttab.toNat ++ leBytes 8 x.eptab.toNat ++ leBytes 8 (x.energy % 2 ^ 64) ++ leBytes 2 x.mirdev ++ leBytes 6 0
    ++ leBytes 8 x.mirstep.toNat ++ leBytes 2 x.dev ++ leBytes 126 0

/-- CQUERY (R299). -/
def execCquery (s : State) : Host.Outcome State Fault Refusal :=
  .next (ctxCmd 0x19 atOnce (fun s n q ctx =>
    endCmd (strongPuts s (packetAddr q) (recordBytes ctx (ctxAt s ctx))) n q 0 0 0) s)

/-! ### CHOT and CRESUME (R289, R389, R401) -/

/-- The extent table passes R389: aligned, and every byte on a page with a valid leaf and a key. -/
def extTableOk (s : State) (ctx : Nat) : Bool :=
  let a := (ctxAt s ctx).exttab.toNat
  a % 64 == 0 && decide (a + 2048 ≤ 2 ^ 48) && (pagesOf a 2048).all fun p => match walkKey s ctx p.1 with
    | .leaf _ _ _ => true
    | .bad _ _ => false

/-- The context becomes Hot, with every frame and row it needs reserved first; or a status (R289, R389, R401). -/
def heat (s : State) (ctx : Nat) : Except Nat State :=
  let x := ctxAt s ctx
  let first := x.st == .loaded && x.exts.isEmpty
  let mine := fun (p : Nat) => x.moved.contains p
  if 32 ≤ hotCount s then .error 0x23
  else match (if first then pinnedSizes s ctx else .ok []) with
    | .error _ => .error 0x28
    | .ok sizes =>
      if 128 < sizes.length || freeFrames s 0 < framesIn s ctx 1 mine + reservedIn s ctx 1 mine then .error 0x24
      else if !extTableOk s ctx then .error 0x28
      else
        let t := setCtx (moveTier (sealCtx (flushCtx s ctx) ctx) ctx 1 0 mine) ctx { x with
          moved := [], st := .hot, exts := if first then sizes.map fun z => { size := z, st := 0, base := 0, gen := 0 } else x.exts }
        match placeExts t ctx first with
        | some t => .ok t
        | none => .error 0x24

/-- A failed walk of a CHOT or CRESUME is in the fault log: one of the image, or of the extent table (R379). -/
def heatLog (s : State) (ctx : Nat) : State :=
  let x := ctxAt s ctx
  match (if x.st == .loaded && x.exts.isEmpty && decide (hotCount s < 32) then pinnedSizes s ctx else .ok []) with
  | .error (.bus c a) => engLog s 0 ctx (c, a)
  | .error _ => s
  | .ok _ => match (pagesOf x.exttab.toNat 2048).find? fun p => match walkKey s ctx p.1 with | .leaf _ _ _ => false | .bad _ _ => true with
    | some p => engLog s 0 ctx (eTRANS, p.2)
    | none => s

/-- A command that makes a context Hot waits while an operating-point step is under way, but for the context whose node holds up
the step (R292, R395; notes/assumptions/33.md). -/
def whileStep : State → Nat → Bool := fun s ctx =>
  s.power.pend && !(s.power.part == 0 && s.runs.any fun r => r.ctx == ctx && keepsBand s r)

/-- CHOT (R289). -/
def execChot (s : State) : Host.Outcome State Fault Refusal :=
  .next (ctxCmd 0x12 whileStep (fun s n q ctx =>
    let st := (ctxAt s ctx).st
    if st ≠ .loaded && st ≠ .cold then endCmd s n q 0x22 0 0
    else match heat s ctx with
      | .ok t => endCmd t n q 0 0 0
      | .error c => endCmd (if c = 0x28 then heatLog s ctx else s) n q c 0 0) s)

/-- CRESUME (R289, R397, R436). -/
def execCresume (s : State) : Host.Outcome State Fault Refusal :=
  .next (ctxCmd 0x16 whileStep (fun s n q ctx =>
    if (ctxAt s ctx).st ≠ .suspended then endCmd s n q 0x22 0 0
    else match heat s ctx with
      | .ok t => endCmd t n q 0 0 0
      | .error c => endCmd (if c = 0x28 then heatLog s ctx else s) n q c 0 0) s)

/-! ### Pending requests (R290) -/

/-- Sets a pending request: one that it replaces completes with SUPERSEDED, and gangs are asked to yield (R290, R361). -/
def setPending (s : State) (ctx p target : Nat) (r : HostRef) : State :=
  let x := ctxAt s ctx
  let s := if x.pending = 0 then s else endRef s x.pendRef 0x26
  requestPre (setCtx s ctx { ctxAt s ctx with pending := p, target := target, pendRef := some r }) ctx

/-- The pending request is over, with a status. -/
def endPending (s : State) (ctx status : Nat) : State :=
  let x := ctxAt s ctx
  endRef (setCtx s ctx { x with pending := 0, target := 0, pendRef := none }) x.pendRef status

/-- CPARK (R289, R290). -/
def execCpark (s : State) : Host.Outcome State Fault Refusal :=
  .next (ctxCmd 0x13 atOnce (fun s n q ctx =>
    match (ctxAt s ctx).st with
    | .hot => setPending s ctx 1 0 (refOf n q)
    | .cold => endCmd s n q 0 0 0
    | _ => endCmd s n q 0x22 0 0) s)

/-- Pontil starts to migrate a context: held sets and dirty lines are written back, the held sets are emptied, and the context is
sent as it stands (R293, R346). -/
def startMove (s : State) (ctx target : Nat) (r : Option HostRef) : State :=
  let s := cleanCtx (emptyHolds (flushCtx s ctx) ctx) ctx
  let x := ctxAt s ctx
  let img := imageOf s ctx
  let s := setCtx s ctx { x with st := .migrating, prior := x.st, pending := 2, target := target, ready := false, going := false, pendRef := none, moveRef := r }
  if target = s.device then s else sendMsg s target 2 (.arrive img)

/-- CMIGRATE (R289, R293). -/
def execCmigrate (s : State) : Host.Outcome State Fault Refusal :=
  .next (ctxCmd 0x14 atOnce (fun s n q ctx =>
    let target := q.w1.toNat % 2 ^ 16
    match (ctxAt s ctx).st with
    | .hot => setPending s ctx 2 target (refOf n q)
    | .cold => startMove s ctx target (some (refOf n q))
    | _ => endCmd s n q 0x22 0 0) s)

/-- CSUSPEND (R289, R290). -/
def execCsuspend (s : State) : Host.Outcome State Fault Refusal :=
  .next (ctxCmd 0x15 atOnce (fun s n q ctx =>
    match (ctxAt s ctx).st with
    | .hot => setPending s ctx 3 0 (refOf n q)
    | _ => endCmd s n q 0x22 0 0) s)

/-- Frees a context: its number may be used again (R277, R289); collectives that wait for it lose a member (R254). What its queue still
holds stays in the block, for a later context of the number, since R289 does not name it (DESIGN CHOICE, notes/assumptions/49.md). -/
def retireCtx (s : State) (ctx : Nat) : State :=
  let t := dropCtx (loseMember s ctx) ctx
  setCtx { t with images := t.images.filter fun y => y.ctx != ctx } ctx {}

/-- CRETIRE: at once where no tile runs, else when the last has ended, or at the boundary that it waits for (R289). -/
def execCretire (s : State) : Host.Outcome State Fault Refusal :=
  .next (ctxCmd 0x17 atOnce (fun s n q ctx =>
    let st := (ctxAt s ctx).st
    if st = .hot || st = .migrating || ctxBusy s ctx then setPending s ctx 4 (ctxAt s ctx).target (refOf n q)
    else endCmd (retireCtx (endPending s ctx 0x26) ctx) n q 0 0 0) s)

/-! ### Step boundaries (R291) -/

/-- The pages of a context in HBM4E. -/
def hbmPages (s : State) (ctx : Nat) : List Nat :=
  ((leavesOf s ctx).filter fun x => fld x.2.2.2 10 9 == 0).map fun x => x.2.2.1

/-- A park: pages, copies, shadows and extents go to the cold tier, or NOSPACE (R289, R370, R401). -/
def park (s : State) (ctx : Nat) : State :=
  let x := ctxAt s ctx
  let ps := hbmPages s ctx
  let need := framesIn s ctx 0 (fun _ => true) + reservedIn s ctx 0 (fun _ => true) + x.exts.foldl (fun n e => if inRows e then n + (e.size + 65535) / 65536 else n) 0
  if freeFrames s 1 < need then endPending s ctx 0x24
  else
    let s := saveExts (moveTier (flushCtx s ctx) ctx 0 1 fun _ => true) ctx
    endPending (setCtx s ctx { ctxAt s ctx with st := .cold, moved := (ctxAt s ctx).moved ++ ps }) ctx 0

/-- Applies the pending request of a context at a boundary (R289, R291). -/
def applyPending (s : State) (ctx : Nat) : State :=
  let x := ctxAt s ctx
  match x.pending with
  | 1 => park s ctx
  | 2 => startMove s ctx x.target x.pendRef
  | 3 => endPending (saveExts (suspendCtx s ctx 1) ctx) ctx 0
  | 4 => let r := x.pendRef; endRef (retireCtx s ctx) r 0
  | _ => s

/-- Starts the step mirror: a copy of the context as it stands at this boundary (R297). -/
def takeMirror (s : State) (ctx : Nat) : State :=
  if !(ctxAt s ctx).mirror then s
  else
    let s := flushCtx s ctx
    { s with images := s.images ++ [imageOf s ctx] }

/-- Some pinned extent of a context stands in a vault. -/
def placedExts (x : Context) : Bool := x.exts.any inRows

/-- STEP_BOUNDARY: at a context, a boundary falls and is applied, after a STEP's node or because the queue is empty; a suspension or
retirement takes effect at a node boundary; a retirement that waited for tiles takes effect when none runs; a Suspended context gives
up its pinned rows once none of its tiles runs (R272, R289, R291, R395). A park, migration or suspension that is pending when another
event makes the context Suspended stays pending, and is applied at a boundary after CRESUME (R290; notes/assumptions/28.md). -/
def execStepBoundary (s : State) : Host.Outcome State Fault Refusal :=
  let ctx := s.cur
  let x := ctxAt s ctx
  if x.st ≠ .hot then
    if x.pending = 4 && x.st ≠ .migrating && x.st ≠ .retired && !ctxBusy s ctx then .next (applyPending s ctx)
    else if x.st = .suspended && !ctxBusy s ctx && placedExts x then .next (saveExts s ctx)
    else .next s
  else if nodeRuns s ctx then .next s
  else if x.stepReq && x.rerun.isNone then
    .next (applyPending (takeMirror (setCtx s ctx { x with stepReq := false, stepn := x.stepn + 1 }) ctx) ctx)
  else if x.pending ≠ 0 && occOf (blockAt s (ctxBlock ctx)) = 0 then
    .next (applyPending (takeMirror s ctx) ctx)
  else if x.pending = 3 || x.pending = 4 then .next (applyPending s ctx)
  else .next s

/-- Firmware routing for every endpoint set of a context names its new device: here, at the devices of the other members, and at the new
one, which learns of all of them (R293). -/
def moveRoutes (s : State) (ctx target : Nat) : State :=
  (memberRanks s ctx).foldl (fun s k =>
    let s := routeMember s k.1 k.2 target
    let s := sendAll s ((setDevs s k.1).filter fun d => d != target) 2 (.route k.1 k.2 target)
    if target = s.device then s
    else (fget [] s.routes k.1).zipIdx.foldl (fun s r => sendMsg s target 2 (.route k.1 r.2 r.1)) s) s

/-- A device has still to be told where a member of some set is. -/
def routing (s : State) : Bool := s.sent.any fun m => match m.body with | .route _ _ _ => true | _ => false

/-- The target is ready, firmware routing is updated, and no mirror of the context is on its way: from now on only the target's loss
brings the context back, and the record goes with what it has counted by now (R293, R294, R297, R468). -/
def giveGo (s : State) (ctx : Nat) : State :=
  let x := ctxAt s ctx
  if x.st ≠ .migrating || !x.ready || x.going || routing s || s.images.any (fun i => i.ctx == ctx) then s
  else sendMsg (setCtx s ctx { x with going := true }) x.target 2 (.commit ctx x.mirstep x.energy)

/-- A device has been told of a member, or cannot be: migrations that waited for that go on (R293). -/
def routed (s : State) : State := (s.ctxs.filter fun x => x.2.st == .migrating).foldl (fun s x => giveGo s x.1) s

/-- A mirror's copy is over; a migration that waited for it goes on. -/
def dropImage (s : State) (img : Image) : State := giveGo { s with images := s.images.erase img } img.ctx

/-- The cold tier of this device takes a mirror, beside the one that it replaces; the previous mirror goes only then (R297). -/
def keepMirror (s : State) (img : Image) : Option State :=
  if freeFrames s 1 < mirrorSize img then none
  else some { s with mirrors := (s.mirrors.filter fun i => i.ctx != img.ctx) ++ [{ img with holder := s.device }] }

/-- The copy of a context is in place at its mirror device: MIRSTEP names it (R297). -/
def mirrorDone (s : State) (img : Image) : State :=
  let x := ctxAt s img.ctx
  dropImage (if x.st = .retired then s else setCtx s img.ctx { x with mirstep := img.copy.stepn }) img

/-- STEP_MIRROR_COMPLETE: the oldest copy of a context comes to its mirror device: to this one at once, when it has room; to
another it is sent, and is in place when that device answers (R297). -/
def execStepMirrorComplete (s : State) : Host.Outcome State Fault Refusal :=
  match s.images.find? fun i => i.ctx == s.cur with
  | none => .next s
  | some img =>
    if s.lostDevs.contains img.holder then .next (dropImage s img)
    else if img.holder = s.device then .next (match keepMirror s img with
      | some t => mirrorDone t img
      | none => dropImage s img)
    else if s.sent.any fun m => m.body == .mirror img then .next s
    else .next (sendMsg s img.holder 2 (.mirror img))

/-! ### Migration (R293-R295) -/

/-- What is pending for a context when its migration ends: a retirement that came meanwhile (R289). -/
def settle (s : State) (ctx : Nat) : State :=
  let x := ctxAt s ctx
  setCtx s ctx { x with st := x.prior, moveRef := none, ready := false, going := false, dev := s.device, pending := if x.pending = 4 then 4 else 0,
                        target := if x.pending = 4 then x.target else 0 }

/-- A context and its queue are gone from this device. -/
def leaveDevice (s : State) (ctx : Nat) : State :=
  let s := dropCtx s ctx
  setCtx (setBlock s (ctxBlock ctx) { blockAt s (ctxBlock ctx) with cmds := [] }) ctx {}

/-- The target has committed: the source drops the context, and a retirement that came meanwhile follows it; that command ends when
the target says so (R289, R293, R299). -/
def commitMove (s : State) (ctx src : Nat) : State :=
  let x := ctxAt s ctx
  if x.st ≠ .migrating || x.target ≠ src || incoming s ctx then s
  else
    let s := leaveDevice s ctx
    let s := match x.pendRef with
      | some r => sendMsg { s with retiring := s.retiring ++ [(ctx, src, r)] } src 2 (.retire ctx)
      | none => s
    endRef s x.moveRef 0

/-- A context that moved away has been retired there, or another request replaced that one (R290, R299). -/
def retiredAway (s : State) (ctx status : Nat) : State :=
  match s.retiring.find? fun x => x.1 == ctx with
  | some x => endRef { s with retiring := s.retiring.erase x } (some x.2.2) status
  | none => s

/-- A retirement that followed its context to this device: it is a pending request here, and its end is told to the source
(R289, R290). -/
def retireHere (s : State) (ctx src : Nat) : State :=
  let r : HostRef := { block := 0, pk := { w0 := BitVec.ofNat 32 (0x17 + ctx * 2 ^ 8) }, away := some src }
  if (ctxAt s ctx).st = .retired || incoming s ctx then endRef s (some r) 0 else setPending s ctx 4 0 r

/-- The target has the whole context: firmware routing names it, and it waits for leave to commit (R293). -/
def takeReady (s : State) (ctx src : Nat) : State :=
  let x := ctxAt s ctx
  if x.st ≠ .migrating || x.target ≠ src || incoming s ctx then s
  else
    let s := { s with sent := s.sent.filter fun m => match m.body with | .arrive i => i.ctx != ctx | _ => true }
    giveGo (moveRoutes (setCtx s ctx { x with ready := true }) ctx src) ctx

/-- The pinned extents of a context are placed afresh, with GEN + 1, where they all fit (R293, R401). -/
def replaceExts (s : State) (ctx : Nat) : Option State :=
  let x := ctxAt s ctx
  let t := (x.exts.filter inRows).foldl clearRows (setCtx s ctx { x with exts := x.exts.map (saveExt s) })
  if x.exts.any inRows then placeExts t ctx false else some s

/-- Ends a migration without its commit: the context is as before, at this device, firmware routing names it again, and the target forgets
it (R295). -/
def failMove (s : State) (ctx : Nat) : State :=
  let x := ctxAt s ctx
  if x.st ≠ .migrating || incoming s ctx then s
  else
    let s := { s with sent := s.sent.filter fun m => match m.body with | .arrive i => i.ctx != ctx | _ => true }
    let s := if x.ready then moveRoutes s ctx s.device else s
    let s := if x.target = s.device || s.lostDevs.contains x.target then s else sendMsg s x.target 2 (.cancel ctx)
    loseMember (endRef (settle s ctx) x.moveRef 0x25) ctx

/-- PONTIL_COMMIT: the target has committed: the context is there and no longer here (R293, R294). A migration to this
same device keeps every frame; its pinned extents are placed anew, not while an operating-point step is under way, and its translations are
dropped; it fails where they fit nowhere (R295, R395, R401). -/
def execPontilCommit (s : State) : Host.Outcome State Fault Refusal :=
  let ctx := s.cur
  let x := ctxAt s ctx
  if x.st ≠ .migrating || incoming s ctx then .next s
  else if x.target = s.device then
    if s.power.pend then .next s
    else match replaceExts { s with xlates := s.xlates.filter fun y => y.ctx != ctx } ctx with
      | some t => .next (endRef (settle t ctx) x.moveRef 0)
      | none => .next (failMove s ctx)
  else .next (takeInput (fun b => b == .committed ctx) (fun s m => commitMove (ackMsg s m) ctx m.src) s)

/-- PONTIL_FAILURE: until the target has been told to commit (R293, R295). -/
def execPontilFailure (s : State) : Host.Outcome State Fault Refusal :=
  .next (if (ctxAt s s.cur).going then s else failMove s s.cur)

/-- A migration arrives: every frame and row that it needs is taken and the context installed, not yet committed, or it is turned
away; so is one of a number that this device holds already, which R295 does not name (R289, R293-R295; notes/assumptions/30.md). -/
def arrive (s : State) (src : Nat) (img : Image) : State :=
  let ctx := img.ctx
  let hot := img.copy.st == .hot
  let fit := (ctxAt s ctx).st == .retired && (!hot || decide (hotCount s < 32))
    && decide ((s.ctxs.filter fun x => x.2.st != .retired).length < 1024) && roomFor s img 0 (!hot)
  let t := installImage s img 0
  let t := setBlock t (ctxBlock ctx) { blockAt t (ctxBlock ctx) with cmds := img.cmds }
  let t := setCtx t ctx { ctxAt t ctx with st := .migrating, prior := if hot then .hot else .cold, dev := src, ready := false, going := false
                                           pending := 0, target := s.device, pendRef := none, moveRef := none }
  match (if !fit then none else if hot then placeExts t ctx false else some t) with
  | some t => sendMsg t src 2 (.ready ctx)
  | none => sendMsg s src 2 (.turnedAway ctx)

/-- The source lets an installed context commit here; MIRSTEP and ENERGY are as the source has them by then (R293, R294, R297, R468). -/
def commitHere (s : State) (ctx src : Nat) (mirstep : BitVec 64) (energy : Nat) : State :=
  if incoming s ctx && (ctxAt s ctx).dev == src then
    sendMsg (settle (setCtx s ctx { ctxAt s ctx with mirstep := mirstep, energy := energy }) ctx) src 2 (.committed ctx)
  else s

/-- The source has taken a migration back. -/
def cancelHere (s : State) (ctx src : Nat) : State :=
  if incoming s ctx && (ctxAt s ctx).dev == src then leaveDevice s ctx else s

/-! ### Mirrors and lost devices (R296-R298) -/

/-- A request for a context's mirror that was sent to a device. -/
def isFetch (ctx dev : Nat) (m : Msg) : Bool := m.dst == dev && (match m.body with | .fetch c _ => c == ctx | _ => false)

/-- The mirrors of a context at its MIRDEV, once that device has answered (R298). -/
def mirrorsOf (s : State) (ctx : Nat) : Option (List Image) :=
  let d := (ctxAt s ctx).mirdev
  if d = s.device then some (s.mirrors.filter fun i => i.ctx == ctx)
  else if s.lostDevs.contains d then some []
  else (s.sent.find? (isFetch ctx d)).bind fun m => match m.body with | .fetch _ l => l | _ => none

/-- A CRESTORE at the head of a host command queue asks the mirror device for the mirror (R298). -/
def askMirror (s : State) : State :=
  match nextCmd? (blockAt s s.cur) with
  | some (.raw q) =>
    let ctx := cmdCtx q
    let x := ctxAt s ctx
    if q.w0.toNat % 256 = 0x18 && (x.st = .defined || x.st = .suspended) && (mirrorsOf s ctx).isNone && !s.sent.any (isFetch ctx x.mirdev)
    then sendMsg s x.mirdev 2 (.fetch ctx none) else s
  | _ => s

/-- A sector of a held set after a restore of its context: the place of its page now (R346, R382). -/
def heldSector (old new : State) (ctx sec : Nat) : Nat :=
  let wide := fun (l : Nat × Nat × Nat × Nat) => if l.1 = 1 then 512 else 1
  let at_ := fun (l : Nat) => frameKey (fld l 10 9) (fld l 52 17) 0 / 64
  match (leavesOf old ctx).find? fun l => decide (at_ l.2.2.2 ≤ sec) && decide (sec < at_ l.2.2.2 + 1024 * wide l) with
  | none => sec
  | some l => match (leavesOf new ctx).find? fun k => k.2.2.1 == l.2.2.1 with
    | some k => at_ k.2.2.2 + (sec - at_ l.2.2.2)
    | none => sec

/-- CRESTORE: the context is rebuilt from its latest mirror, in the cold tier, with every frame that it needs reserved first; what
stands on its held sets stays listed, and its energy counter does not decrease (R289, R298, R346, R468). It waits for tiles that still run, and for the answer of another device. -/
def execCrestore (s : State) : Host.Outcome State Fault Refusal :=
  .next (ctxCmd 0x18 (fun s ctx => let x := ctxAt s ctx
      (x.st == .suspended && ctxBusy s ctx) || ((x.st == .defined || x.st == .suspended) && (mirrorsOf s ctx).isNone)) (fun s n q ctx =>
    let x := ctxAt s ctx
    let free := { s with sent := s.sent.filter fun m => !isFetch ctx x.mirdev m }
    if x.st ≠ .defined && x.st ≠ .suspended then endCmd s n q 0x22 0 0
    else match ((mirrorsOf s ctx).getD []).getLast? with
      | none => endCmd free n q 0x27 0 0
      | some img =>
        let t := setCtx { dropCtx free ctx with holds := s.holds } ctx {}
        if !roomFor t img 1 true then endCmd free n q 0x24 0 0
        else
          let t := installImage t img 1
          let t := { t with holds := t.holds.map fun h => if h.ctx = ctx then { h with sector := heldSector s t ctx h.sector } else h }
          let c := ctxAt t ctx
          let ps := (img.leaves.filter fun l => fld l.2.2 10 9 == 0).map fun l => l.2.1
          let r := x.pendRef
          endRef (endCmd (setCtx t ctx { c with st := .cold, moved := c.moved ++ ps, pending := 0, target := 0, pendRef := none, moveRef := none,
                                                energy := max c.energy x.energy, mirstep := img.copy.stepn }) n q 0 0 0) r 0x26) (askMirror s))

/-- The collectives that need a member of a lost device: those where a member of it has joined and not written, and those where firmware
routing places one there (R285, R296). -/
def lostJoins (s : State) (d : Nat) : List (Nat × Nat) :=
  (s.joined.filter fun j => (j.dev == d && j.wrote.isNone) || needsLost s j).map fun j => (j.setid, j.seq)

/-- The entries of lookaside arrays for pages that a lost device lends are gone (R370). -/
def dropLent (s : State) : State :=
  let keep := fun (l : Look) => !lenderLost s l.leaf
  { s with cores := s.cores.map (fun nc => (nc.1, { nc.2 with look := nc.2.look.filter keep })),
           looks := s.looks.map fun a => (a.1, a.2.filter keep) }

/-- DEVICE_LOST: its contexts and mirrors are gone; collectives that need them end with MEMBERLOST, migrations to it fail, those from
it are lost, and its frames are out of reach (R295, R296, R370). -/
def execDeviceLost (s : State) : Host.Outcome State Fault Refusal :=
  match s.inputs with
  | .deviceLost d :: r =>
    let s := dropLent { s with
      inputs := r
      lostDevs := if s.lostDevs.contains d then s.lostDevs else d :: s.lostDevs }
    let ks := lostJoins s d
    let s := collFail s (fun j => ks.contains (j.setid, j.seq)) eMEMBERLOST
    let s := (s.ctxs.filter fun x => incoming s x.1 && x.2.dev == d).foldl (fun s x => leaveDevice s x.1) s
    let s := (s.retiring.filter fun x => x.2.1 == d).foldl (fun s x => retiredAway s x.1 0) s
    .next ((s.ctxs.filter fun x => x.2.st == .migrating && x.2.target == d && d != s.device).foldl (fun s x => failMove s x.1) s)
  | _ => .next s

end Sys2Proof.Machine
end

