-- ==== Sys2Proof/Machine/Blocks.lean ====
section
/-! DEFINITION. Writes to queue register blocks by hosts and firmware, and the host's NOP (spec/12_queue.md R323-R331,
spec/19_traps.md R444). A write stands at the head of `inputs`; a step of one block has it in `cur`. -/

namespace Sys2Proof.Machine

/-- The die whose log takes what concerns a block. -/
def blockDie (n : Nat) : Nat := if n < 128 then n / 32 else if n < 132 then n - 128 else 0

/-- Appends a record to a die's violation log, and gives the writer an error response where R444 says so. With ERRMODE 1 at the die's
firmware core, that core gets the record too (R443; which core's ERRMODE counts is the model's choice, notes/assumptions/37.md). -/
def violate (s : State) (die kind dev addr : Nat) : State :=
  let r := BitVec.ofNat 256 (kind + dev % 2 ^ 16 * 2 ^ 16 + addr % 2 ^ 64 * 2 ^ 64 + s.ns % 2 ^ 64 * 2 ^ 128)
  let s := { s with errors := if kind = 1 || kind = 3 || kind = 5 || kind = 6 then s.errors ++ [(dev, addr)] else s.errors
                    violLog := addLog s.violLog die r }
  if errmode (coreAt s (512 + die)) then notify die (.violation r) s else s

/-- Replaces word `i` of a packet. -/
def setPk (p : Packet) (i : Nat) (v : Word) : Packet :=
  match i with
  | 0 => { p with w0 := v } | 1 => { p with w1 := v } | 2 => { p with w2 := v } | _ => { p with w3 := v }

/-- The CODE byte of a packet of a block: OP for an engine queue, else QW0[7:0] (R329). -/
def codeByte (n : Nat) (p : Packet) : Nat :=
  if n < 128 then fld p.w2.toNat 18 16 else if n < 132 then fld p.w2.toNat 17 16 else p.w0.toNat % 256

/-- QGO (R326-R328): a fresh packet whose tag matches enters the queue, or is held; else CMDSTALE. -/
def writeGo (s : State) (n : Nat) (val : Word) (dev : Nat) : State :=
  let b := blockAt s n
  let tag := val.toNat % 256
  if !b.staged || tag ≠ b.pk.w3.toNat / 2 ^ 24 then
    let s := logBlock (setBlock s n { b with staged := false }) n 1 (64 * n + 0x10) dev
    writeRecord (violate s (blockDie n) 3 dev (64 * n + 0x10)) n 1 (codeByte n b.pk) tag 0 0
  else
    let pk := { b.pk with dev := dev }
    if blockFull s n then setBlock s n { b with staged := false, held := true, pk := pk }
    else setBlock s n { b with staged := false, pk := pk, cmds := b.cmds ++ [.raw pk] }

/-- A write to a control register at offsets 0x18 to 0x3F (R324). -/
def writeControl (s : State) (n off : Nat) (val : Word) : State :=
  let b := blockAt s n
  let v := val.toNat
  match off / 4 with
  | 6 => setBlock s n { b with
      en := bitAt v 0, opn := bitAt v 1, cplsz := fld v 5 2,
      owner := if 132 ≤ n && n < 1156 then b.owner else fld v 15 6,
      ov := if n < 132 then bitAt v 16 else b.ov }
  | 7 => if bitAt v 31 then setBlock s n { b with ev := false, ecode := 0, ecount := 0 } else s
  | 10 => setBlock s n { b with cplbase := b.cplbase / 2 ^ 32 * 2 ^ 32 + v / 16 * 16 }
  | 11 => setBlock s n { b with cplbase := b.cplbase % 2 ^ 32 + v * 2 ^ 32 }
  | 12 => setBlock s n { b with cplack := val }
  | _ => s

/-- A write to a control register; completion records that wait go out where it gives the ring room (R328). -/
def writeControlAt (s : State) (n off : Nat) (val : Word) : State :=
  let t := writeControl s n off val
  flushRecords n (blockAt t n).recs t

/-- A write by a host or firmware to a register of a block; nothing while the block pushes it back (R323-R328, R444). -/
def blockWrite (s : State) (n off : Nat) (val : Word) (dev : Nat) : Option State :=
  let b := blockAt s n
  if s.boot.stage ≠ 7 then some s
  else if blockDepth n = 0 then some (violate s 0 1 dev (64 * n + off))
  else if 0x18 ≤ off || (decide (0x14 ≤ off) && b.en) then some (writeControlAt s n off val)
  else if !b.en then some (violate (logBlock s n 3 (64 * n + off) dev) (blockDie n) 2 dev (64 * n + off))
  else if b.held then none
  else if off < 0x10 then some (setBlock s n { b with pk := setPk b.pk (off / 4) val, staged := true })
  else some (writeGo s n val dev)

/-- Performs the register write at the head of the inputs when its offset satisfies `p`. -/
def writeTurn (p : Nat → Bool) (s : State) : State :=
  match s.inputs with
  | .regWrite n off val dev :: r =>
    if p (off % 64 / 4) && decide (n < 2048) then
      match blockWrite s n (off % 64 / 4 * 4) val dev with
      | some t => { t with inputs := r }
      | none => s
    else s
  | _ => s

/-- REGISTER_WRITE (R324). -/
def execRegisterWrite (s : State) : Host.Outcome State Fault Refusal := .next (writeTurn (fun i => i != 7 && i != 12) s)
/-- EV_CLEAR: a write to the word of EV (R324). -/
def execEvClear (s : State) : Host.Outcome State Fault Refusal := .next (writeTurn (fun i => i == 7) s)
/-- CPLACK (R324, R328). -/
def execCplack (s : State) : Host.Outcome State Fault Refusal := .next (writeTurn (fun i => i == 12) s)

/-- HELD_GO: the held command of a block enters the queue when it has room (R326, R328). -/
def execHeldGo (s : State) : Host.Outcome State Fault Refusal :=
  let b := blockAt s s.cur
  if b.held && !blockFull s s.cur then
    .next (setBlock s s.cur { b with held := false, cmds := b.cmds ++ [.raw b.pk] })
  else .next s

/-- The codes of host commands that have a meaning of their own (R331). -/
def hostCode (c : Nat) : Bool := (decide (0x10 ≤ c) && decide (c ≤ 0x19)) || c == 0x20 || c == 0x21 || (decide (0x40 ≤ c) && decide (c ≤ 0x49))

/-- HOST_NOP completes DONE; a code that is not assigned completes BADCODE (R331). -/
def execHostNop (s : State) : Host.Outcome State Fault Refusal :=
  .next (takeHost (fun c => !hostCode c) (fun s n q => endCmd s n q (if q.w0.toNat % 256 = 0 then 0 else 2) 0 0) s)

end Sys2Proof.Machine
end

