-- ==== Sys2Proof/Machine/Link.lean ====
section
/-! DEFINITION. The fabric ports, messages between devices, and the host bridge (spec/20_link.md R448-R464). -/

namespace Sys2Proof.Machine

/-! ### Ports (R449-R455) -/

/-- A field of `n` bytes at byte `o` of a flit (R449). -/
def flitField (f : BitVec 2048) (o n : Nat) : Nat := fld f.toNat (8 * (o + n) - 1) (8 * o)

/-- Bytes `o` to `o + n − 1` of a flit. -/
def flitBytes (f : BitVec 2048) (o n : Nat) : List Byte := leBytes n (flitField f o n)

/-- Port `n`. -/
def portAt (s : State) (n : Nat) : Port := fget {} s.ports n
/-- Writes port `n`. -/
def setPort (s : State) (n : Nat) (p : Port) : State := { s with ports := fput s.ports n p }

/-- The link carries flits (R454). -/
def portUp (p : Port) : Bool := p.st == .up8 || p.st == .up4

/-- A port of the fabric: on a bridge device ports 22 and 23 form the PCIe endpoint instead (R448). -/
def fabric (s : State) (n : Nat) : Bool := decide (n < 24) && !(s.bridge && decide (22 ≤ n))

/-- A saturating count of 16 bits. -/
def sat16 (n : Nat) : Nat := min 0xFFFF n

/-- The link goes to Retraining (R454, R455). -/
def retrain (p : Port) : Port := { p with st := .retraining, retrn := sat16 (p.retrn + 1), nakRun := 0, waited := 0 }

/-- A NAK is to be sent; eight in a row for one flit retrain the link, at the port that sends them as at the one that they come to (R452,
R454). -/
def nak (p : Port) : Port :=
  let p := { p with naks := sat16 (p.naks + 1), nakRun := p.nakRun + 1, nakDue := true }
  if p.nakRun = 8 then retrain p else p

/-- `a` is not later than `b`, modulo 2^16 (R449). -/
def seqLe (a b : Nat) : Bool := decide ((b + 65536 - a % 65536) % 65536 < 32768)

/-- What a good flit acknowledges and returns: resends up to ACK are dropped, and credits are added (R449, R452). -/
def takeAck (f : BitVec 2048) (p : Port) : Port :=
  let crd := flitField f 11 1
  { p with acked := flitField f 4 2, retry := p.retry.filter fun x => !seqLe (flitField x 2 2) (flitField f 4 2),
           credits := fput p.credits (crd / 64) (fget 0 p.credits (crd / 64) + crd % 64) }

/-- Every flit that is not acknowledged goes on the link again, the oldest first (R452, R454). -/
def resend (p : Port) : Port := { p with tx := p.tx ++ p.retry }

/-- A NAK has come: the flits from the latest acknowledged one on are sent again; the eighth in a row for one flit retrains the link (R452,
R454). -/
def nakCame (was : Nat) (p : Port) : Port :=
  let n := if was = p.acked then p.naked + 1 else 1
  if n = 8 then { retrain p with naked := 0 } else resend { p with naked := n }

/-- The peer may send another flit on a channel (R451). -/
def owe (p : Port) (vc n : Nat) : Port := { p with owed := fput p.owed vc (fget 0 p.owed vc + n) }

/-- The credits that the next flit returns: the channel and their number (R449). -/
def creditOf (p : Port) : Nat × Nat :=
  match (List.range 4).find? fun v => 0 < fget 0 p.owed v with
  | some v => (v, min 63 (fget 0 p.owed v))
  | none => (0, 0)

/-- The numbered content of a flit: its type, channel, valid words, destination, source, marks and payload (R449). -/
structure Load where
  ty : Nat
  vc : Nat := 3
  words : Nat := 0
  dst : Nat := 0
  src : Nat := 0
  mark : Nat := 0
  bytes : List Byte := []
deriving DecidableEq, Repr, Inhabited

/-- A flit that carries `x` by a port, with SEQ, ACK, the credits returned and the CRC (R449). -/
def flitOf (p : Port) (x : Load) : BitVec 2048 :=
  let c := creditOf p
  let bs := [BitVec.ofNat 8 x.ty, BitVec.ofNat 8 (x.vc + x.words * 4)] ++ leBytes 2 p.txSeq ++ leBytes 2 (p.rxSeq + 65535)
    ++ leBytes 2 x.dst ++ leBytes 2 x.src ++ [BitVec.ofNat 8 x.mark, BitVec.ofNat 8 (c.2 + c.1 * 64)]
    ++ x.bytes ++ List.replicate (240 - x.bytes.length) 0
  BitVec.ofNat 2048 (leNat (bs ++ leBytes 4 (crc32 bs).toNat))

/-- The flit of `x` goes on the link, and the credits that it returns are returned. -/
def onLink (p : Port) (x : Load) : Port :=
  let c := creditOf p
  { p with tx := p.tx ++ [flitOf p x], owed := fput p.owed c.1 (fget 0 p.owed c.1 - c.2) }

/-- A flit with a SEQ of its own: it takes a credit of its channel and stays in the retry buffer (R451, R452). -/
def sendNumbered (p : Port) (x : Load) : Port :=
  { onLink p x with txSeq := (p.txSeq + 1) % 65536, retry := p.retry ++ [flitOf p x]
                    credits := fput p.credits x.vc (fget 0 p.credits x.vc - 1) }

/-- The content of a flit that came. -/
def loadOf (f : BitVec 2048) : Load :=
  { ty := flitField f 0 1, vc := flitField f 1 1 % 4, words := flitField f 1 1 / 4, dst := flitField f 6 2, src := flitField f 8 2,
    mark := flitField f 10 1, bytes := flitBytes f 12 240 }

/-- A flit without a SEQ of its own: an idle one, and a NAK, which is a link-control flit that belongs to no message
(notes/assumptions/17.md). -/
def unnumbered (x : Load) : Bool := x.ty % 16 == 0 || (x.ty % 16 == 8 && x.mark % 4 == 0)

/-- The message that a single flit of TYPE 6 or 7 to this device carries, with the result of its check: 16 bytes, its number, the lowest
number that the source keeps, and the CRC-32C word (R453, R462, R464; notes/assumptions/17.md). Of the other types the messages, whose
headers are not architected, come as inputs. -/
def flitMsg (s : State) (x : Load) : Option Msg :=
  if (x.ty % 16 = 6 || x.ty % 16 = 7) && x.dst = s.device then
    let w := fun (i n : Nat) => leNat ((x.bytes.drop i).take n)
    let pl := BitVec.ofNat 128 (w 0 16)
    some { src := x.src, dst := s.device, chan := 3, seq := w 16 4, floor := w 20 4,
           body := if x.ty % 16 = 6 then .token pl else .clock pl,
           good := x.words == 7 && x.vc == 3 && x.mark % 4 == 3 && (crc32c (x.bytes.take 24)).toNat == w 24 4 }
  else none

/-- A good flit in its turn: it is counted where its TYPE is reserved, kept for another port where it is for another device, and else
gives its message; its buffer is free again (R449, R451, R452). -/
def landFlit (s : State) (n : Nat) (f : BitVec 2048) (p : Port) : State :=
  let x := loadOf f
  if 9 ≤ x.ty % 16 then setPort s n (owe { p with retrn := sat16 (p.retrn + 1) } x.vc 1)
  else if x.dst ≠ s.device then setPort { s with transit := s.transit ++ [(n, f)] } n p
  else match flitMsg s x with
    | some m => setPort { s with inputs := .message m :: s.inputs } n (owe p x.vc 1)
    | none => setPort s n (owe p x.vc 1)

/-- FLIT_RECEIVED: a flit with a good CRC and the next SEQ is taken, a duplicate is dropped whole, and any other is answered
with a NAK; what a NAK tells of is sent again (R449, R452). -/
def execFlitReceived (s : State) : Host.Outcome State Fault Refusal :=
  match s.inputs with
  | .flit n f :: r =>
    let s := { s with inputs := r }
    let p := portAt s n
    if !portUp p || !fabric s n then .next s
    else if (crc32 (flitBytes f 0 252)).toNat ≠ flitField f 252 4 then .next (setPort s n (nak p))
    else
      let seq := flitField f 2 2
      let x := loadOf f
      if unnumbered x then .next (setPort s n (if x.ty % 16 = 8 then nakCame p.acked (takeAck f p) else takeAck f p))
      else if seq = p.rxSeq then .next (landFlit s n f { takeAck f p with rxSeq := (seq + 1) % 65536, nakRun := 0 })
      else if seqLe seq p.rxSeq then .next s
      else .next (setPort s n (nak p))
  | _ => .next s

/-! ### Sending (R449-R453) -/

/-- TYPE of a message (R449, R451). -/
def msgType : MsgBody → Nat
  | .deliver .. => 3 | .ask .. => 3 | .member _ => 4 | .lost _ => 4 | .cut .. => 4 | .token _ => 6 | .clock _ => 7 | .mem .. => 1 | .lent .. => 1 | .pull .. => 1 | .memData .. => 2
  | .answer _ _ => 8 | .arrive _ => 5 | .ready _ => 5 | .commit _ _ _ => 5 | .committed _ => 5 | .turnedAway _ => 5 | .cancel _ => 5
  | .mirror _ => 5 | .fetch _ _ => 5 | .found _ _ => 5 | .retire _ => 5 | .retired _ _ => 5 | .route .. => 5

/-- The message is kept until it is answered, and has not been (R453). -/
def waits (m : Msg) : Bool :=
  match m.body with
  | .answer _ _ => false
  | .deliver _ _ _ _ (some _) => false
  | .ask _ (some _) => false
  | .pull _ _ true => false
  | .lent _ _ (some _) => false
  | .fetch _ (some _) => false
  | _ => true

/-- The lowest number on the message's channel that this device still keeps. -/
def floorOf (s : State) (m : Msg) : Nat :=
  (s.sent.filter fun y => waits y && y.dst == m.dst && y.chan == m.chan).foldl (fun n y => min n y.seq) m.seq

/-- The bytes of a message, with its CRC-32C word (R453, R462, R464): those of TYPE 1 to 5 and 8 are not architected. -/
def wireOf (s : State) (m : Msg) : List Byte :=
  let bs := match m.body with
    | .token x => leBytes 16 x.toNat ++ leBytes 4 m.seq ++ leBytes 4 (floorOf s m)
    | .clock x => leBytes 16 x.toNat ++ leBytes 4 m.seq ++ leBytes 4 (floorOf s m)
    | _ => Config.wireBytes s.free
  bs ++ leBytes 4 (crc32c bs).toNat

/-- The channel of a message's flits: link control has its own (R451). -/
def msgChan (m : Msg) : Nat := match m.body with | .answer _ _ => 3 | _ => m.chan % 4

/-- The ports by which a flit of a channel may go: the link is Up, the retry buffer has room and the peer has given a credit (R451,
R452). -/
def openPorts (s : State) (vc : Nat) : List Nat :=
  (List.range 24).filter fun n => let p := portAt s n
    fabric s n && portUp p && decide (p.retry.length < 64) && decide (0 < fget 0 p.credits vc)

/-- A numbered flit goes by a port that firmware routing chooses (R448). -/
def route (s : State) (x : Load) : State :=
  let l := openPorts s x.vc
  let n := (l[Config.free s.free % l.length]?).getD 0
  setPort { s with free := s.free + 1 } n (sendNumbered (portAt s n) x)

/-- The next flit of the first message that has one to send and finds a port; an answer that has gone out is kept no longer. -/
def sendFlit (s : State) : State :=
  match s.sent.find? fun m => (!m.out || !m.left.isEmpty) && !(openPorts s (msgChan m)).isEmpty with
  | none => s
  | some m =>
    let bs := if m.out then m.left else wireOf s m
    let x : Load := { ty := msgType m.body, vc := msgChan m, words := (min 240 bs.length + 3) / 4, dst := m.dst, src := s.device,
                      mark := b2n (!m.out) + 2 * b2n (decide (bs.length ≤ 240)), bytes := bs.take 240 }
    let last := decide (bs.length ≤ 240) && (match m.body with | .answer _ _ => true | _ => false)
    route { s with free := s.free + 1
                   sent := if last then s.sent.erase m else lmap (fun y => y == m) (fun y => { y with out := true, left := bs.drop 240 }) s.sent } x

/-- The first flit for another device that finds a port goes on, with a SEQ and a CRC of that hop; the buffer that it leaves is free
again (R451, R452). -/
def passOn (s : State) : State :=
  match s.transit.find? fun t => !(openPorts s (loadOf t.2).vc).isEmpty with
  | none => s
  | some t =>
    let x := loadOf t.2
    route (setPort { s with transit := s.transit.erase t } t.1 (owe (portAt s t.1) x.vc 1)) x

/-- A NAK that is due, or credits that no message takes along, go out by themselves (R449, R452). -/
def linkControl (s : State) (n : Nat) : State :=
  let p := portAt s n
  if !fabric s n || !portUp p then s
  else if p.nakDue then setPort s n { onLink p { ty := 8, dst := p.peer, src := s.device } with nakDue := false }
  else if 0 < (creditOf p).2 then setPort s n (onLink p { ty := 0, vc := 0, dst := p.peer, src := s.device })
  else s

/-- What goes out of the ports in a cycle. -/
def linkTurn (s : State) : State := (List.range 24).foldl linkControl (sendFlit (passOn s))

/-- Messages that have begun to go out and are not answered are sent anew, by any route (R453, R454). -/
def sendAnew (s : State) : State :=
  { s with sent := lmap (fun m => m.out) (fun m => { m with out := false, left := [] }) s.sent }

/-! ### Events of ports (R454, R478) -/

/-- LANE_LOSS: a lane of a link that is Up is lost or over its error rate (R454). -/
def execLaneLoss (s : State) : Host.Outcome State Fault Refusal :=
  match s.inputs with
  | .laneLoss n l :: r =>
    let s := { s with inputs := r }
    let p := portAt s n
    .next (if portUp p then setPort s n (retrain { p with lanes := p.lanes &&& ~~~(BitVec.ofNat 8 (2 ^ l)) }) else s)
  | _ => .next s

/-- The lanes `l` of a port have trained: the link is Up and sends again what is not acknowledged, or has Failed and its messages go
another way. A link that comes up afresh gives its peer credits, whose number the device chooses (R451, R454). -/
def trained (s : State) (n : Nat) (l : BitVec 8) : State :=
  let p := portAt s n
  let k := popN l.toNat 8
  let p := { p with lanes := l, waited := 0, st := if k = 8 then .up8 else if 4 ≤ k then .up4 else .failed }
  if k < 4 then sendAnew (setPort s n p)
  else if (portAt s n).st = .training then
    setPort { s with free := s.free + 4 } n (resend ((List.range 4).foldl (fun p v => owe p v (Config.free (s.free + v) % 64)) p))
  else setPort s n (resend p)

/-- LANES_TRAINED (R454). -/
def execLanesTrained (s : State) : Host.Outcome State Fault Refusal :=
  match s.inputs with
  | .trained n l :: r =>
    let s := { s with inputs := r }
    let p := portAt s n
    .next (if (p.st = .training || p.st = .retraining) && fabric s n then trained s n l else s)
  | _ => .next s

/-- TRAINING_TIMEOUT: at a port, 1 ms has passed and fewer than 4 lanes are good (R454). -/
def execTrainingTimeout (s : State) : Host.Outcome State Fault Refusal :=
  let p := portAt s s.cur
  .next (if (p.st = .training || p.st = .retraining) && 1000000 ≤ p.waited && popN p.lanes.toNat 8 < 4 then
      sendAnew (setPort s s.cur { p with st := .failed, waited := 0 })
    else s)

/-- FIRMWARE_RETRY: at a port, 100 ms after it failed (R454). -/
def execFirmwareRetry (s : State) : Host.Outcome State Fault Refusal :=
  let p := portAt s s.cur
  .next (if p.st = .failed && 100000000 ≤ p.waited then setPort s s.cur { p with st := .training, waited := 0 } else s)

/-- PORTCTL: disable, train or retrain a port (R454, R478). -/
def execPortctl (s : State) : Host.Outcome State Fault Refusal :=
  .next (takeHost (fun c => c == 0x49) (fun s n q =>
    let w := q.w1.toNat
    let k := w % 32
    let p := portAt s k
    if q.w0.toNat / 256 ≠ 0 then endCmd s n q 2 0 0
    else if fld w 6 5 = 3 || !fabric s k then endCmd s n q 0x23 0 0
    else
      let s := match fld w 6 5 with
        | 0 => sendAnew (setPort s k { p with st := .down, retry := [], waited := 0, nakRun := 0 })
        | 1 => if p.st = .down then setPort s k { p with st := .training, waited := 0 } else s
        | _ => if p.st = .up4 then setPort s k (retrain p) else s
      endCmd s n q 0 0 0) s)

/-! ### Messages (R453, R456) -/

/-- A delivery of another device is turned away: it is logged as a block that is not assigned, one that is disabled, or a refusal by OPEN
or OWNER, and answered with 2 (R251, R325, R444). -/
def turnAway (s : State) (m : Msg) (blk : Nat) : State :=
  let off := 64 * blk + 0x10
  answerMsg (if blockDepth blk = 0 then violate s 0 1 m.src off
    else if !(blockAt s blk).en then violate (logBlock s blk 3 off m.src) (blockDie blk) 2 m.src off
    else violate s (blockDie blk) 4 m.src off) m 2

/-- A delivery from another device: no context of this device makes it, so OPEN admits it or nothing does (R250, R251). The answer is 0
delivered, 1 full, 2 refused. -/
def remoteDeliver (s : State) (m : Msg) (blk : Nat) (pk : Packet) : State :=
  match deliver s blk 1024 { pk with dev := m.src } with
  | .ok t => answerMsg t m 0
  | .full => answerMsg s m 1
  | .refused => turnAway s m blk

/-- The message of this device that an answer from `m.src` is about. -/
def isAnswered (m : Msg) (seq : Nat) (x : Msg) : Bool := waits x && x.seq == seq && x.dst == m.src && x.chan == m.chan

/-- What became of the request `x` of an access to a lent frame: an answer, or none within its time. An engine's is kept for its command;
the access of a core goes on, or is one whose walk failed (R148, R370, R456). -/
def lentDone (s : State) (x : Msg) (ok : Bool) : State :=
  match x.body with
  | .lent cl page _ =>
    if 2 ^ 20 ≤ x.core then { s with sent := lmap (fun y => y == x) (fun y => { y with body := .lent cl page (some ok) }) s.sent }
    else
      let t := { s with sent := s.sent.erase x }
      if x.core = 0 then t
      else
        let c := coreAt t (x.core - 1)
        setCoreAt t (x.core - 1) (if ok then { c with lentOk := (cl, page) :: c.lentOk } else { c with walkBad := (cl, page) :: c.walkBad })
  | _ => s

/-- An acknowledgement: a delivery and a request keep their answer for what waits; a mirror is in place, or found no room; a read waits
for its bytes; a target that has been told to commit has committed; any other message need not be kept (R252, R293, R297, R346,
R453). -/
def answered (s : State) (m : Msg) (seq code : Nat) : State :=
  match s.sent.find? (isAnswered m seq) with
  | none => s
  | some x =>
    let gone := { s with sent := s.sent.erase x }
    let keep := fun (b : MsgBody) => { s with sent := lmap (fun y => y == x) (fun y => { y with body := b }) s.sent }
    match x.body with
    | .deliver b c q o _ => if x.core = 0 then gone else keep (.deliver b c q o (some code))
    | .ask b _ => if x.core = 0 then gone else keep (.ask b (some code))
    | .pull l f _ => if x.core = 0 then gone else keep (.pull l f true)
    | .lent _ _ _ => lentDone s x true
    | .commit ctx _ _ => commitMove gone ctx x.dst
    | .route _ _ _ => routed gone
    | .fetch _ _ => s
    | .mem false _ _ _ => s
    | .mirror img => if code = 0 then mirrorDone gone img else dropImage gone img
    | _ => gone

/-- Another device asks for a held set that is listed here: it is written back, and emptied for a BINIT (R346). -/
def pulled (s : State) (list : Nat) (free : Bool) : State :=
  let hs := s.holds.filter fun h => h.list == list
  let t := hs.foldl (fun s h => writeBack (fun x => x.key == h.sector) h.core s) s
  if free then { t with holds := t.holds.filter fun h => h.list != list } else t

/-- The mirror device answers a CRESTORE (R298). -/
def foundMirror (s : State) (src ctx : Nat) (l : List Image) : State :=
  { s with sent := lmap (isFetch ctx src) (fun y => { y with body := .fetch ctx (some l) }) s.sent }

/-- The answer of a bridge read. -/
def answerRead (s : State) (bs : List Byte) : State := { s with readBack := s.readBack ++ [bs] }

/-- Writes bytes into the words of this device's queue window, the lowest first; nothing while a block pushes one back
(R323, R328). -/
def windowWrite (off : Nat) (data : List Byte) (dev : Nat) (s : State) : Option State :=
  (List.range ((data.length + 3) / 4)).foldl (fun (o : Option State) i => o.bind fun s =>
    let a := off + 4 * i
    blockWrite s (a / 64) (a % 64 / 4 * 4) (BitVec.ofNat 32 (leNat ((data.drop (4 * i)).take 4))) dev) (some s)

/-- The bytes that loads of the queue window answer. -/
def windowRead (s : State) (off n : Nat) : List Byte :=
  (List.range n).map fun i => BitVec.ofNat 8 (blockWord s ((off + i) / 64) ((off + i) % 64) / 256 ^ ((off + i) % 4))

/-- A write to this device's memory or queue window from outside: a strong store at system scope, or a write of the block's registers;
none while the block pushes it back; one to firmware's own memory is refused (R328, R444, R459). -/
def memWrite (s : State) (a : Nat) (data : List Byte) (dev at_ : Nat) : Option State :=
  match blockOfKey s a with
  | some (d, b, o) => if d = s.device then windowWrite (64 * b + o) data dev s else some s
  | none => some (if (pagesOf a data.length).any fun p => Config.firmwareFrame p.1 then violate s 0 6 dev at_ else strongPuts s a data)

/-- What a read of this device's memory or queue window from outside gives. -/
def memRead (s : State) (a n : Nat) : List Byte :=
  match blockOfKey s a with
  | some (_, b, o) => windowRead s (64 * b + o) n
  | none => devBytes s a n

/-- The bytes that another device answered a bridge read with (R458, R459). -/
def tookData (s : State) (m : Msg) (seq : Nat) (bs : List Byte) : State :=
  match s.sent.find? fun x => x.seq == seq && x.dst == m.src && (match x.body with | .mem false _ _ _ => true | _ => false) with
  | some x => answerRead { s with sent := s.sent.erase x } bs
  | none => s

/-- The effect of a message other than a token or a clock proposal. -/
def takeMsg (s : State) (m : Msg) : State :=
  match m.body with
  | .deliver blk _ pk _ _ => remoteDeliver s m blk pk
  | .ask blk _ => if refuses s blk 1024 then turnAway s m blk else ackMsg s m
  | .answer seq code => answered s m seq code
  | .member j => if s.broken.contains (j.setid, j.seq) then ackMsg s m else putMember (ackMsg s m) { j with dev := m.src, cmd := none }
  | .cut set seq => if s.broken.contains (set, seq) then ackMsg s m else breakColl (ackMsg s m) set seq
  | .lost set => collFail (ackMsg s m) (fun j => j.setid == set) eMEMBERLOST
  | .route set rank dev => routeMember (ackMsg s m) set rank dev
  | .lent _ _ _ => ackMsg s m
  | .mem true a _ data => ackMsg ((memWrite s a data m.src a).getD s) m
  | .mem false a n _ => sendMsg (ackMsg s m) m.src 1 (.memData m.seq (memRead s a n))
  | .memData seq bs => tookData (ackMsg s m) m seq bs
  | .arrive img => arrive (ackMsg s m) m.src img
  | .ready ctx => takeReady (ackMsg s m) ctx m.src
  | .commit ctx step e => commitHere (ackMsg s m) ctx m.src step e
  | .cancel ctx => cancelHere (ackMsg s m) ctx m.src
  | .mirror img => match keepMirror s img with
    | some t => ackMsg t m
    | none => answerMsg s m 1
  | .fetch ctx _ => sendMsg (ackMsg s m) m.src 2 (.found ctx (s.mirrors.filter fun i => i.ctx == ctx))
  | .found ctx l => foundMirror (ackMsg s m) m.src ctx l
  | .committed ctx => commitMove (ackMsg s m) ctx m.src
  | .turnedAway ctx => failMove (ackMsg s m) ctx
  | .retire ctx => retireHere (ackMsg s m) ctx m.src
  | .retired ctx status => retiredAway (ackMsg s m) ctx status
  | .pull list free _ => ackMsg (pulled s list free) m
  | .token _ => s
  | .clock _ => s

/-- A message must wait: an arriving migration while an operating-point step is under way, and a write that a queue register block pushes
back (R328, R395). -/
def msgWaits (s : State) (m : Msg) : Bool :=
  match m.body with
  | .arrive _ => s.power.pend
  | .mem true a _ data => (memWrite s a data m.src a).isNone
  | _ => false

/-- The message at the head of the inputs must wait. -/
def headWaits (s : State) : Bool := match s.inputs with | .message m :: _ => msgWaits s m | _ => false

/-- MESSAGE_RECEIVED (R453). -/
def execMessageReceived (s : State) : Host.Outcome State Fault Refusal :=
  .next (takeInput (fun b => match b with
    | .token _ => false
    | .clock _ => false
    | _ => !headWaits s) takeMsg s)

/-- TOKEN_GRANT: a grant of the current epoch is credited, any other is lost (R462, R463, R465). -/
def execTokenGrant (s : State) : Host.Outcome State Fault Refusal :=
  .next (takeInput (fun b => match b with | .token _ => true | _ => false) (fun s m =>
    match m.body with
    | .token x =>
      let s := ackMsg s m
      let e := fld x.toNat 31 0
      let n := fld x.toNat 63 32
      if e = s.power.epoch % 2 ^ 32 then { s with power := { s.power with account := s.power.account + 1000000 * (n : Int) } }
      else { s with power := { s.power with lost := s.power.lost + n } }
    | _ => s) s)

/-- CLOCK_PROPOSAL: a proposal for a set is recorded with its epoch (R464). -/
def execClockProposal (s : State) : Host.Outcome State Fault Refusal :=
  .next (takeInput (fun b => match b with | .clock _ => true | _ => false) (fun s m =>
    match m.body with
    | .clock x =>
      let v := x.toNat
      let s := ackMsg s m
      { s with power := { s.power with proposals := s.power.proposals ++ [(fld v 31 0, fld v 63 32, min 5 (fld v 71 64))] } }
    | _ => s) s)

/-- Firmware routing could not be updated at a device of a set: a migration that waits for that fails (R293, R295), else the device is told
anew. -/
def unrouted (s : State) (set rank dev dst : Nat) : State :=
  match s.ctxs.find? fun x => x.2.st == .migrating && x.2.ready && !x.2.going && (memberRanks s x.1).contains (set, rank) with
  | some x => failMove s x.1
  | none => sendMsg s dst 2 (.route set rank dev)

/-- What becomes of a message that was not delivered within 10 ms (R252, R295, R456, R463): a delivery that its agent waits for is sent on,
a collective ends with LINKLOST for every member, a migration fails, a request of an access to a lent frame fails, a write through the
bridge is lost and a read gives all ones. What else a device that is not lost must learn goes to it in a message of its own, anew
(notes/assumptions/17.md). -/
def undelivered (s : State) (m : Msg) : State :=
  let gone := { s with sent := s.sent.erase m }
  let keep := fun (b : MsgBody) => { s with sent := lmap (fun y => y == m) (fun y => { y with body := b }) s.sent }
  let on := { s with sent := lmap (fun y => y == m) (fun y => { y with tries := 0, from_ := s.ns, out := false, left := [] }) s.sent }
  let anew := if s.lostDevs.contains m.dst then gone else postMsg gone m.dst m.chan m.core m.body
  match m.body with
  | .deliver b c q once _ =>
    if once then keep (.deliver b c q once (some 3)) else on
  | .ask _ _ => on
  | .lent _ _ _ => lentDone s m false
  | .member j => if s.broken.contains (j.setid, j.seq) then gone
      else sendAll (breakColl gone j.setid j.seq) (setDevs s j.setid) 2 (.cut j.setid j.seq)
  | .arrive img => if (ctxAt s img.ctx).going then gone else failMove gone img.ctx
  | .commit ctx _ _ => failMove gone ctx
  | .route set rank dev => if s.lostDevs.contains m.dst then routed gone else unrouted gone set rank dev m.dst
  | .mirror img => dropImage gone img
  | .fetch ctx _ => keep (.fetch ctx (some []))
  | .token x => { gone with power := { gone.power with lost := gone.power.lost + fld x.toNat 63 32 } }
  | .mem w _ n _ => if w then gone else answerRead gone (List.replicate n 255)
  | .cut _ _ => anew
  | .lost _ => anew
  | .cancel _ => anew
  | .retire _ => anew
  | .retired _ _ => anew
  | .pull _ _ _ => anew
  | .clock _ => gone
  | .memData _ _ => gone
  | .ready _ => gone
  | .committed _ => gone
  | .turnedAway _ => gone
  | .found _ _ => gone
  | .answer _ _ => gone

/-- MESSAGE_UNDELIVERABLE: at a message that was sent 10 ms ago and has no answer (R453, R456). -/
def execMessageUndeliverable (s : State) : Host.Outcome State Fault Refusal :=
  match s.sent[s.cur]? with
  | some m => .next (if waits m && m.from_ + 10000000 ≤ s.ns then undelivered s m else s)
  | none => .next s

/-- END_TO_END_RESEND: at a message without an answer, up to four times (R453). -/
def execEndToEndResend (s : State) : Host.Outcome State Fault Refusal :=
  match s.sent[s.cur]? with
  | some m => .next (if waits m && m.tries < 4 then
      { s with sent := lmap (fun y => y == m) (fun y => { y with tries := y.tries + 1, out := false, left := [] }) s.sent }
    else s)
  | none => .next s

/-! ### The host bridge (R457-R460) -/

/-- A refused write of the bridge (R444, R458). -/
def bridgeRefuse (s : State) (off : Nat) : State := violate s 0 5 s.device off

/-- An access to a window or to the memory of another device, at a device address of it: a device that is absent or lost reads all ones,
and writes to it are refused; to a present one a message goes (R458, R459). -/
def otherDevice (write : Bool) (d key off n : Nat) (data : List Byte) (s : State) : State :=
  if !Config.present d || s.lostDevs.contains d then
    if write then bridgeRefuse s off else answerRead s (List.replicate n 255)
  else sendMsg s d 0 (.mem write key n data)

/-- An access to BAR0 (R458); nothing while a block pushes a write back. -/
def bar0 (write : Bool) (off n : Nat) (data : List Byte) (s : State) : Option State :=
  if off < 0x800000 then
    if off / 131072 ≠ s.device % 64 then
      some (otherDevice write (s.device / 64 * 64 + off / 131072) (windowKey + off % 131072) off n data s)
    else if write then windowWrite (off % 131072) data s.device s
    else some (answerRead s (windowRead s (off % 131072) n))
  else if off < 0x800200 then
    let i := (off - 0x800000) / 8
    let e := (fget 0 s.apertures i).toNat
    if write then
      let k := off % 8
      let v := setFld e (8 * (k + min n (8 - k)) - 1) (8 * k) (leNat data)
      some { s with apertures := fput s.apertures i (BitVec.ofNat 64 v &&& 0xFFFFFF7F) }
    else some (answerRead s ((List.range n).map fun j => BitVec.ofNat 8 (e / 256 ^ (off % 8 + j))))
  else if 0x801000 ≤ off && off < 0x802000 then
    if write then some { s with msixTable := data.zipIdx.foldl (fun f x => fput f (off - 0x801000 + x.2) x.1) s.msixTable }
    else some (answerRead s ((List.range n).map fun j => fget 0 s.msixTable (off - 0x801000 + j)))
  else if 0x802000 ≤ off && off < 0x802020 then some (if write then s else answerRead s (List.replicate n 0))
  else some (if write then bridgeRefuse s off else answerRead s (List.replicate n 0))

/-- The device address that a BAR2 offset reaches through its aperture (R459). -/
def apertureKey (s : State) (off : Nat) : Nat := fld (fget 0 s.apertures (off / 2 ^ 28)).toNat 31 8 * 2 ^ 28 + off % 2 ^ 28

/-- An access to BAR2: aperture n maps 256 MiB of a device's memory, and a write is a strong store at system scope; one to
firmware's own memory is refused (R444, R458, R459). -/
def bar2 (write : Bool) (off n : Nat) (data : List Byte) (s : State) : Option State :=
  let e := (fget 0 s.apertures (off / 2 ^ 28)).toNat
  let a := apertureKey s off
  if !bitAt e 0 then some (if write then bridgeRefuse s off else answerRead (bridgeRefuse s off) [])
  else if fld e 6 1 ≠ s.device % 64 then some (otherDevice write (s.device / 64 * 64 + fld e 6 1) a off n data s)
  else match blockOfKey s a with
    | some (d, _, _) => if d = s.device then (if write then memWrite s a data s.device off else some (answerRead s (memRead s a n)))
      else some (otherDevice write d a off n data s)
    | none => if write then memWrite s a data s.device off else some (answerRead s (memRead s a n))

/-- The offset in its block of an access of the bridge to a queue window. -/
def inWindow (s : State) (bar off : Nat) : Option Nat :=
  if bar = 0 then (if off < 0x800000 then some (off % 64) else none)
  else (blockOfKey s (apertureKey s off)).map fun b => b.2.2

/-- A load of a queue register block, or a write to its control registers (R328). -/
def freely (s : State) (w : Bool) (bar off : Nat) : Bool := (inWindow s bar off).any fun o => !w || decide (0x18 ≤ o)

/-- A read must wait for one that another device has still to answer, and, but for a load of a block, for the writes that another device
has still to perform (R328, R459). -/
def readWaits (s : State) (bar off : Nat) : Bool :=
  s.sent.any fun m => match m.body with | .mem w _ _ _ => !w || !freely s false bar off | _ => false

/-- The device that an access of the bridge reaches (R458, R459). -/
def bridgeDev (s : State) (bar off : Nat) : Nat :=
  let near := s.device / 64 * 64
  if bar = 0 then (if off < 0x800000 then near + off / 131072 else s.device)
  else
    let d := near + fld (fget 0 s.apertures (off / 2 ^ 28)).toNat 6 1
    if d ≠ s.device then d else ((blockOfKey s (apertureKey s off)).map fun b => b.1).getD d

/-- A write must wait for the writes before it that a device other than its own has still to perform: they are performed in arrival order
(R459). Writes to one device keep their order on the way, and one to a block's control registers waits for nothing (R328, R453). -/
def writeWaits (s : State) (bar off : Nat) : Bool :=
  !freely s true bar off && s.sent.any fun m => match m.body with | .mem w _ _ _ => w && m.dst != bridgeDev s bar off | _ => false

/-- An access of the bridge: nothing while it must wait (R328, R458, R459). -/
def bridgeAccess (w : Bool) (bar off n : Nat) (data : List Byte) (s : State) : Option State :=
  if (if w then writeWaits s bar off else readWaits s bar off) then none
  else if bar = 0 then bar0 w off n (data.take n) s else bar2 w off n (data.take n) s

/-- HOST_BRIDGE_ACCESS (R457-R459). Only a bridge device that has booted has the endpoint (R476). -/
def execHostBridgeAccess (s : State) : Host.Outcome State Fault Refusal :=
  match s.inputs with
  | .bridge w bar off n data :: r =>
    if !s.bridge || s.boot.stage ≠ 7 then .next { s with inputs := r }
    else match bridgeAccess w bar off n data s with
      | some t => .next { t with inputs := r }
      | none => .next s
  | _ => .next s

/-! ### Inputs that wait (R328, R395) -/

/-- An input cannot be taken yet: a write that its block pushes back, an access of the bridge that waits, or a message that must wait
(R328, R395, R459). -/
def heldBack (s : State) : Input → Bool
  | .regWrite n off val dev => decide (n < 2048) && (blockWrite s n (off % 64 / 4 * 4) val dev).isNone
  | .bridge w bar off n data => s.bridge && s.boot.stage == 7 && (bridgeAccess w bar off n data s).isNone
  | .message m => msgWaits s m
  | _ => false

/-- Two inputs come by one path, on which the later waits for the earlier; a load of a block and a write to its control registers wait
for nothing (R328). -/
def onePath (s : State) : Input → Input → Bool
  | .regWrite _ _ _ d, .regWrite _ off _ e => d == e && decide (off % 64 < 0x18)
  | .bridge .., .bridge w bar off _ _ => !freely s w bar off
  | .message m, .message n => m.src == n.src && m.chan == n.chan
  | _, _ => false

/-- The inputs with the first that can be taken in front (R328). -/
def readyFirst (s : State) (l : List Input) : List Input :=
  match (List.range l.length).find? fun i => match l[i]? with
      | some x => !heldBack s x && (l.take i).all fun h => !onePath s h x
      | none => false with
  | some i => (l[i]?).toList ++ l.eraseIdx i
  | none => l

end Sys2Proof.Machine
end

