-- ==== Sys2Proof/Machine/Power.lean ====
section
/-! DEFINITION. Epochs, operating-point steps, row failures, soft errors, management commands and boot
(spec/21_power_reliability.md R465-R478, spec/16_extent.md R394-R402). -/

namespace Sys2Proof.Machine

/-! ### Epochs (R464-R466, R470) -/

/-- The sets in which a Hot context of this device has a member (R285, R464). -/
def hotSets (s : State) : List Nat :=
  ((s.ctxs.filter fun x => x.2.st == .hot).flatMap fun x => memberSets s x.1).eraseDups

/-- What is left of a deficit for the next epoch (R465). -/
def deficitOf (p : Power) : Int := if p.account < 0 then min (-p.account) (1000000 * (p.allot : Int)) else 0

/-- The guard point and the count of quiet epochs after an epoch of `p.trips` trips (R470). -/
def nextGuard (p : Power) : Nat × Nat :=
  if 64 < p.trips then (min 5 (p.guard + 1), 0)
  else if 100 ≤ p.quiet + 1 then (p.guard - 1, 0)
  else (p.guard, p.quiet + 1)

/-- The highest-numbered point adopted by a set for the new epoch: the device's own proposal and those that came for the
old epoch (R464). -/
def adoptedPoint (p : Power) (sets : List Nat) : Nat :=
  if sets.isEmpty then 0
  else (p.proposals.filter fun x => sets.contains x.1 && x.2.1 == p.epoch % 2 ^ 32).foldl (fun n x => max n x.2.2) p.own

/-- A clock proposal (R464). -/
def clockPayload (set epoch point : Nat) : BitVec 128 := BitVec.ofNat 128 (set + epoch % 2 ^ 32 * 2 ^ 32 + point * 2 ^ 64)

/-- Requests a step to `wish` when it differs from the point, none is pending and none has started in this epoch
(R394-R395, R466). -/
def wantStep (s : State) : State :=
  let p := s.power
  if p.wish = p.point || p.pend || p.stepped then s
  else { s with power := { p with
    target := p.wish, pend := true, part := 0, stepped := true
    early := (List.range 132).map fun n => (n, occOf (blockAt s n)) } }

/-- EPOCH_START: at the end of 10 ms the account is refreshed, the guard and the target points are set, and proposals are
sent (R464-R466, R470). The budget point is firmware's estimate, a free value; with ALLOT 0 it is P5 (R477). -/
def execEpochStart (s : State) : Host.Outcome State Fault Refusal :=
  if s.ns < s.epochAt + 10000000 then .next s
  else
    let p := s.power
    let sets := hotSets s
    let (guard, quiet) := nextGuard p
    let (f, s) := freeVal s
    let budget := if p.allotNext = 0 then 5 else f % 6
    let own := max (max p.capNext budget) (max guard (p.advice.getD 0))
    let s := { s with epochAt := s.epochAt + 10000000, power := { p with
      epoch := p.epoch + 1, allot := p.allotNext, account := 1000000 * (p.allotNext : Int) - deficitOf p
      cap := p.capNext, guard := guard, quiet := quiet, trips := 0, advice := none, stepped := false
      own := own, wish := max own (adoptedPoint p sets)
      proposals := p.proposals.filter fun x => x.2.1 == (p.epoch + 1) % 2 ^ 32 } }
    .next (sets.foldl (fun s k => sendAll s (setDevs s k) 3 (.clock (clockPayload k s.power.epoch own))) (wantStep s))

/-! ### Operating-point steps (R394-R398) -/

/-- An accepted command names a vault address: a side, its barrier, or a window's tensor (R395). -/
def usesVault (e : EngCmd) : Bool :=
  e.sd || e.ss || ((e.hasBar || e.op == .upd) && barVault e.bar) || (e.op == .wmcpy && e.map.getLsbD 72)

/-- The step may leave its first part: no node of a Hot context and no tile runs, no node that a Suspended context keeps has rows
that the target takes for its bands, nothing moves, no Suspended context has pinned rows, the commands that stood in the engines' queues when it was requested have
completed, and so have the accepted ones that name a vault address (R395; notes/assumptions/33.md). -/
def quiet (s : State) : Bool :=
  !(s.runs.any fun r => (ctxAt s r.ctx).st == .hot || keepsBand s r) && !(s.cores.any fun nc => nc.2.busy)
    && !(s.ctxs.any fun x => x.2.st == .migrating || (x.2.st == .suspended && placedExts x.2))
    && (s.power.early.all fun x => x.2 == 0)
    && !(s.joined.any fun j => j.cmd.any usesVault)
    && (List.range 132).all fun n => (blockAt s n).cmds.all fun c => match c with
      | .taken e => !usesVault e
      | _ => true

/-- The extent stands in rows of vault `v`. -/
def extIn (v : Nat) (e : Extent) : Bool := inRows e && e.base / 2 ^ 25 == v

/-- The contexts that have an extent in rows of vault `v`. -/
def vaultCtxs (s : State) (v : Nat) : List Nat := (s.ctxs.filter fun x => x.2.exts.any (extIn v)).map fun x => x.1

/-- Changes the extents that satisfy `p`, and writes the slots of their contexts (R389). -/
def changeExts (p : Extent → Bool) (f : Extent → Extent) (s : State) : State :=
  let ids := (s.ctxs.filter fun x => x.2.exts.any p).map fun x => x.1
  ids.foldl writeSlots { s with ctxs := s.ctxs.map fun x => (x.1, { x.2 with exts := lmap p f x.2.exts }) }

/-- The bytes or marks at `unit`-sized places of the placed extents of vault `v` move by `d` rows, over what stood there. -/
def shiftKeys (s : State) (v : Nat) (d : Int) (unit : Nat) (a : Nat) : Option Nat :=
  let ps : List (Nat × Nat) := (placedIn s v).map fun p => (v * 2 ^ 25 + p.1 * 1024, p.2 * 1024)
  let here := fun (off : Int) => ps.any fun p => decide ((p.1 : Int) + off ≤ (unit * a : Nat)) && decide (((unit * a : Nat) : Int) < (p.1 : Int) + off + (p.2 : Nat))
  if here 0 then some (((a : Int) + d * ((1024 / unit : Nat) : Int)).toNat)
  else if here (d * 1024) then none else some a

/-- The band of vault `v` moves by `d` rows with every extent in it (R396). -/
def shiftVault (s : State) (v : Nat) (d : Int) : State :=
  let vs := s.vault.filterMap fun x => (shiftKeys s v d 1 x.1).map fun k => (k, x.2)
  let bs := s.badVault.filterMap fun x => shiftKeys s v d 64 x
  changeExts (extIn v) (fun e => { e with st := 1, base := ((e.base : Int) + d * 1024).toNat, gen := e.gen + 1 })
    { s with vault := vs.foldl (fun f x => fput f x.1 x.2) [], badVault := bs }

/-- The rows of vault `v`, in list order (R384). -/
def rowList (s : State) (v : Nat) : List Row := fget [] s.rows v

/-- A spare at point `p` that lies at or past position `n` of the list (R385). -/
def spareAt (s : State) (v p n : Nat) : Option Nat :=
  ((rowList s v).zipIdx.find? fun x => decide (n ≤ x.2) && decide (p ≤ x.1.low) && x.1.low != 15).map fun x => x.2

/-- Exchanges two rows of a list. -/
def swapRows (l : List Row) (i j : Nat) : List Row :=
  match l[i]?, l[j]? with
  | some a, some b => (l.set i b).set j a
  | _, _ => l

/-- A list of rows sorted by LOW, highest first, with the retired ones at the end (R384). -/
def tidyRows (l : List Row) : List Row :=
  [5, 4, 3, 2, 1, 0].flatMap (fun p => l.filter fun r => r.low == p) ++ l.filter fun r => decide (5 < r.low)

/-- The most logical rows that a vault maps at any point. -/
def topRows (s : State) (v : Nat) : Nat := (List.range 6).foldl (fun m p => max m (mappedRows s v p)) 0

/-- Vault `v` is out of service; the management log says so (R400). -/
def retireVault (s : State) (v : Nat) : State :=
  if s.outVaults.contains v then s else { s with outVaults := v :: s.outVaults, reports := s.reports ++ [v] }

/-- The list of vault `v` becomes `l`, sorted (R384). Lehr copies the rows that some point maps, so that each logical row keeps its
bytes and its marks; the marks of the other rows go with the physical rows, and are gone where such a row is written whole (R385, R399;
notes/assumptions/34.md). -/
def relist (v : Nat) (l : List Row) (s : State) : State :=
  let t := tidyRows l
  let m := topRows s v
  let mark := fun (x : Nat) =>
    let k := x / 16 % 2 ^ 15
    if x / 2 ^ 19 ≠ v || k < m then some x
    else match l[k]? with
      | none => some x
      | some r => ((t.findIdx? fun y => y.prow == r.prow).filter fun j => decide (m ≤ j)).map fun j => v * 2 ^ 19 + j * 16 + x % 16
  { s with rows := fput s.rows v t, badVault := s.badVault.filterMap mark }

/-- Row `n` of vault `v` is copied into the spare at place `i`, with its marks, and the two change places; `g` is what becomes of the row
that is replaced (R397, R399). -/
def replaceRow (v n i : Nat) (g : Row → Row) (s : State) : State :=
  match (rowList s v)[n]? with
  | none => s
  | some r => relist v ((swapRows (rowList s v) n i).set i (g r)) { s with badVault := s.badVault.filter fun x => x / 16 != v * 2 ^ 15 + i }

/-- The shift of a vault fails: its contexts are Suspended with their extents saved, and the vault leaves service (R397). -/
def dropVault (s : State) (v : Nat) : State := retireVault ((vaultCtxs s v).foldl evacFail s) v

/-- The highest-numbered point that maps logical row `n` of vault `v`, if any does. -/
def lastPoint (s : State) (v n : Nat) : Option Nat := ((List.range 6).reverse).find? fun p => decide (n < mappedRows s v p)

/-- The spare that takes the place of logical row `n` for a step to `q`: one that holds wherever the row is mapped, where there is one,
and else one that holds at `q` (R397, R399; notes/assumptions/34.md). -/
def spareFor (s : State) (v q n : Nat) : Option Nat :=
  (spareAt s v (max q ((lastPoint s v n).getD q)) (topRows s v)).orElse fun _ => spareAt s v q (mappedRows s v q)

/-- Verifies the target rows of the extents of vault `v` for a step to `q`: one may fail, by a free value, and a spare at `q` takes
its place and is verified in its turn; none where there is no spare (R396, R397). -/
def verifyRows (v q : Nat) (d : Int) : Nat → State → Option State
  | 0, s => some s
  | k + 1, s =>
    let (f, s) := freeVal s
    let ts := (placedIn s v).flatMap fun p => (List.range p.2).map fun i => (((p.1 + i : Nat) : Int) + d).toNat
    if f % 2 = 0 || ts.isEmpty then some s
    else
      let n := ts.getD (f / 2 % ts.length) 0
      match spareFor s v q n with
      | some i => verifyRows v q d k (replaceRow v n i (fun r => { r with low := if q = 0 || r.low = 15 then 15 else min r.low (q - 1) }) s)
      | none => none

/-- The rows by which the bands of vault `v` move in a step from `p` to `q` (R396). -/
def bandMove (s : State) (p q v : Nat) : Int := (mappedRows s v q : Int) - mappedRows s v p

/-- Shifts the band of vault `v` for a step from `p` to `q` (R396, R397). -/
def stepVault (p q : Nat) (s : State) (v : Nat) : State :=
  let d := bandMove s p q v
  if d = 0 || (vaultCtxs s v).isEmpty then s
  else match verifyRows v q d 8704 s with
    | some t => shiftVault t v d
    | none => dropVault s v

/-- The extents of the bands that a step from `p` to `q` moves are Moving (R396, R401). -/
def startShift (p q : Nat) (s : State) : State :=
  changeExts (fun e => inRows e && bandMove s p q (e.base / 2 ^ 25) != 0) (fun e => { e with st := 2 }) s

/-- The configuration image that runs. -/
def activeImage (s : State) : CfgImage := ((if s.boot.active = 0 then s.boot.slot0 else s.boot.slot1).getD default)

/-- A cache keeps a sector in a row that point `q` maps out (R398). -/
def mappedOut (s : State) (q cache sec : Nat) : Bool :=
  (activeImage s).cacheRows.any fun r => r.1 == cache && r.2.1 == Config.cacheRow cache sec && decide (r.2.2 < q)

/-- A downward step writes back and drops the lines of L1 and L2 rows that the new point maps out, held sectors among them
(R398). -/
def dropCacheRows (q : Nat) (s : State) : State :=
  let s := s.cores.foldl (fun s nc => evictAll (fun x => mappedOut s q nc.1 x.key) nc.1 s) s
  ((s.l2.map fun x => x.1 / 64).eraseDups.filter (mappedOut s q 512)).foldl (fun s k => l2Clean s (64 * k) 64) s

/-- OPERATING_POINT_STEP: one part of a step: once the package is quiet the extents are Moving, then the bands have shifted, then
the cache rows are written back, and then the new point takes effect (R394). -/
def execOperatingPointStep (s : State) : Host.Outcome State Fault Refusal :=
  let p := s.power.point
  let q := s.power.target
  let part := fun (n : Nat) (s : State) => { s with power := { s.power with part := n } }
  .next (if !s.power.pend then s
    else match s.power.part with
      | 0 => if quiet s then part 1 (startShift p q s) else s
      | 1 => part 2 ((List.range 128).foldl (stepVault p q) s)
      | 2 => part 3 (if p < q then dropCacheRows q s else s)
      | _ => wantStep { s with power := { s.power with point := q, pend := false, part := 0, early := [] } })

/-! ### Row failures (R399, R400, R402) -/

/-- The logical row `n` of vault `v` fails: a spare that holds wherever the row is mapped takes its place, or the row is
retired and the vault leaves service (R399, R400). A replaced row stays a spare or is retired, as Lehr chooses; a retired row goes
to the end of the list (R384; notes/assumptions/34.md). -/
def remapRow (v n : Nat) (s : State) : State :=
  let l := rowList s v
  let m := topRows s v
  let (f, s) := freeVal s
  let retired := fun (r : Row) => { r with low := if f % 2 = 0 then 15 else r.low }
  match l[n]? with
  | none => s
  | some r =>
    match lastPoint s v n with
    | none => relist v (l.set n (retired r)) s
    | some p =>
      match spareAt s v p m with
      | some i => replaceRow v n i retired s
      | none => retireVault (relist v (l.set n { r with low := 15 }) s) v

/-- Marks a sector of a row as damaged (R399). -/
def markSector (v n : Nat) (s : State) : State :=
  let (f, s) := freeVal s
  let sec := (v * 2 ^ 25 + n * 1024) / 64 + f % 16
  { s with badVault := if s.badVault.contains sec then s.badVault else sec :: s.badVault }

/-- ROW_FAILURE: errors above the threshold move a row's contents; an uncorrectable error marks its sector too (R399). -/
def execRowFailure (s : State) : Host.Outcome State Fault Refusal :=
  match s.inputs with
  | .row v n ok :: r =>
    let s := { s with inputs := r }
    .next (remapRow v n (if ok then s else markSector v n s))
  | _ => .next s

/-- Moves extent `i` of a context out of a vault that left service, when some vault has room (R400). -/
def moveExt (ctx : Nat) (o : Option State) (i : Nat) : Option State :=
  o.bind fun s =>
    let x := ctxAt s ctx
    match x.exts[i]? with
    | none => some s
    | some e =>
      if !inRows e || !s.outVaults.contains (e.base / 2 ^ 25) then some s
      else
        let t := clearRows (setCtx s ctx { x with exts := x.exts.set i (saveExt s e) }) e
        (placeAny t (rowsOf e.size)).map fun b => putExt t ctx i b (e.gen + 1)

/-- VAULT_EVACUATION: at a node boundary of a context, its extents leave the vaults that are out of service, Moving first, or it
is Suspended (R400, R401); not while a step moves the bands, nor for a context that migrates, which takes its extents along (R293,
R395). -/
def execVaultEvacuation (s : State) : Host.Outcome State Fault Refusal :=
  let ctx := s.cur
  let x := ctxAt s ctx
  let out := fun (e : Extent) => inRows e && s.outVaults.contains (e.base / 2 ^ 25)
  if nodeRuns s ctx || !mustLeave s ctx || x.st = .migrating || (s.power.pend && s.power.part ≠ 0) then .next s
  else match (List.range x.exts.length).foldl (moveExt ctx) (some s) with
    | some t =>
      if x.exts.any fun e => out e && e.st == 1 then
        .next (writeSlots (setCtx s ctx { x with exts := lmap out (fun e => { e with st := 2 }) x.exts }) ctx)
      else .next (writeSlots t ctx)
    | none => .next (evacFail s ctx)

/-! ### Timing trips and soft errors (R470, R471) -/

/-- TIMING_TRIP outside the matrix array: only the count shows (R470). -/
def execTimingTrip (s : State) : Host.Outcome State Fault Refusal :=
  match s.inputs with
  | .trip _ false :: r => .next { s with inputs := r, power := { s.power with trips := min 65535 (s.power.trips + 1) } }
  | _ => .next s

/-- A sector of device memory is damaged. -/
def harm (k : Nat) (s : State) : State := { s with badSectors := if s.badSectors.contains k then s.badSectors else k :: s.badSectors }

/-- A sector of core `n`'s L1 is struck: a clean one is fetched again, a dirty one is treated as the frame's (R471). -/
def harmL1 (n k : Nat) (s : State) : State :=
  let c := coreAt s n
  let t := setCoreAt s n { c with l1 := c.l1.filter fun x => x.key != k }
  if c.l1.any fun x => x.key == k && x.dirty != 0 then harm k t else t

/-- SOFT_ERROR: a corrected error is counted; an uncorrectable one is met where the value is read; arrays under parity are
rebuilt unseen (R471). One in an accumulator is WINDOW_REPLAY's. -/
def execSoftError (s : State) : Host.Outcome State Fault Refusal :=
  match s.inputs with
  | .soft n x :: r =>
    let t := { s with inputs := r }
    match x with
    | .acc _ => .next s
    | .corrected => .next { t with power := { t.power with cecnt := min (2 ^ 64 - 1) (t.power.cecnt + 1) } }
    | .frame k => .next (harm k t)
    | .l1 k => .next (harmL1 n k t)
    | .l2 k => .next (if t.l2.any fun x => x.1 / 64 == k then harm k (l2Clean t (64 * k) 64) else t)
    | .look => .next { setCoreAt t n { coreAt t n with look := [] } with looks := [] }
    | .xlate => .next t
    | x => .next (setCoreAt t n { coreAt t n with soft := x :: (coreAt t n).soft })
  | _ => .next s

/-! ### Commands of power and management (R477, R478) -/

/-- A host command of `code` whose QW0 has no bit outside `mask`; otherwise BADCODE (R478). -/
def mgmtCmd (code mask : Nat) (go : State → Nat → Packet → State) (s : State) : State :=
  takeHost (fun c => c == code) (fun s n q => if (q.w0.toNat - code) &&& mask = q.w0.toNat - code then go s n q else endCmd s n q 2 0 0) s

/-- OPSET. -/
def execOpset (s : State) : Host.Outcome State Fault Refusal :=
  .next (mgmtCmd 0x40 0 (fun s n q =>
    let p := q.w1.toNat % 8
    if 5 < p then endCmd s n q 0x23 0 0 else endCmd { s with power := { s.power with capNext := p } } n q 0 0 0) s)

/-- PBUDGET. -/
def execPbudget (s : State) : Host.Outcome State Fault Refusal :=
  .next (mgmtCmd 0x41 0 (fun s n q => endCmd { s with power := { s.power with allotNext := q.w1.toNat } } n q 0 0 0) s)

/-- PGRANT: the account is debited when the grant is sent (R462, R463, R465). -/
def execPgrant (s : State) : Host.Outcome State Fault Refusal :=
  .next (mgmtCmd 0x42 0 (fun s n q =>
    let a := q.w1.toNat
    let dst := q.w2.toNat % 65536
    if s.power.account < 1000000 * (a : Int) then endCmd s n q 0x23 0 0
    else
      let s := { s with power := { s.power with account := s.power.account - 1000000 * (a : Int) } }
      let x := BitVec.ofNat 128 (s.power.epoch % 2 ^ 32 + a * 2 ^ 32 + s.device % 65536 * 2 ^ 64 + dst * 2 ^ 80)
      endCmd (sendMsg s dst 3 (.token x)) n q 0 0 0) s)

/-- The device block of the management space (R477). -/
def deviceBlock (s : State) : List Byte :=
  let p := s.power
  leBytes 4 (s.boot.stage % 16 + s.boot.lastErr % 256 * 16 + b2n s.boot.tblRej * 2 ^ 12) ++ leBytes 4 (opptOf p).toNat
    ++ leBytes 4 (p.trips % 65536 + p.guard % 8 * 2 ^ 16 + p.cap % 8 * 2 ^ 19) ++ leBytes 4 p.epoch ++ leBytes 4 p.allot ++ leBytes 4 0
    ++ leBytes 8 (BitVec.ofInt 64 p.account).toNat ++ leBytes 8 p.lost ++ leBytes 8 p.energy ++ leBytes 8 p.cecnt ++ leBytes 8 0

/-- The code of a link state (R455). -/
def linkCode : LinkSt → Nat
  | .down => 0 | .training => 1 | .up8 => 2 | .up4 => 3 | .retraining => 4 | .failed => 5

/-- LNKST, then LNKERR (R455). -/
def portBytes (p : Port) : List Byte :=
  leBytes 4 (linkCode p.st + p.lanes.toNat * 8 + p.peer % 65536 * 2 ^ 11) ++ leBytes 4 (p.naks + p.retrn * 2 ^ 16)

/-- Two records of a log, or its count: 64 bytes at byte 64·i (R477). -/
def logBlk (l : Log) (i : Nat) : List Byte :=
  if i = 0 then leBytes 8 l.count ++ List.replicate 56 0
  else leBytes 32 (fget 0 l.recs (2 * (i - 1))).toNat ++ leBytes 32 (fget 0 l.recs (2 * (i - 1) + 1)).toNat

/-- The entry at place `k` of the row map of vault `v`: DMG says that a sector of its logical row is damaged (R385). -/
def rowBytes (s : State) (v k : Nat) : List Byte :=
  match (rowList s v)[k]? with
  | some r => leBytes 4 (r.prow % 2 ^ 14 + r.low % 16 * 2 ^ 14 + b2n (s.badVault.any fun x => x / 16 == v * 2 ^ 15 + k) * 2 ^ 18)
  | none => leBytes 4 0

/-- 64 bytes of the row map of vault `v` at byte 64·i (R385). -/
def mapBlk (s : State) (v i : Nat) : List Byte :=
  if i = 0 then (List.range 6).flatMap (fun p => leBytes 2 (mappedRows s v p)) ++ leBytes 4 0 ++ (List.range 12).flatMap (rowBytes s v)
  else (List.range 16).flatMap fun k => rowBytes s v (16 * i - 4 + k)

/-- The 64 bytes of the management space at byte 64·i (R477). -/
def mgmtBlk (s : State) (i : Nat) : List Byte :=
  let o := 64 * i
  let zero := List.replicate 64 (0 : Byte)
  if i = 0 then deviceBlock s
  else if o < 0x1000 then zero
  else if o < 0x10C0 then (List.range 8).flatMap fun k => portBytes (portAt s (8 * (i - 64) + k))
  else if 0x100000 ≤ o && o < 0x500000 then
    let d := o / 0x100000 - 1
    let l := fun (f : File Log) => logBlk (fget {} f d) (o % 0x10000 / 64)
    match o % 0x100000 / 0x10000 with
    | 0 => l s.faultLog
    | 1 => l s.replayLog
    | 2 => l s.violLog
    | _ => zero
  else if 0x1000000 ≤ o && o < 0x1400000 then
    let r := fget [] s.trace (o / 0x100000 - 16)
    (List.range 4).flatMap fun k => leBytes 16 ((r[o % 0x100000 / 16 + k]?).getD 0).toNat
  else if 0x2000000 ≤ o && o < 0x2800000 then mapBlk s (o / 0x10000 - 512) (o % 0x10000 / 64)
  else if 0x3000000 ≤ o && o < 0x3400000 then
    let c := (o - 0x3000000) / 0x2000
    let lv := o % 0x2000 / 0x1000 + 1
    ((frameBytes (fget {} (coreAt s c).frames lv) lv).drop (o % 0x1000)).take 64
  else zero

/-- A trace ring of which a read has taken every record is empty again (R446, R447). -/
def drainTrace (s : State) (lo hi : Nat) : State :=
  { s with trace := s.trace.map fun x =>
      let at_ := 0x1000000 + 0x100000 * x.1
      if lo ≤ at_ && at_ + 16 * x.2.length ≤ hi then (x.1, []) else x }

/-- MREAD (R477). -/
def execMread (s : State) : Host.Outcome State Fault Refusal :=
  .next (mgmtCmd 0x43 0xFFFFFF00 (fun s n q =>
    let off := q.w0.toNat / 256
    let len := q.w2.toNat / 65536
    if len = 0 then endCmd s n q 0x23 0 0
    else
      let bs := (List.range len).flatMap fun i => mgmtBlk s (off + i)
      endCmd (strongPuts (drainTrace s (64 * off) (64 * (off + len))) (packetAddr q) bs) n q 0 0 0) s)

/-- The key slot of a command (R478). -/
def keySlot (q : Packet) : Nat := fld q.w0.toNat 22 18

/-- KEYSET (R472). -/
def execKeyset (s : State) : Host.Outcome State Fault Refusal :=
  .next (mgmtCmd 0x44 0x7FFF00 (fun s n q =>
    let ctx := cmdCtx q
    let x := ctxAt s ctx
    if x.st = .retired then endCmd s n q 0x21 0 0
    else if x.st = .migrating || fhas x.keys (keySlot q) then endCmd s n q 0x22 0 0
    else match Config.unwrapKey (devBytes s (packetAddr q) 176) with
      | none => endCmd s n q 0x28 0 0
      | some k => endCmd (sealCtx (setCtx s ctx { x with keys := fput x.keys (keySlot q) k }) ctx) n q 0 0 0) s)

/-- KEYCLR (R472). -/
def execKeyclr (s : State) : Host.Outcome State Fault Refusal :=
  .next (mgmtCmd 0x45 0x7FFF00 (fun s n q =>
    let ctx := cmdCtx q
    let x := ctxAt s ctx
    if x.st = .retired then endCmd s n q 0x21 0 0
    else if x.st = .migrating || (leavesOf s ctx).any fun l => fld l.2.2.2 16 12 == keySlot q then endCmd s n q 0x22 0 0
    else endCmd (setCtx s ctx { x with keys := fdel x.keys (keySlot q) }) n q 0 0 0) s)

/-- SHOOT: no lookaside array keeps an entry of the range, and dirty sectors of the old frames go to them: every L1 sector is
written back and fetched again (R380). -/
def execShoot (s : State) : Host.Outcome State Fault Refusal :=
  .next (mgmtCmd 0x46 0x3FF00 (fun s n q =>
    let ctx := cmdCtx q
    if (ctxAt s ctx).st = .retired then endCmd s n q 0x21 0 0
    else
      let stays := fun (l : Look) => !(l.ctx == ctx && decide (q.w1.toNat ≤ l.page) && decide (l.page < q.w1.toNat + q.w2.toNat))
      let s := s.cores.foldl (fun s nc => evictAll (fun _ => true) nc.1 s) s
      endCmd { s with cores := s.cores.map (fun nc => (nc.1, { nc.2 with look := nc.2.look.filter stays })),
                      looks := s.looks.map fun a => (a.1, a.2.filter stays) } n q 0 0 0) s)

/-- The bytes of the configuration image that runs, as module flash holds them. -/
def activeBytes (s : State) : List Byte := if s.boot.active = 0 then s.boot.bytes0 else s.boot.bytes1

/-- ATTEST (R474). -/
def execAttest (s : State) : Host.Outcome State Fault Refusal :=
  .next (mgmtCmd 0x47 0 (fun s n q =>
    let a := packetAddr q
    let r := devBytes s a 48 ++ (sha384 (activeBytes s)).take 48 ++ (sha384 Config.romImage).take 48
      ++ (sha384 (tableImage s)).take 48 ++ leBytes 4 0x0200 ++ leBytes 2 s.device ++ leBytes 2 0
      ++ Config.devicePub ++ leBytes 7 0
    endCmd (strongPuts s (a + 64) (r ++ leBytes 96 (Config.attestSig r).toNat)) n q 0 0 0) s)

/-- CFGLOAD: an image that passes its checks goes to the inactive slot (R475). -/
def execCfgload (s : State) : Host.Outcome State Fault Refusal :=
  .next (mgmtCmd 0x48 0 (fun s n q =>
    let a := packetAddr q
    let len := devNat s (a + 8) 8
    let role := devNat s (a + 18) 1
    if devNat s a 4 ≠ 0x47464357 || 2 ≤ role || devNat s (a + 19) 45 ≠ 0 || len < 160 || 2 ^ 25 < len then endCmd s n q 0x28 0 0
    else
      let bs := devBytes s a len
      let v := devNat s (a + 4) 4
      if !Config.signed bs then endCmd s n q 0x38 0 0
      else if v < s.boot.minver then endCmd s n q 0x39 0 0
      else
        let img := { Config.imageOf bs with version := v, device := devNat s (a + 16) 2, bridge := role == 1, valid := true }
        endCmd { s with boot := (if s.boot.active = 0 then { s.boot with slot1 := some img, bytes1 := bs } else { s.boot with slot0 := some img, bytes0 := bs }) } n q 0 0 0) s)

/-! ### Boot (R475, R476) -/

/-- An image verifies (R475, R476 stage 1). -/
def verifies (minver : Nat) (o : Option CfgImage) : Option CfgImage := o.filter fun i => i.valid && decide (minver ≤ i.version)

/-- The slot to boot from, with its image: the higher VERSION that verifies, else the other (R475). -/
def bootSlot (b : Boot) : Option (Nat × CfgImage) :=
  match verifies b.minver b.slot0, verifies b.minver b.slot1 with
  | some x, some y => if x.version < y.version then some (1, y) else some (0, x)
  | some x, none => some (0, x)
  | none, some y => some (1, y)
  | none, none => none

/-- An image names a firmware core of each die and 128 other cores as its program cores (R11). -/
def numbered (img : CfgImage) : Bool :=
  img.firmware.length == 4 && img.cores.length == 4
    && (img.cores.zip img.firmware).all fun x => x.1.length == 128 && decide x.1.Nodup && !x.1.contains x.2

/-- The row list and the counts of a vault are as R384 and R385 have them: the 8,704 rows by LOW, highest first and retired ones
last, M(v, p) between G(p) and 8,704, and a row that holds at p in every place below it. -/
def rowsGood (counts : List Nat) (l : List (Nat × Nat)) : Bool :=
  let key := fun (r : Nat × Nat) => if r.2 = 15 then 0 else r.2 + 1
  l.length == 8704 && counts.length == 6 && l.all (fun r => decide (r.1 < 8704) && (decide (r.2 ≤ 5) || r.2 == 15))
    && decide (l.map fun r => r.1).Nodup && ((l.zip (l.drop 1)).all fun x => decide (key x.2 ≤ key x.1))
    && counts.zipIdx.all fun m => decide (Config.guaranteed m.2 ≤ m.1) && decide (m.1 ≤ 8704)
        && (l.take m.1).all fun r => decide (m.2 ≤ r.2) && r.2 != 15

/-- The stage at which the firmware finds an image's numbering or row maps amiss, if any (R476). -/
def imageStop (img : CfgImage) : Option Nat :=
  if !numbered img then some 2
  else if (List.range 128).all fun v => rowsGood ((img.counts[v]?).getD []) ((img.rows[v]?).getD []) then none
  else some 4

/-- The physical cores by their numbers: program cores 0-511, firmware cores at 512 + die (R11). -/
def physCores (img : CfgImage) : File Nat :=
  ((img.cores.flatMap fun l => l).zipIdx.map fun x => (x.2, x.1)) ++ img.firmware.zipIdx.map fun x => (512 + x.2, x.1)

/-- What an image gives the device at stages 2 to 7, and a fresh firmware key (R473, R475, R476). -/
def bootWith (s : State) (slot : Nat) (img : CfgImage) : State :=
  let bad := !s.boot.flashTable.isEmpty && (tableBad s.boot.flashTable || !tableSigned s.boot.flashTable)
  { s with
    device := img.device, bridge := img.bridge, phys := physCores img
    counts := (List.range 128).map fun v => (v, (img.counts[v]?).getD [])
    rows := (List.range 128).map fun v => (v, ((img.rows[v]?).getD []).map fun r => { prow := r.1, low := r.2 })
    table := if s.boot.flashTable.isEmpty || bad then emptyTable else s.boot.flashTable
    ports := (List.range 24).filterMap fun n => match img.peers[n]? with
      | some d => if d = 0xFFFF || (img.bridge && 22 ≤ n) then none else some (n, { st := .training, peer := d })
      | none => none
    routes := img.routes.foldl (fun f r => fput f r.1 r.2) []
    free := s.free + 1
    boot := { s.boot with stage := 7, tblRej := bad, active := slot, key := Config.free s.free, lastErr := s.boot.keptErr
                          minver := max s.boot.minver img.version } }

/-- The stage at which a boot stops: the first at which the image is amiss or the hardware fails, by the free value `f` (R476). -/
def bootStop (f : Nat) (img : CfgImage) : Option Nat :=
  match imageStop img, (if 2 ≤ f % 8 && f % 8 ≤ 4 then some (f % 8) else none) with
  | some i, some k => some (min i k)
  | some i, none => some i
  | none, k => k

/-- The device boots; `r` are the inputs that remain. Flash keeps what it held. Stages 2 to 4 may fail, by a free value; a boot that
has passed stage 3 has a fresh firmware key (R473, R476). -/
def bootFrom (r : List Input) (s : State) : State :=
  let (f, s) := freeVal s
  let stop := fun (k : Nat) => { s.boot with stage := k, keptErr := k, tblRej := false, lastErr := s.boot.lastErr
                                             key := if 3 < k then Config.free s.free else s.boot.key }
  let z := { State.reset with inputs := r, agenda := s.agenda, free := s.free, lostDevs := s.lostDevs }
  match bootSlot s.boot with
  | none => { z with boot := stop 1 }
  | some (slot, img) =>
    match bootStop f img with
    | some k => { z with boot := stop k, free := z.free + 1 }
    | none => bootWith { z with boot := s.boot } slot img

/-- BOOT: reset, which the outside may ask for again, boots the device through its stages (R476). -/
def execBoot (s : State) : Host.Outcome State Fault Refusal :=
  match s.inputs with
  | .boot :: r => .next (bootFrom r s)
  | _ => .next (if s.boot.stage = 0 then bootFrom s.inputs s else s)

end Sys2Proof.Machine
end

