-- ==== Sys2Proof/Machine/Schedule.lean ====
section
/-! DEFINITION. Who acts next: the word that a cluster fetches, its turn to issue, the Y = 1 rendezvous, what a cycle of
time does, and the turns of the next cycle (spec/03_model.md R54, R73, spec/01_device.md R14-R16; notes/assumptions/1.md,
18.md). `ex` stands for the meaning of an instruction. -/

namespace Sys2Proof.Machine

/-! ### Placing a word -/

/-- Places a word as the whole stream of cluster `cl` of core 0, the only active one, with its translation, and gives that
cluster the next turn (notes/assumptions/2.md). -/
def placeWord (s : State) (cl : Nat) (w : Word) : State :=
  let c := coreAt s 0
  let k := cluAt c cl
  let off := c.clu.map fun x => (x.1, { x.2 with active := false })
  let c1 := { c with busy := true, level := 0, treq := [],
                     clu := fput off cl { k with active := true, base := k.pc, words := 1, closing := false, rvDone := false } }
  { setCoreAt s 0 c1 with
    xlates := { ctx := c.task.ctx, die := 0, base := k.pc, st := .valid, words := [.word w], users := [0] } :: s.xlates
    agenda := .issue 0 cl :: s.agenda }

/-! ### Issue and rendezvous (R73) -/

/-- The meaning of one instruction as the step gives it. -/
abbrev Exec := Instr → State → Host.Outcome State Fault Refusal

/-- Goes on after an outcome that is a next state. -/
def andThen (o : Host.Outcome State Fault Refusal) (f : State → Host.Outcome State Fault Refusal) :
    Host.Outcome State Fault Refusal :=
  match o with
  | .next s => f s
  | .fault r => .fault r
  | .refused r => .refused r

/-- Cluster `i` of the core whose turn it is stands at a Y = 1 word that it has not issued. -/
def atY (s : State) (i : Nat) : Bool :=
  let k := cluAt (core s) i
  !k.closing && !k.rvDone && wordY (nextInstr s s.cur i).1.toNat

/-- The clusters of the core that are active. -/
def activeClus (c : Core) : List Nat := (List.range 4).filter fun i => (cluAt c i).active

/-- The word of cluster `i`, at its turn. -/
def atWord (s : State) (i : Nat) : State := { s with cl := i, word := (nextInstr s s.cur i).1 }

/-- What a word of a rendezvous would wait for: it is tried on the state before the cycle (R73). -/
def probe (ex : Exec) (s : State) (i : Nat) : State × Wait :=
  match ex (nextInstr s s.cur i).2 { atWord s i with view := some { was := core s } } with
  | .next t => (t, (cluAt (coreAt t s.cur) i).wait)
  | _ => (s, .none)

/-- A group of words with a GYLD, which saves every cluster past its word (R362). -/
def yields (s : State) (cs : List Nat) : Bool :=
  cs.any fun i => match (nextInstr s s.cur i).2 with | .gyld _ => true | _ => false

/-- The wait that holds a Y = 1 word back, if any (R73). -/
def heldBy (all : Bool) (w : Wait) : Wait :=
  match w with
  | .pop q => .pop q
  | .push q => .push q
  | .hs h => .hs h
  | .outq t => .outq t
  | .score => .score
  | w => if all then w else .none

/-- The word of cluster `i` is free to issue: no scoreboard, queue, outcome-queue or handshake wait holds it, and in a group with a
GYLD no wait at all (R73). The waits of the other kinds are the word's own, after the rendezvous: the choice is the model's, and so
is that a QDROP waits for its marker before it pops anything (notes/assumptions/46.md). -/
def freeToIssue (ex : Exec) (all : Bool) (s : State) (i : Nat) : Bool := heldBy all (probe ex s i).2 == .none

/-- The page walks that words of a group with a GYLD wait for begin (R362, R379). -/
def beginWalks (ex : Exec) (cs : List Nat) (s : State) : State :=
  cs.foldl (fun s i => let x := probe ex s i; if x.2 = .walk then { s with walks := x.1.walks } else s) s

/-- Cluster `i` has come to its word before this turn, and issued nothing else in this cycle (R73). -/
def standsAt (s : State) (i : Nat) : Bool :=
  let w := (cluAt (core s) i).wait
  i == s.cl || w == .rv || w == .score

/-- Every cluster of a rendezvous comes after the stores that one of them came after, and after A's queue loads (R73, R407). -/
def learnAll (cs : List Nat) (c : Core) : Core :=
  cs.foldl (fun d i => learn i (cs.foldl (fun n i => max n (knows c i)) 0) d) { c with late := [] }

/-- The turns of the present cycle in which core `n` issues nothing more. -/
def spentTurns (n : Nat) : List Turn → List Turn
  | [] => []
  | .clock :: r => .clock :: r
  | .issue m cl :: r => if m = n then spentTurns n r else .issue m cl :: spentTurns n r
  | .event a i :: r => .event a i :: spentTurns n r

/-- Issues the words of the clusters `l` in one cycle, each on the state before it as `view` gives it. -/
def issueAll (ex : Exec) (before : State) : List Nat → State → Host.Outcome State Fault Refusal
  | [], s => .next s
  | i :: r, s =>
    if (core s).busy then
      andThen (ex (nextInstr before before.cur i).2 { s with cl := i, word := (nextInstr before before.cur i).1 }) (issueAll ex before r)
    else .next s

/-- A Y = 1 word waits until every active cluster stands at one that is free to issue; then all of them issue (R73). A
trap of the group is taken after it. Their memory accesses happen in the order of the clusters (notes/assumptions/46.md). -/
def rendezvous (ex : Exec) (s : State) : Host.Outcome State Fault Refusal :=
  let cs := activeClus (core s)
  let all := yields s cs
  if cs.all (atY s) && cs.all (standsAt s) && cs.all (freeToIssue ex all s) then
    let s1 := onCore (fun c => learnAll cs (cs.foldl (fun c i => putClu c i { cluAt c i with rvDone := true }) c))
      { s with view := some { was := core s }, agenda := spentTurns s.cur s.agenda, groupAt := fput s.groupAt s.cur (core s) }
    andThen (issueAll ex s cs s1) fun t => .next (takeTrap { t with view := none })
  else
    let t := if all then beginWalks ex cs s else s
    let w := (probe ex s s.cl).2
    .next (if w = .score then waitOn .score t else onClu (fun k => { k with wait := .rv, inner := heldBy all w, need := (cluAt (coreAt (probe ex s s.cl).1 s.cur) s.cl).need }) t)

/-- A GYLD of the rendezvous of core `n` has still to act: the clusters whose words of it have issued stand at the next word until it
has, for it saves them there (R73, R362). -/
def yieldDue (s : State) (n cl : Nat) : Bool :=
  let c := coreAt s n
  cl != clC && c.level == 0 && (cluAt c clC).rvDone && !(cluAt c cl).rvDone
    && (match (nextInstr s n clC).2 with | .gyld _ => true | _ => false)

/-- What the words of core `n` act on that wait on after their rendezvous: the core as it stood before its cycle (R73), or, once a handler has
run, as it stands (R437). -/
def groupView (s : State) (n : Nat) : Option View := if fhas s.groupAt n then some { was := fget {} s.groupAt n } else none

/-- The turn of cluster `cl` of core `n`: nothing where it is not active or stands still in a handler; a trap that was
raised is taken first, then closing branches, then the next word (R54, R124, R429, R431). A word of a rendezvous that waits on after it
acts on the core as `groupView` gives it. -/
def issueTurn (ex : Exec) (n cl : Nat) (s : State) : Host.Outcome State Fault Refusal :=
  let s := { s with cur := n, cl := cl }
  let c := coreAt s n
  let k := cluAt c cl
  if !c.busy || !k.active || (c.level != 0 && cl != clC) || yieldDue s n cl then .next s
  else if !c.treq.isEmpty then ex .trapTaken s
  else if k.closing then ex .closingBranch s
  else
    let x := nextInstr s n cl
    if wordY x.1.toNat && c.level == 0 then
      if k.rvDone then andThen (ex x.2 { s with word := x.1, view := groupView s n }) fun t => .next (takeTrap { t with view := none })
      else rendezvous ex s
    else ex x.2 { s with word := x.1 }

/-! ### Time (R143, R335, R358, R454, R468) -/

/-- A wait of an active cluster that counts has ended (R335). -/
def waitEnded (c : Core) : Bool := (List.range 4).any fun i => (cluAt c i).active && waitOver c (cluAt c i)

/-- What a cycle adds to a core: the deadlock count, which an ended wait starts again, and its energy. -/
def tickCore (s : State) (nc : Nat × Core) : Nat × Core :=
  (nc.1, { nc.2 with qdead := if deadCount nc.2 then min (2 ^ 20) (nc.2.qdead + 1) else if waitEnded nc.2 then 0 else nc.2.qdead,
                     energy := if nc.2.busy then nc.2.energy + Config.free (s.free + 2 + nc.1) else nc.2.energy })

/-- The energy that the tiles of the selected cores spend in this cycle. -/
def tileEnergy (s : State) (p : Core → Bool) : Nat :=
  s.cores.foldl (fun n nc => if nc.2.busy && p nc.2 then n + Config.free (s.free + 2 + nc.1) else n) 0

/-- The engine commands that queues and collectives hold. -/
def heldCmds (s : State) : List EngCmd :=
  (s.blocks.flatMap fun b => b.2.cmds.filterMap fun c => match c with | .cmd e => some e | .taken e => some e | .raw _ => none)
    ++ s.joined.filterMap fun j => j.cmd

/-- A command that a tile of the node issued. -/
def ofRun (r : NodeRun) (e : EngCmd) : Bool := e.org != .block && e.ctx == r.ctx && e.run == r.id

/-- The energy of the commands that the tiles of the run at place `i` issued, and of their traffic, in this cycle. -/
def runEnergy (s : State) (r : NodeRun) (i : Nat) : Nat :=
  if (heldCmds s).any (ofRun r) then Config.free (s.free + 3000 + i) else 0

/-- The energy in this cycle of a context's other commands: memory-mapped ones, and those of nodes that are over. -/
def ctxEnergy (s : State) (ctx : Nat) : Nat :=
  if ((heldCmds s).any fun e => e.ctx == ctx && !s.runs.any fun r => ofRun r e)
      || s.blocks.any fun b => decide (b.1 < 132) && b.2.ov && b.2.owner == ctx && b.2.cmds.any fun c => match c with | .raw _ => true | _ => false
  then Config.free (s.free + 1000 + ctx) else 0

/-- The energy of a context's commands and their traffic in this cycle. -/
def cmdEnergy (s : State) (ctx : Nat) : Nat :=
  s.runs.zipIdx.foldl (fun n r => if r.1.ctx = ctx then n + runEnergy s r.1 r.2 else n) (ctxEnergy s ctx)

/-- `dt` nanoseconds pass for a group whose deadline runs: LEFT falls, in the record too, and its expiry is the next thing that
happens once it is 0 (R353, R358). -/
def tickGroup (dt : Nat) (s : State) (uid : Nat) : State :=
  match groupOf s uid with
  | none => s
  | some g => match g.left with
    | none => s
    | some l => putGroup { s with agenda := if l ≤ dt then .event uid .groupDeadlineExpiry :: s.agenda else s.agenda } { g with left := some (l - dt) }

/-- `dt` nanoseconds pass for the groups that are Forked or Collecting (R358). -/
def tickGroups (dt : Nat) (s : State) : State :=
  (s.groups.filter fun g => (g.st == 1 || g.st == 2) && g.left != some 0).foldl (fun s g => tickGroup dt s g.uid) s

/-- The scoring of a Closed group ends at a moment of the device's choice (R357, R359). -/
def scoreGroups (s : State) : State :=
  (s.groups.filter fun g => g.st == 3).foldl (fun s g =>
    let (f, s) := freeVal s
    if f % 2 = 0 then s else releaseGroup (putGroup s (score g)) g.uid) s

/-- Sectors of the L1s and of the L2 and entries of the lookaside arrays may leave at any time, written back first (R369, R377, R405,
R409; notes/assumptions/7.md). -/
def spillCaches (s : State) : State :=
  let out := fun (cache : Nat) (k : Nat) => Config.spill s.free cache k
  let s1 := s.cores.foldl (fun s nc => evictAll (fun x => out nc.1 x.key % 4 == 2) nc.1 (writeBack (fun x => out nc.1 x.key % 4 == 1) nc.1 s)) s
  let s2 := ((s1.l2.map fun x => x.1 / 64).eraseDups.filter fun k => out 1000 k % 2 == 1).foldl (fun s k => l2Clean s (64 * k) 64) s1
  { s2 with
    free := s2.free + 1
    cores := s2.cores.map fun nc => (nc.1, { nc.2 with look := nc.2.look.filter fun e => out (2000 + nc.1) e.page % 2 == 0 })
    looks := s2.looks.map fun a => (a.1, a.2.filter fun e => out (3000 + a.1) e.page % 2 == 0) }

/-- One cycle of time: a free number of nanoseconds passes, energy is spent in free amounts, deadlines run, waits count, and caches
may give up what they hold (notes/assumptions/18.md, 19.md). The counter of a context whose target has been told to commit stands: it has
gone there with the record (R294, R468). -/
def clockTurn (s : State) : State :=
  let dt := Config.free s.free
  let spent := Config.free (s.free + 1) + tileEnergy s (fun _ => true) + s.ctxs.foldl (fun n x => n + cmdEnergy s x.1) 0
  let t := { s with
    free := s.free + 3000 + s.runs.length, cycle := s.cycle + 1, ns := s.ns + dt
    cores := s.cores.map (tickCore s)
    ctxs := s.ctxs.map fun x => (x.1, if x.2.going then x.2 else { x.2 with energy := x.2.energy + tileEnergy s (fun c => c.task.ctx == x.1) + cmdEnergy s x.1 })
    runs := s.runs.zipIdx.map fun r => { r.1 with energy := r.1.energy + tileEnergy s (fun c => c.task.run == r.1.id) + runEnergy s r.1 r.2 }
    power := { s.power with energy := s.power.energy + spent, account := s.power.account - (spent : Int) }
    ports := s.ports.map fun p => (p.1, if p.2.st = .training || p.2.st = .retraining || p.2.st = .failed then { p.2 with waited := p.2.waited + dt } else p.2) }
  scoreGroups (tickGroups dt (spillCaches (linkTurn (markWaiters t))))

/-! ### The turns that may come next -/

/-- An event at a place, when it is due. -/
def due (b : Bool) (n : Nat) (i : Instr) : List Turn := if b then [.event n i] else []

/-- The turns of a core. -/
def coreTurns (s : State) (n : Nat) (c : Core) : List Turn :=
  (if c.busy then (activeClus c).map fun i => .issue n i else [])
    ++ ((List.range 4).flatMap fun i => due (pendingOf s n i != 0) (4 * n + i) .scoreboardedResult)
    ++ (c.q.flatMap fun q => due (q.2.ents.any fun e => match e with | .hole (some _) => true | _ => false) (16 * n + q.1) .queueLoadLands)
    ++ due (!c.treq.isEmpty) n .trapTaken ++ due (deadCount c && decide (2 ^ 20 ≤ c.qdead)) n .qdead
    ++ due (match c.sleep with | some t => decide (t ≤ s.cycle) | none => false) n .sleepExpiry ++ due c.sysc.isSome n .syscReply
    ++ due (c.busy && c.kctl.getLsbD 4 && decide (c.sampleAt ≤ s.cycle)) n .pcSample
    ++ due (!c.mma.isEmpty) n .mmaCompletion ++ due (!c.win.isEmpty) n .windowReplay

/-- The host command of a code. -/
def hostEvent (code : Nat) : Instr :=
  match code with
  | 0x10 => .cdefine | 0x11 => .cload | 0x12 => .chot | 0x13 => .cpark | 0x14 => .cmigrate | 0x15 => .csuspend
  | 0x16 => .cresume | 0x17 => .cretire | 0x18 => .crestore | 0x19 => .cquery | 0x20 => .olink | 0x21 => .subload
  | 0x40 => .opset | 0x41 => .pbudget | 0x42 => .pgrant | 0x43 => .mread | 0x44 => .keyset | 0x45 => .keyclr
  | 0x46 => .shoot | 0x47 => .attest | 0x48 => .cfgload | 0x49 => .portctl
  | _ => .hostNop

/-- The event that takes the next entry of a block's queue. -/
def headEvent (n : Nat) (c : QCmd) : Instr :=
  match c with
  | .raw p =>
    if n < 128 then (match fld p.w2.toNat 18 16 with
      | 0 => .engineCpy | 1 => .engineCpyt | 2 => .engineCpyd | 3 => .engineWmcpy | 4 => .engineLdg | 5 => .engineSts
      | _ => .engineCompletion)
    else if n < 132 then (match fld p.w2.toNat 17 16 with | 0 => .dieColl | 1 => .dieCollSt | 2 => .dieUpd | _ => .dieMsrch)
    else if n < 1156 then (match p.w0.toNat % 256 with | 1 => .nrun | 2 => .grun | 3 => .gset | _ => .contextNop)
    else hostEvent (p.w0.toNat % 256)
  | .cmd e => if n < 128 then .engineCompletion else match e.op with
    | .upd => .updCompletion
    | .msrch => .msrchCompletion
    | _ => .collectiveCompletion
  | .taken e => if n < 128 then .engineCompletion else if e.op = .upd then .updCompletion else .collectiveCompletion

/-- The turns of a block: its held go, its next command, and what its engine has accepted. -/
def blockTurns (s : State) (x : Nat × Block) : List Turn :=
  let at_ := if 132 ≤ x.1 && x.1 < 1156 then x.1 - 132 else x.1
  due (x.2.held) x.1 .heldGo
    ++ (match nextFor s x.1 (fun _ => true) with | some c => [.event at_ (headEvent x.1 c)] | none => [])
    ++ (match x.2.cmds.find? fun c => (match c with | .taken _ => true | _ => false) with
        | some c => [.event x.1 (headEvent x.1 c)]
        | none => [])

/-- The turns of a context. -/
def ctxTurns (s : State) (x : Nat × Context) : List Turn :=
  due x.2.run.isSome x.1 .nodeLaunch ++ due x.2.run.isSome x.1 .nodeBoundaryPreemption
    ++ due x.2.waitFrom.isSome x.1 .waiterReserving ++ due (x.2.st == .hot || x.2.pending == 4 || (x.2.st == .suspended && placedExts x.2)) x.1 .stepBoundary
    ++ due (s.images.any fun i => i.ctx == x.1) x.1 .stepMirrorComplete
    ++ due (x.2.st == .migrating) x.1 .pontilCommit ++ due (x.2.st == .migrating) x.1 .pontilFailure
    ++ due (!x.2.exts.isEmpty) x.1 .vaultEvacuation

/-- The event that takes the input at the head. -/
def inputEvent : Input → Instr
  | .regWrite _ off _ _ => if off % 64 / 4 = 7 then .evClear else if off % 64 / 4 = 12 then .cplack else .registerWrite
  | .bridge .. => .hostBridgeAccess
  | .flit .. => .flitReceived
  | .message m => match m.body with | .token _ => .tokenGrant | .clock _ => .clockProposal | _ => .messageReceived
  | .laneLoss .. => .laneLoss
  | .trained .. => .lanesTrained
  | .soft _ (.acc _) => .windowReplay
  | .soft .. => .softError
  | .row .. => .rowFailure
  | .deviceLost _ => .deviceLost
  | .boot => .boot
  | .trip _ m => if m then .windowReplay else .timingTrip

/-- Every turn that may come in the next cycle, time apart. -/
def turns (s : State) : List Turn :=
  (match s.inputs with | i :: _ => [.event 0 (inputEvent i)] | [] => []) ++ due (s.boot.stage == 0) 0 .boot
    ++ (s.cores.flatMap fun x => coreTurns s x.1 x.2) ++ (s.blocks.flatMap (blockTurns s)) ++ (s.ctxs.flatMap (ctxTurns s))
    ++ (s.runs.flatMap fun r => [.event r.id .tileDispatch] ++ due r.gang.isSome r.id .gangStart)
    ++ (s.groups.flatMap fun g => due (g.left == some 0) g.uid .groupDeadlineExpiry ++ due (g.st == 7) g.uid .groupResume)
    ++ ((List.range s.walks.length).map fun i => .event i .pageWalk)
    ++ ((List.range s.xlates.length).flatMap fun i => [.event i .translationBuildEnd, .event i .translationEviction])
    ++ due (!s.joined.isEmpty) 128 .collectiveCompletion ++ due s.tableBusy.isSome 0 .substitutionInstall
    ++ due (decide (s.epochAt + 10000000 ≤ s.ns)) 0 .epochStart ++ due s.power.pend 0 .operatingPointStep
    ++ due (decide (1024 * (s.interval + 1) ≤ s.cycle)) 0 .budgetInterval
    ++ (s.ports.flatMap fun p => due (p.2.st == .training || p.2.st == .retraining) p.1 .trainingTimeout ++ due (p.2.st == .failed) p.1 .firmwareRetry)
    ++ ((List.range s.sent.length).flatMap fun i => [.event i .messageUndeliverable, .event i .endToEndResend])

/-- Some of the turns, in an order of the device's choice, and then a cycle of time (R14-R16, R23). -/
def newAgenda (s : State) : State :=
  let s := { s with inputs := readyFirst s s.inputs }
  let l := turns s
  let l1 := (l.zipIdx.filter fun x => Config.free (s.free + 1 + x.2) % 2 == 1).map fun x => x.1
  let k := Config.free s.free % (l1.length + 1)
  { s with free := s.free + l.length + 1, agenda := l1.drop k ++ l1.take k ++ [.clock] }

/-- One turn: the head of the agenda acts; an empty agenda is filled. -/
def turn (ex : Exec) (s : State) : Host.Outcome State Fault Refusal :=
  match s.agenda with
  | [] => .next (newAgenda s)
  | .clock :: r => .next (clockTurn { s with agenda := r })
  | .event n i :: r => ex i { s with agenda := r, cur := n }
  | .issue n cl :: r => issueTurn ex n cl { s with agenda := r }

end Sys2Proof.Machine
end

