-- ==== Sys2Proof/Machine/Dispatch.lean ====
section
/-! DEFINITION. Each instruction and each event step of spec/opcode_table.json has its meaning. -/

namespace Sys2Proof.Machine

/-- The meaning of an instruction. -/
def exec (i : Instr) (s : State) : Host.Outcome State Fault Refusal :=
  match i with
  | .nop => Sys2Proof.Machine.execNop s
  | .add d a b => Sys2Proof.Machine.execAdd d a b s
  | .sub d a b => Sys2Proof.Machine.execSub d a b s
  | .and d a b => Sys2Proof.Machine.execAnd d a b s
  | .or d a b => Sys2Proof.Machine.execOr d a b s
  | .xor d a b => Sys2Proof.Machine.execXor d a b s
  | .andn d a b => Sys2Proof.Machine.execAndn d a b s
  | .shl d a b => Sys2Proof.Machine.execShl d a b s
  | .shr d a b => Sys2Proof.Machine.execShr d a b s
  | .sar d a b => Sys2Proof.Machine.execSar d a b s
  | .rol d a b => Sys2Proof.Machine.execRol d a b s
  | .min d a b => Sys2Proof.Machine.execMin d a b s
  | .max d a b => Sys2Proof.Machine.execMax d a b s
  | .minu d a b => Sys2Proof.Machine.execMinu d a b s
  | .maxu d a b => Sys2Proof.Machine.execMaxu d a b s
  | .seq d a b => Sys2Proof.Machine.execSeq d a b s
  | .slt d a b => Sys2Proof.Machine.execSlt d a b s
  | .sltu d a b => Sys2Proof.Machine.execSltu d a b s
  | .clz d a => Sys2Proof.Machine.execClz d a s
  | .popc d a => Sys2Proof.Machine.execPopc d a s
  | .sel d a b => Sys2Proof.Machine.execSel d a b s
  | .mul d a b => Sys2Proof.Machine.execMul d a b s
  | .mulh d a b => Sys2Proof.Machine.execMulh d a b s
  | .mulhu d a b => Sys2Proof.Machine.execMulhu d a b s
  | .div d a b => Sys2Proof.Machine.execDiv d a b s
  | .divu d a b => Sys2Proof.Machine.execDivu d a b s
  | .rem d a b => Sys2Proof.Machine.execRem d a b s
  | .remu d a b => Sys2Proof.Machine.execRemu d a b s
  | .addi d a imm => Sys2Proof.Machine.execAddi d a imm s
  | .andi d a imm => Sys2Proof.Machine.execAndi d a imm s
  | .ori d a imm => Sys2Proof.Machine.execOri d a imm s
  | .xori d a imm => Sys2Proof.Machine.execXori d a imm s
  | .shli d a imm => Sys2Proof.Machine.execShli d a imm s
  | .shri d a imm => Sys2Proof.Machine.execShri d a imm s
  | .sari d a imm => Sys2Proof.Machine.execSari d a imm s
  | .slti d a imm => Sys2Proof.Machine.execSlti d a imm s
  | .sltiu d a imm => Sys2Proof.Machine.execSltiu d a imm s
  | .lui d imm => Sys2Proof.Machine.execLui d imm s
  | .aget d a hi => Sys2Proof.Machine.execAget d a hi s
  | .aadd ad aa sb sh => Sys2Proof.Machine.execAadd ad aa sb sh s
  | .aaddi ad aa imm => Sys2Proof.Machine.execAaddi ad aa imm s
  | .aset ad aa sb => Sys2Proof.Machine.execAset ad aa sb s
  | .alui ad aa imm => Sys2Proof.Machine.execAlui ad aa imm s
  | .asub ad aa sb sh => Sys2Proof.Machine.execAsub ad aa sb sh s
  | .beq a b off => Sys2Proof.Machine.execBeq a b off s
  | .bne a b off => Sys2Proof.Machine.execBne a b off s
  | .blt a b off => Sys2Proof.Machine.execBlt a b off s
  | .bge a b off => Sys2Proof.Machine.execBge a b off s
  | .bltu a b off => Sys2Proof.Machine.execBltu a b off s
  | .bgeu a b off => Sys2Proof.Machine.execBgeu a b off s
  | .jmp off => Sys2Proof.Machine.execJmp off s
  | .call off => Sys2Proof.Machine.execCall off s
  | .jr a imm => Sys2Proof.Machine.execJr a imm s
  | .loop lvl src len rot => Sys2Proof.Machine.execLoop lvl src len rot s
  | .loopImm lvl n len rot => Sys2Proof.Machine.execLoopImm lvl n len rot s
  | .loopq lvl q len rot => Sys2Proof.Machine.execLoopq lvl q len rot s
  | .lbrk lvl a => Sys2Proof.Machine.execLbrk lvl a s
  | .lrot imm => Sys2Proof.Machine.execLrot imm s
  | .bqpush tgt a => Sys2Proof.Machine.execBqpush tgt a s
  | .bqbr off => Sys2Proof.Machine.execBqbr off s
  | .qput q a => Sys2Proof.Machine.execQput q a s
  | .qget d q => Sys2Proof.Machine.execQget d q s
  | .qdrop q => Sys2Proof.Machine.execQdrop q s
  | .qmark q => Sys2Proof.Machine.execQmark q s
  | .qstat d q item => Sys2Proof.Machine.execQstat d q item s
  | .hsig h => Sys2Proof.Machine.execHsig h s
  | .hwait h => Sys2Proof.Machine.execHwait h s
  | .htry d h => Sys2Proof.Machine.execHtry d h s
  | .sread d r => Sys2Proof.Machine.execSread d r s
  | .swrite a r => Sys2Proof.Machine.execSwrite a r s
  | .fence sc l ss c => Sys2Proof.Machine.execFence sc l ss c s
  | .tick d hi => Sys2Proof.Machine.execTick d hi s
  | .trap imm => Sys2Proof.Machine.execTrap imm s
  | .brk imm => Sys2Proof.Machine.execBrk imm s
  | .ld t a off ch mu sp => Sys2Proof.Machine.execLd t a off ch mu sp s
  | .lds t a off ch mu sp => Sys2Proof.Machine.execLds t a off ch mu sp s
  | .lda t a off ch mu sp => Sys2Proof.Machine.execLda t a off ch mu sp s
  | .ldx t a off ch mu sp => Sys2Proof.Machine.execLdx t a off ch mu sp s
  | .st t a off ch mu sp => Sys2Proof.Machine.execSt t a off ch mu sp s
  | .stl t a off ch mu sp => Sys2Proof.Machine.execStl t a off ch mu sp s
  | .ldq t a off ch mu sp => Sys2Proof.Machine.execLdq t a off ch mu sp s
  | .ldqs t a off ch mu sp => Sys2Proof.Machine.execLdqs t a off ch mu sp s
  | .stq t a off ch mu sp => Sys2Proof.Machine.execStq t a off ch mu sp s
  | .ldt t a off ch mu sp => Sys2Proof.Machine.execLdt t a off ch mu sp s
  | .stt t a off ch mu sp => Sys2Proof.Machine.execStt t a off ch mu sp s
  | .ldg tok ad src n ab sd ss => Sys2Proof.Machine.execLdg tok ad src n ab sd ss s
  | .sts tok ad src n ab sd ss => Sys2Proof.Machine.execSts tok ad src n ab sd ss s
  | .atadd d a b sc mu sp => Sys2Proof.Machine.execAtadd d a b sc mu sp s
  | .atmin d a b sc mu sp => Sys2Proof.Machine.execAtmin d a b sc mu sp s
  | .atmax d a b sc mu sp => Sys2Proof.Machine.execAtmax d a b sc mu sp s
  | .atminu d a b sc mu sp => Sys2Proof.Machine.execAtminu d a b sc mu sp s
  | .atmaxu d a b sc mu sp => Sys2Proof.Machine.execAtmaxu d a b sc mu sp s
  | .atand d a b sc mu sp => Sys2Proof.Machine.execAtand d a b sc mu sp s
  | .ator d a b sc mu sp => Sys2Proof.Machine.execAtor d a b sc mu sp s
  | .atxor d a b sc mu sp => Sys2Proof.Machine.execAtxor d a b sc mu sp s
  | .atswp d a b sc mu sp => Sys2Proof.Machine.execAtswp d a b sc mu sp s
  | .atcas d a b sc mu sp => Sys2Proof.Machine.execAtcas d a b sc mu sp s
  | .atfadd d a b sc mu sp => Sys2Proof.Machine.execAtfadd d a b sc mu sp s
  | .cpy tok ad src n ab sd ss => Sys2Proof.Machine.execCpy tok ad src n ab sd ss s
  | .cpyt tok ad src n ab sd ss => Sys2Proof.Machine.execCpyt tok ad src n ab sd ss s
  | .cpyd tok ad src n ab sd ss => Sys2Proof.Machine.execCpyd tok ad src n ab sd ss s
  | .wmcpy tok ad src n ab sd ss => Sys2Proof.Machine.execWmcpy tok ad src n ab sd ss s
  | .wmld t a off ch mu sp => Sys2Proof.Machine.execWmld t a off ch mu sp s
  | .wmadv d a axis => Sys2Proof.Machine.execWmadv d a axis s
  | .enq tok ad src ab sd ss => Sys2Proof.Machine.execEnq tok ad src ab sd ss s
  | .pref a off ch mu sp => Sys2Proof.Machine.execPref a off ch mu sp s
  | .clean a off ch mu sp => Sys2Proof.Machine.execClean a off ch mu sp s
  | .inval a off ch mu sp => Sys2Proof.Machine.execInval a off ch mu sp s
  | .chk a off => Sys2Proof.Machine.execChk a off s
  | .vpop vd q pg pn => Sys2Proof.Machine.execVpop vd q pg pn s
  | .vpsh q va pg pn => Sys2Proof.Machine.execVpsh q va pg pn s
  | .vmov vd va pg pn => Sys2Proof.Machine.execVmov vd va pg pn s
  | .vbcst vd sa pg pn => Sys2Proof.Machine.execVbcst vd sa pg pn s
  | .vidx vd pg pn => Sys2Proof.Machine.execVidx vd pg pn s
  | .vlane sd va sb => Sys2Proof.Machine.execVlane sd va sb s
  | .vadd vd va vb pg pn tp => Sys2Proof.Machine.execVadd vd va vb pg pn tp s
  | .vsub vd va vb pg pn tp => Sys2Proof.Machine.execVsub vd va vb pg pn tp s
  | .vmul vd va vb pg pn tp => Sys2Proof.Machine.execVmul vd va vb pg pn tp s
  | .vfma vd va vb pg pn tp => Sys2Proof.Machine.execVfma vd va vb pg pn tp s
  | .vfms vd va vb pg pn tp => Sys2Proof.Machine.execVfms vd va vb pg pn tp s
  | .vfnma vd va vb pg pn tp => Sys2Proof.Machine.execVfnma vd va vb pg pn tp s
  | .vmin vd va vb pg pn tp => Sys2Proof.Machine.execVmin vd va vb pg pn tp s
  | .vmax vd va vb pg pn tp => Sys2Proof.Machine.execVmax vd va vb pg pn tp s
  | .vabs vd va pg pn tp => Sys2Proof.Machine.execVabs vd va pg pn tp s
  | .vneg vd va pg pn tp => Sys2Proof.Machine.execVneg vd va pg pn tp s
  | .vrcp vd va pg pn tp => Sys2Proof.Machine.execVrcp vd va pg pn tp s
  | .vrsq vd va pg pn tp => Sys2Proof.Machine.execVrsq vd va pg pn tp s
  | .vsqrt vd va pg pn tp => Sys2Proof.Machine.execVsqrt vd va pg pn tp s
  | .vex2 vd va pg pn tp => Sys2Proof.Machine.execVex2 vd va pg pn tp s
  | .vlg2 vd va pg pn tp => Sys2Proof.Machine.execVlg2 vd va pg pn tp s
  | .vtanh vd va pg pn tp => Sys2Proof.Machine.execVtanh vd va pg pn tp s
  | .vflr vd va pg pn tp => Sys2Proof.Machine.execVflr vd va pg pn tp s
  | .vceil vd va pg pn tp => Sys2Proof.Machine.execVceil vd va pg pn tp s
  | .vdiv vd va vb pg pn tp => Sys2Proof.Machine.execVdiv vd va vb pg pn tp s
  | .vand vd va vb pg pn => Sys2Proof.Machine.execVand vd va vb pg pn s
  | .vor vd va vb pg pn => Sys2Proof.Machine.execVor vd va vb pg pn s
  | .vxor vd va vb pg pn => Sys2Proof.Machine.execVxor vd va vb pg pn s
  | .vshl vd va vb pg pn => Sys2Proof.Machine.execVshl vd va vb pg pn s
  | .vshr vd va vb pg pn => Sys2Proof.Machine.execVshr vd va vb pg pn s
  | .vsar vd va vb pg pn => Sys2Proof.Machine.execVsar vd va vb pg pn s
  | .vcmp pd va vb pg pn cond tp => Sys2Proof.Machine.execVcmp pd va vb pg pn cond tp s
  | .vsel vd va vb pg pn => Sys2Proof.Machine.execVsel vd va vb pg pn s
  | .vcommit vd va pg pn => Sys2Proof.Machine.execVcommit vd va pg pn s
  | .vchk pd va pg pn => Sys2Proof.Machine.execVchk pd va pg pn s
  | .pand pd pa pb => Sys2Proof.Machine.execPand pd pa pb s
  | .por pd pa pb => Sys2Proof.Machine.execPor pd pa pb s
  | .pxor pd pa pb => Sys2Proof.Machine.execPxor pd pa pb s
  | .pandn pd pa pb => Sys2Proof.Machine.execPandn pd pa pb s
  | .pnot pd pa => Sys2Proof.Machine.execPnot pd pa s
  | .pmov pd pa => Sys2Proof.Machine.execPmov pd pa s
  | .pcnt sd pa => Sys2Proof.Machine.execPcnt sd pa s
  | .vcvt vd va rm pg pn dst tp => Sys2Proof.Machine.execVcvt vd va rm pg pn dst tp s
  | .vqnt vd va rm pg pn blk tp => Sys2Proof.Machine.execVqnt vd va rm pg pn blk tp s
  | .vdqnt vd va pg pn blk tp => Sys2Proof.Machine.execVdqnt vd va pg pn blk tp s
  | .vred vd va pg pn op tp => Sys2Proof.Machine.execVred vd va pg pn op tp s
  | .vscan vd va pg pn op tp => Sys2Proof.Machine.execVscan vd va pg pn op tp s
  | .vperm vd va vb pg pn => Sys2Proof.Machine.execVperm vd va vb pg pn s
  | .vrot vd va sb pg pn => Sys2Proof.Machine.execVrot vd va sb pg pn s
  | .vrng vd sa sb pg pn raw => Sys2Proof.Machine.execVrng vd sa sb pg pn raw s
  | .tcfg td rows1 ty => Sys2Proof.Machine.execTcfg td rows1 ty s
  | .tpop td q => Sys2Proof.Machine.execTpop td q s
  | .tpsh q ta => Sys2Proof.Machine.execTpsh q ta s
  | .tzero td => Sys2Proof.Machine.execTzero td s
  | .wld wd q => Sys2Proof.Machine.execWld wd q s
  | .wcfg wd fi mode => Sys2Proof.Machine.execWcfg wd fi mode s
  | .mma cd ta wb lvl fi fl => Sys2Proof.Machine.execMma cd ta wb lvl fi fl s
  | .mmat cd ta wb lvl fi fl => Sys2Proof.Machine.execMmat cd ta wb lvl fi fl s
  | .cemit ca q rm dst z => Sys2Proof.Machine.execCemit ca q rm dst z s
  | .cpsh ca q => Sys2Proof.Machine.execCpsh ca q s
  | .cpop cd q => Sys2Proof.Machine.execCpop cd q s
  | .cscl cd sa => Sys2Proof.Machine.execCscl cd sa s
  | .ftset fi sa => Sys2Proof.Machine.execFtset fi sa s
  | .ftget sd fi => Sys2Proof.Machine.execFtget sd fi s
  | .tmark imm => Sys2Proof.Machine.execTmark imm s
  | .tbudg sd => Sys2Proof.Machine.execTbudg sd s
  | .tstat sd ta item => Sys2Proof.Machine.execTstat sd ta item s
  | .ssig a b sc sp => Sys2Proof.Machine.execSsig a b sc sp s
  | .swait a sc sp => Sys2Proof.Machine.execSwait a sc sp s
  | .stry d a sc sp => Sys2Proof.Machine.execStry d a sc sp s
  | .binit a b sp => Sys2Proof.Machine.execBinit a b sp s
  | .barv a b op sc sp => Sys2Proof.Machine.execBarv a b op sc sp s
  | .bexp a b sp => Sys2Proof.Machine.execBexp a b sp s
  | .bwait a sc sp => Sys2Proof.Machine.execBwait a sc sp s
  | .btest d a sp => Sys2Proof.Machine.execBtest d a sp s
  | .acq a sc sp => Sys2Proof.Machine.execAcq a sc sp s
  | .rel a sc sp => Sys2Proof.Machine.execRel a sc sp s
  | .publ a => Sys2Proof.Machine.execPubl a s
  | .shopen d a => Sys2Proof.Machine.execShopen d a s
  | .remq a b => Sys2Proof.Machine.execRemq a b s
  | .remqt d a b => Sys2Proof.Machine.execRemqt d a b s
  | .wpop d a b => Sys2Proof.Machine.execWpop d a b s
  | .wpush a b => Sys2Proof.Machine.execWpush a b s
  | .wsteal d a b => Sys2Proof.Machine.execWsteal d a b s
  | .coll d a st => Sys2Proof.Machine.execColl d a st s
  | .upd d a => Sys2Proof.Machine.execUpd d a s
  | .msrch d a => Sys2Proof.Machine.execMsrch d a s
  | .gfork d a => Sys2Proof.Machine.execGfork d a s
  | .grewd d a b => Sys2Proof.Machine.execGrewd d a b s
  | .gbar d a => Sys2Proof.Machine.execGbar d a s
  | .gcanc a b => Sys2Proof.Machine.execGcanc a b s
  | .gqry d a item => Sys2Proof.Machine.execGqry d a item s
  | .gyld a => Sys2Proof.Machine.execGyld a s
  | .vqry d b => Sys2Proof.Machine.execVqry d b s
  | .ecnt d b => Sys2Proof.Machine.execEcnt d b s
  | .tend => Sys2Proof.Machine.execTend s
  | .step d => Sys2Proof.Machine.execStep d s
  | .tret => Sys2Proof.Machine.execTret s
  | .tack => Sys2Proof.Machine.execTack s
  | .sysc imm => Sys2Proof.Machine.execSysc imm s
  | .halt => Sys2Proof.Machine.execHalt s
  | .sleep d => Sys2Proof.Machine.execSleep d s
  | .closingBranch => Sys2Proof.Machine.execClosingBranch s
  | .scoreboardedResult => Sys2Proof.Machine.execScoreboardedResult s
  | .queueLoadLands => Sys2Proof.Machine.execQueueLoadLands s
  | .mmaCompletion => Sys2Proof.Machine.execMmaCompletion s
  | .engineCompletion => Sys2Proof.Machine.execEngineCompletion s
  | .collectiveCompletion => Sys2Proof.Machine.execCollectiveCompletion s
  | .updCompletion => Sys2Proof.Machine.execUpdCompletion s
  | .msrchCompletion => Sys2Proof.Machine.execMsrchCompletion s
  | .trapTaken => Sys2Proof.Machine.execTrapTaken s
  | .qdead => Sys2Proof.Machine.execQdead s
  | .windowReplay => Sys2Proof.Machine.execWindowReplay s
  | .timingTrip => Sys2Proof.Machine.execTimingTrip s
  | .tileDispatch => Sys2Proof.Machine.execTileDispatch s
  | .nodeLaunch => Sys2Proof.Machine.execNodeLaunch s
  | .waiterReserving => Sys2Proof.Machine.execWaiterReserving s
  | .nodeBoundaryPreemption => Sys2Proof.Machine.execNodeBoundaryPreemption s
  | .stepBoundary => Sys2Proof.Machine.execStepBoundary s
  | .stepMirrorComplete => Sys2Proof.Machine.execStepMirrorComplete s
  | .pontilCommit => Sys2Proof.Machine.execPontilCommit s
  | .pontilFailure => Sys2Proof.Machine.execPontilFailure s
  | .deviceLost => Sys2Proof.Machine.execDeviceLost s
  | .gangStart => Sys2Proof.Machine.execGangStart s
  | .groupDeadlineExpiry => Sys2Proof.Machine.execGroupDeadlineExpiry s
  | .groupResume => Sys2Proof.Machine.execGroupResume s
  | .pageWalk => Sys2Proof.Machine.execPageWalk s
  | .translationBuildEnd => Sys2Proof.Machine.execTranslationBuildEnd s
  | .translationEviction => Sys2Proof.Machine.execTranslationEviction s
  | .substitutionInstall => Sys2Proof.Machine.execSubstitutionInstall s
  | .epochStart => Sys2Proof.Machine.execEpochStart s
  | .budgetInterval => Sys2Proof.Machine.execBudgetInterval s
  | .operatingPointStep => Sys2Proof.Machine.execOperatingPointStep s
  | .rowFailure => Sys2Proof.Machine.execRowFailure s
  | .vaultEvacuation => Sys2Proof.Machine.execVaultEvacuation s
  | .tokenGrant => Sys2Proof.Machine.execTokenGrant s
  | .clockProposal => Sys2Proof.Machine.execClockProposal s
  | .flitReceived => Sys2Proof.Machine.execFlitReceived s
  | .messageReceived => Sys2Proof.Machine.execMessageReceived s
  | .messageUndeliverable => Sys2Proof.Machine.execMessageUndeliverable s
  | .laneLoss => Sys2Proof.Machine.execLaneLoss s
  | .lanesTrained => Sys2Proof.Machine.execLanesTrained s
  | .trainingTimeout => Sys2Proof.Machine.execTrainingTimeout s
  | .firmwareRetry => Sys2Proof.Machine.execFirmwareRetry s
  | .hostBridgeAccess => Sys2Proof.Machine.execHostBridgeAccess s
  | .boot => Sys2Proof.Machine.execBoot s
  | .registerWrite => Sys2Proof.Machine.execRegisterWrite s
  | .evClear => Sys2Proof.Machine.execEvClear s
  | .cplack => Sys2Proof.Machine.execCplack s
  | .heldGo => Sys2Proof.Machine.execHeldGo s
  | .engineCpy => Sys2Proof.Machine.execEngineCpy s
  | .engineCpyt => Sys2Proof.Machine.execEngineCpyt s
  | .engineCpyd => Sys2Proof.Machine.execEngineCpyd s
  | .engineWmcpy => Sys2Proof.Machine.execEngineWmcpy s
  | .engineLdg => Sys2Proof.Machine.execEngineLdg s
  | .engineSts => Sys2Proof.Machine.execEngineSts s
  | .dieColl => Sys2Proof.Machine.execDieColl s
  | .dieCollSt => Sys2Proof.Machine.execDieCollSt s
  | .dieUpd => Sys2Proof.Machine.execDieUpd s
  | .dieMsrch => Sys2Proof.Machine.execDieMsrch s
  | .contextNop => Sys2Proof.Machine.execContextNop s
  | .nrun => Sys2Proof.Machine.execNrun s
  | .grun => Sys2Proof.Machine.execGrun s
  | .gset => Sys2Proof.Machine.execGset s
  | .hostNop => Sys2Proof.Machine.execHostNop s
  | .cdefine => Sys2Proof.Machine.execCdefine s
  | .cload => Sys2Proof.Machine.execCload s
  | .chot => Sys2Proof.Machine.execChot s
  | .cpark => Sys2Proof.Machine.execCpark s
  | .cmigrate => Sys2Proof.Machine.execCmigrate s
  | .csuspend => Sys2Proof.Machine.execCsuspend s
  | .cresume => Sys2Proof.Machine.execCresume s
  | .cretire => Sys2Proof.Machine.execCretire s
  | .crestore => Sys2Proof.Machine.execCrestore s
  | .cquery => Sys2Proof.Machine.execCquery s
  | .olink => Sys2Proof.Machine.execOlink s
  | .subload => Sys2Proof.Machine.execSubload s
  | .opset => Sys2Proof.Machine.execOpset s
  | .pbudget => Sys2Proof.Machine.execPbudget s
  | .pgrant => Sys2Proof.Machine.execPgrant s
  | .mread => Sys2Proof.Machine.execMread s
  | .keyset => Sys2Proof.Machine.execKeyset s
  | .keyclr => Sys2Proof.Machine.execKeyclr s
  | .shoot => Sys2Proof.Machine.execShoot s
  | .attest => Sys2Proof.Machine.execAttest s
  | .cfgload => Sys2Proof.Machine.execCfgload s
  | .portctl => Sys2Proof.Machine.execPortctl s
  | .sleepExpiry => Sys2Proof.Machine.execSleepExpiry s
  | .syscReply => Sys2Proof.Machine.execSyscReply s
  | .trapStub => Sys2Proof.Machine.execTrapStub s
  | .xlateStub => Sys2Proof.Machine.execXlateStub s
  | .loopIllegalKind => Sys2Proof.Machine.execLoopIllegalKind s
  | .softError => Sys2Proof.Machine.execSoftError s
  | .endToEndResend => Sys2Proof.Machine.execEndToEndResend s
  | .pcSample => Sys2Proof.Machine.execPcSample s

end Sys2Proof.Machine
end

