-- ==== Sys2Proof/Machine/Step.lean ====
section
/-! DEFINITION. One step of the package: one turn of its agenda (notes/assumptions/1.md), and how a word comes to be the
next that a step runs (notes/assumptions/2.md). -/

namespace Sys2Proof.Machine

/-- One step: the turn at the head of the agenda. -/
def step (s : State) : Host.Outcome State Fault Refusal := turn exec s

/-- `s` with the word `w` as the one word of the stream of core 0's cluster that reads it, translated, with the next turn
that cluster's. It stands for a tile start on a section of this one word; a row without bits places nothing. -/
def State.withFetchWord (s : State) (nbits w : Nat) : State :=
  if nbits = 32 then placeWord s (tableCluster w) (BitVec.ofNat 32 w) else s

end Sys2Proof.Machine
end

