-- ==== Sys2Proof/Safety.lean ====
section
/-! DEFINITION. What a safe run is, and the terms in which the claims speak of a word that issues. The spec gives every
situation a next state (spec/00_scope.md, spec/19_traps.md R429), so a safe run is one that never stops. -/

namespace Sys2Proof

/-- The step gives a next state. -/
def goesOn (s : Machine.State) : Bool :=
  match Machine.step s with
  | .next _ => true
  | _ => false

/-- `n` steps each give a next state. -/
def safeFor (n : Nat) (s : Machine.State) : Prop := ∃ t, Host.Core.run core n s = .next t

namespace Machine

/-! ### When a word issues -/

/-- Nothing holds or stops a word with the operands `u`: no scoreboarded result is on its way to one of them (R76), with
LATCHK = 1 none is read inside a latency window (R77), with ERRMODE = 0 no unreported failed token is read (R167), and no
register read holds an uncorrectable error (R471). -/
def Clear (u : Use) (s : State) : Prop :=
  blocked (clu s) u = false ∧ (latchk (coreSeen s) = true → latwinAt (core s) s.cl u = none)
    ∧ (errmode (coreSeen s) = false → errToken (core s) s.cl u = none) ∧ softHit (core s) s.cl u = false

/-- No result of an earlier word is on its way to register `r` (R74). -/
def Quiet (k : Clu) (kd : RegKind) (r : Nat) : Prop := ∀ l ∈ k.pend, (l.kind == kd && l.reg == r) = false

/-- The turn of cluster `cl` of core `n` issues a word: the core runs, the cluster is active and does not stand still in a
handler, neither a trap nor a closing branch comes first, and no GYLD of its rendezvous has still to act (R54, R73, R124, R429,
R431). -/
def Ready (s : State) (n cl : Nat) : Prop :=
  (coreAt s n).busy = true ∧ (cluAt (coreAt s n) cl).active = true ∧ ((coreAt s n).level = 0 ∨ cl = clC)
    ∧ (coreAt s n).treq = [] ∧ (cluAt (coreAt s n) cl).closing = false ∧ yieldDue s n cl = false

/-- The next word of cluster `cl` of core `n` is word `j` of its section, and its translation, which is built, is the word `w` (R54, R311). -/
def Translated (s : State) (n cl : Nat) (w : Word) : Prop :=
  ∃ (j : Nat) (x : Xlate), ((cluAt (coreAt s n) cl).pc - (cluAt (coreAt s n) cl).base).toNat = 4 * j
    ∧ j < (cluAt (coreAt s n) cl).words
    ∧ findXlate s n (coreAt s n).task.ctx (cluAt (coreAt s n) cl).base = some x ∧ x.st ≠ .building
    ∧ x.words[j]? = some (.word w)

/-- `k` more words issue that write nothing (R74, R145). -/
def wordsLater (k : Nat) (s : State) : State := loopN (fun _ s => retire [] s) k s

/-- The checks of an access all pass (R148). -/
def Granted (l : List Acc1) (s : State) : Prop := pchk s l = .ok

/-- The trap `r` is that of the lowest-numbered cluster among those raised, the first of that cluster's (R429). -/
def Lowest (r : TrapReq) (l : List TrapReq) : Prop :=
  ∃ a b, l = a ++ r :: b ∧ (∀ x ∈ a, r.cl < x.cl) ∧ ∀ x ∈ b, r.cl ≤ x.cl

/-! ### What a word leaves alone -/

/-- Every byte of memory, through every path that reads one, is as it was: the device scope, each core's L1 under each key pair, the
vault; and so is what each sector is encrypted under. -/
def SameMem (s t : State) : Prop :=
  (∀ k, devByte t k = devByte s k) ∧ (∀ n km k, weakByte t n km k = weakByte s n km k) ∧ (∀ x a, vaultByte t x a = vaultByte s x a)
    ∧ t.sealed = s.sealed

/-- Outside the core whose turn it is nothing has changed. -/
def OnlyCore (s t : State) : Prop := t = { s with cores := t.cores } ∧ ∀ n, n ≠ s.cur → coreAt t n = coreAt s n

/-- In a core only the cluster `cl` has changed, with the marks of tokens read, the marks of soft errors overwritten, and
the deadlock count, which starts again; and of the vector registers and predicates only those that a result of an earlier
word was on its way to. -/
def OnlyClu (cl : Nat) (c d : Core) : Prop :=
  d = { c with clu := d.clu, v := d.v, p := d.p, cmds := d.cmds, soft := d.soft, qdead := 0 }
    ∧ (∀ i, i ≠ cl → cluAt d i = cluAt c i)
    ∧ (∀ r, Quiet (cluAt c cl) .v r → fget {} d.v r = fget {} c.v r)
    ∧ (∀ r, Quiet (cluAt c cl) .p r → fget 0 d.p r = fget 0 c.p r)

/-- In a cluster only registers, results on their way and the place of the next word have changed: the loops, the outcome
queue, the scoreboard and the trap registers have not. -/
def OnlyRegs (k m : Clu) : Prop :=
  m = { k with s := m.s, a := m.a, tokHeld := m.tokHeld, pend := m.pend, pc := m.pc, closing := m.closing, wait := .none, rvDone := false }

/-- The cluster stands at the word after this one; the closing branch is due where the word ended an active loop (R124). -/
def Advanced (k m : Clu) : Prop :=
  m.pc = k.pc + 4 ∧ m.closing = k.loops.any fun x => x.2.active && x.2.last == k.pc

/-- The frame of a word that acts on the registers of its own cluster alone. -/
def WordFrame (s t : State) : Prop :=
  OnlyCore s t ∧ OnlyClu s.cl (core s) (core t) ∧ OnlyRegs (clu s) (clu t) ∧ SameMem s t

/-- Registers with no earlier result on its way read as before. -/
def RegsSame (s t : State) : Prop :=
  (∀ r, Quiet (clu s) .s r → readS (clu t) r = readS (clu s) r) ∧ (∀ r, Quiet (clu s) .a r → readA (clu t) r = readA (clu s) r)

/-- `t` is `s` after a word that changes no register and goes on at `pc`; `cb` says that a closing branch is due. -/
def WentTo (pc : Addr) (cb : Bool) (s t : State) : Prop :=
  WordFrame s t ∧ (clu t).pc = pc ∧ (clu t).closing = cb ∧ RegsSame s t

/-- `t` is `s` after a word that changes no register and goes on at the next word. -/
def Passed (s t : State) : Prop := WordFrame s t ∧ Advanced (clu s) (clu t) ∧ RegsSame s t

/-- `t` is `s` after a word that writes `v` in the lanes `g` of physical vector register `d` with latency `n` > 1: the
result is on its way and the old value is still read (R74, R182). -/
def WroteV (n d : Nat) (v : VVal) (g : BitVec 512) (s t : State) : Prop :=
  Passed s t ∧ landV n d v g ∈ (clu t).pend ∧ (s.cl = clV → Quiet (clu s) .v d → readV (core t) d = readV (core s) d)

/-- `t` is `s` after a word that writes `v` in the lanes `g` of physical predicate `d` with latency `n` > 1. -/
def WroteP (n d : Nat) (v g : BitVec 512) (s t : State) : Prop :=
  Passed s t ∧ landP n d v g ∈ (clu t).pend ∧ (s.cl = clV → Quiet (clu s) .p d → readP (core t) d = readP (core s) d)

/-- `t` is `s` after a word that writes `v` to scalar `d` with latency `n` and goes on at the next word: with latency 1 the
next word reads `v`; with a longer one the result is on its way and the old value is still read (R74, R75). Every other
register reads as before, but for the results of earlier words that come due. -/
def WroteS (n d : Nat) (v : Scalar) (s t : State) : Prop :=
  WordFrame s t ∧ Advanced (clu s) (clu t)
    ∧ (n = 1 → readS (clu t) d = v)
    ∧ (1 < n → landS n d v ∈ (clu t).pend ∧ (Quiet (clu s) .s d → readS (clu t) d = readS (clu s) d))
    ∧ (∀ r, r ≠ d → Quiet (clu s) .s r → readS (clu t) r = readS (clu s) r)
    ∧ (∀ r, Quiet (clu s) .a r → readA (clu t) r = readA (clu s) r)

/-- `t` is `s` after a word that writes `v` to address register `d`, which the next word reads (R74, R118). -/
def WroteA (d : Nat) (v : Addr) (s t : State) : Prop :=
  WordFrame s t ∧ Advanced (clu s) (clu t) ∧ readA (clu t) d = v
    ∧ (∀ r, r ≠ d → Quiet (clu s) .a r → readA (clu t) r = readA (clu s) r)
    ∧ (∀ r, Quiet (clu s) .s r → readS (clu t) r = readS (clu s) r)

end Machine

end Sys2Proof
end

