-- ==== Sys2Proof/Certificates/Slice0/Obligations.lean ====
section
/-! DEFINITION. The statements for the provers. Each speaks of every state, and its docstring names the rules of spec/ that it
formalises. `Clear` and the frames `Passed`, `WroteS`, `WroteA`, `WroteV`, `WroteP` and `WentTo` stand in Sys2Proof/Safety.lean. -/

open Sys2Proof Sys2Proof.Machine

/-- Every field of an instruction survives its encoding: for every cluster, both values of Y and every instruction that has a
word on the cluster, with every operand at every value the encoding admits, decoding the encoded word gives the instruction
and Y back (R85-R102). -/
def Obligations.DecodeEncode : Prop :=
  ∀ (cl : Nat) (y : Bool) (i : Instr), i.wfOn cl = true → decode cl (encode y i) = .ok i ∧ wordY (encode y i) = y

/-- Words that the spec prints beside their assembly decode to those instructions. -/
def Obligations.SpecWordsDecode : Prop :=
  decode 0 0x02629600 = .ok (.mul 12 10 11) ∧ decode 3 0x40000000 = .ok .nop ∧ wordY 0x40000000 = true
    ∧ decode 0 0x21618005 = .ok (.loop 1 6 5 true) ∧ decode 0 0x90321C20 = .ok (.atadd 6 4 7 .dev false false)
    ∧ decode 0 0x9461AA19 = .ok (.cpy 12 3 5 8 6 false true) ∧ decode 1 0x9B103008 = .ok (.vcommit 4 3 1 false)
    ∧ decode 2 0x88575000 = .ok (.mma 1 2 3 1 4 true) ∧ decode 3 0x80021E00 = .ok (.ssig 4 7 .dev false)
    ∧ decode 3 0x9D321C00 = .ok (.grewd 6 4 7) ∧ decode 0 0x03503FFF = .ok (.addi 10 0 0x3FFF)
    ∧ decode 2 0x8C0C8000 = .ok (.cemit 0 3 0 .bf16 false) ∧ decode 3 0xA6000000 = .ok .tend

/-- A step runs the decoded instruction. At the turn of a ready cluster whose next word is translated, a step is exec of the
instruction that the cluster's decoder reads from the word, at the state with the turn taken and the word kept for XINFO; a
reserved encoding runs the stub that raises ILLEGAL (R106). A Y = 1 word outside a handler goes through the rendezvous
instead; one that waits on after its rendezvous acts on the core as it stood before that cycle or, once a handler has run
since, as it stands (R73, R437), and a trap of the group is taken after it (notes/assumptions/46.md). The other turns of the
agenda: an event runs its row of the opcode table at its place; a cluster outside its section runs the stub of R54; a trap
that was raised, and then a closing branch, come before the next word; a cluster that stands still, or that a GYLD of its
rendezvous has still to save, does nothing (R73, R362). -/
def Obligations.StepRunsTurn : Prop :=
  (∀ (s : State) (n cl : Nat) (r : List Turn) (w : Word), s.agenda = .issue n cl :: r → Ready s n cl → Translated s n cl w →
    let runs := fun (i : Instr) =>
      ((wordY w.toNat = false ∨ (coreAt s n).level ≠ 0) → step s = exec i { s with agenda := r, cur := n, cl := cl, word := w })
      ∧ (wordY w.toNat = true → (coreAt s n).level = 0 → (cluAt (coreAt s n) cl).rvDone = true →
          step s = andThen (exec i { s with agenda := r, cur := n, cl := cl, word := w, view := if fhas s.groupAt n then some { was := fget {} s.groupAt n } else none })
            fun t => .next (takeTrap { t with view := none }))
    (∀ i, decode cl w.toNat = .ok i → runs i) ∧ (∀ e, decode cl w.toNat = .error e → runs .trapStub))
  ∧ (∀ (s : State) (n cl : Nat) (i : Instr) (r : List Turn),
    (s.agenda = .event n i :: r → step s = exec i { s with agenda := r, cur := n })
    ∧ (s.agenda = .issue n cl :: r →
        let t := { s with agenda := r, cur := n, cl := cl }
        let k := cluAt (coreAt s n) cl
        (Ready s n cl ∧ k.words ≤ (k.pc - k.base).toNat / 4 → step s = exec .trapStub { t with word := 0 })
        ∧ ((coreAt s n).busy = true ∧ k.active = true ∧ ((coreAt s n).level = 0 ∨ cl = clC) ∧ yieldDue s n cl = false →
            ((coreAt s n).treq ≠ [] → step s = exec .trapTaken t)
            ∧ ((coreAt s n).treq = [] ∧ k.closing = true → step s = exec .closingBranch t))
        ∧ ((coreAt s n).busy = false ∨ k.active = false ∨ ((coreAt s n).level ≠ 0 ∧ cl ≠ clC) ∨ yieldDue s n cl = true → step s = .next t)))

/-- A Y = 1 word issues only when every active cluster of its core stands at a Y = 1 word that is free to issue; until then
its step makes the cluster wait, and in a group with a GYLD begins the page walks that the group waits for, and changes
nothing else; then the words of all of them issue in that step, on the core as it stood, every cluster comes after the stores
that one of them came after, and a trap of the group is taken after it (R73; the model's choices are in
notes/assumptions/46.md). -/
def Obligations.RendezvousRule : Prop :=
  ∀ (s : State) (n cl : Nat) (r : List Turn) (w : Word), s.agenda = .issue n cl :: r → Ready s n cl → Translated s n cl w →
    wordY w.toNat = true → (coreAt s n).level = 0 → (cluAt (coreAt s n) cl).rvDone = false →
      let t := { s with agenda := r, cur := n, cl := cl }
      let cs := activeClus (coreAt s n)
      let g := yields t cs
      let p := probe exec t cl
      let wait := fun (u : State) => if p.2 = .score then waitOn .score u
        else onClu (fun k => { k with wait := .rv, inner := heldBy g p.2, need := (cluAt (coreAt p.1 n) cl).need }) u
      ((∃ j ∈ cs, atY t j = false ∨ standsAt t j = false ∨ freeToIssue exec g t j = false) →
          step s = .next (wait (if g then beginWalks exec cs t else t)))
      ∧ ((∀ j ∈ cs, atY t j = true ∧ standsAt t j = true ∧ freeToIssue exec g t j = true) →
          step s = andThen (issueAll exec t cs
              (onCore (fun c => learnAll cs (cs.foldl (fun c j => putClu c j { cluAt c j with rvDone := true }) c))
                { t with view := some { was := core t }, agenda := spentTurns n r, groupAt := fput s.groupAt n (core t) })) fun u => .next (takeTrap { u with view := none }))

/-- What reset leaves, as the spec gives it: no core runs a tile, the operating point is 1 with target 1, the cap is 5, the
boot is at stage 0, every context is Retired, no group, run, shadow, walk or translation exists, every queue block is enabled,
empty and closed, and TRCTL is 0x8F (R280, R324, R445, R467, R476). Memory at reset has the canonical form. -/
def Obligations.ResetState : Prop :=
  ((∀ n, (coreAt State.reset n).busy = false ∧ (coreAt State.reset n).level = 0 ∧ (coreAt State.reset n).trctl = 0x8F)
    ∧ State.reset.power.point = 1 ∧ State.reset.power.target = 1 ∧ State.reset.power.pend = false ∧ State.reset.power.cap = 5
    ∧ State.reset.boot.stage = 0
    ∧ (∀ n, (ctxAt State.reset n).st = .retired)
    ∧ State.reset.groups = [] ∧ State.reset.runs = [] ∧ State.reset.shadows = [] ∧ State.reset.walks = [] ∧ State.reset.xlates = []
    ∧ (∀ n, (blockAt State.reset n).cmds = [] ∧ (blockAt State.reset n).en = true ∧ (blockAt State.reset n).opn = false)
    ∧ State.reset.ns = 0)
  ∧ (memWf State.reset.mem = true)

/-- Every step keeps the backing memory in its canonical form: addresses strictly rising, no entry equal to what an unlisted
address reads as. -/
def Obligations.StepKeepsMemoryCanonical : Prop :=
  ∀ s t : State, memWf s.mem = true → step s = .next t → memWf t.mem = true

/-- A word issued k words after the producer of a scalar reads the new value if k ≥ L and the old value if k < L; only issued
words count (R74). With several producers of one scalar pending, an earlier producer whose window closes later never replaces
the result of a later producer (R75). A result on its way under the scoreboard lands: its scalar reads the value, nothing of
it stays on its way, and the other clusters' registers, the queues and memory stay (R76). With several on their way, the
device chooses one. -/
def Obligations.LatencyWindows : Prop :=
  (∀ (n d : Nat) (v : Scalar) (s : State), 1 ≤ n → Quiet (clu s) .s d →
    (∀ k, k + 1 < n → readS (clu (wordsLater k (retire [landS n d v] s))) d = readS (clu s) d)
    ∧ (∀ k, n ≤ k + 1 → readS (clu (wordsLater k (retire [landS n d v] s))) d = v))
  ∧ (∀ (m n j d : Nat) (u v : Scalar) (s : State) (k : Nat), 1 ≤ m → 1 ≤ n → n ≤ k + 1 →
    readS (clu (wordsLater k (retire [landS n d v] (wordsLater j (retire [landS m d u] s))))) d = v)
  ∧ (∀ (x : Sb) (s : State),
    let n := s.cur / 4
    let cl := s.cur % 4
    ((cluAt (coreAt s n) cl).sb = [x] → (cl = clA → ∀ m ∈ (coreAt s n).d, m.2.loading = false) →
      ∃ t, exec .scoreboardedResult s = .next t ∧ readS (cluAt (coreAt t n) cl) x.reg = x.val
        ∧ (cluAt (coreAt t n) cl).sb = [] ∧ (∀ i, i ≠ cl → cluAt (coreAt t n) i = cluAt (coreAt s n) i)
        ∧ (cluAt (coreAt t n) cl).pc = (cluAt (coreAt s n) cl).pc
        ∧ (coreAt t n).q = (coreAt s n).q ∧ (∀ m, m ≠ n → coreAt t m = coreAt s m) ∧ SameMem s t)
    ∧ (pendingOf s n cl ≠ 0 → exec .scoreboardedResult s
        = .next (landOne n cl (Config.free s.free % pendingOf s n cl) { s with free := s.free + 1 })))

/-- What every word checks before it acts, shown on ADD and LD: a scoreboarded result on its way to a register that the word
reads or overwrites makes it wait (R76); then an access with MU = 1 raises MUSTU (R104); then with KCTL.LATCHK = 1 a source
inside its window raises LATWIN with the register in XADDRL (R77); then with ERRMODE = 0 an unreported failed token raises
ENGERR with the code and the failing address, and is reported when that trap is taken (R167); then an uncorrectable error of a
source raises MEMERR (R471). The order of the last three, and that they follow the wait, is the model's choice
(notes/assumptions/6.md). -/
def Obligations.IssueChecks : Prop :=
  ∀ (d a b off ch : Nat) (sp : Bool) (s : State),
    let u : Use := { rs := [a, b], ws := [d] }
    (blocked (clu s) u = true → exec (.add d a b) s = .next (waitOn .score s))
    ∧ (blocked (clu s) { ra := [a], ws := [d] } = false → exec (.ld d a off ch true sp) s = .next (raise cMUSTU s.word 0 s))
    ∧ (∀ x, blocked (clu s) u = false → latchk (coreSeen s) = true → latwinAt (core s) s.cl u = some x →
        exec (.add d a b) s = .next (raise cLATWIN s.word (BitVec.ofNat 64 x) s))
    ∧ (∀ c, blocked (clu s) u = false → latchk (coreSeen s) = false → errmode (coreSeen s) = false → errToken (core s) s.cl u = some c →
        exec (.add d a b) s = .next (raiseTok (some c.id) cENGERR (BitVec.ofNat 32 c.code) c.addr s))
    ∧ (blocked (clu s) u = false → latchk (coreSeen s) = false → errmode (coreSeen s) = true → softHit (core s) s.cl u = true →
        exec (.add d a b) s = .next (raise cMEMERR s.word 0 (markRead u s)))

/-- The operations of R113 on a := sA and b := sB, each with its value, its poison and its frame: the next word reads the
result, and no case traps. Shift and rotate amounts are b[4:0]; SEL reads the old sD. -/
def Obligations.AluOperations : Prop :=
  ∀ (d a b : Nat) (s : State),
    let x := readS (clu s) a
    let y := readS (clu s) b
    let z := readS (clu s) d
    let p := x.pois || y.pois
    let k := y.val.toNat % 32
    let gives := fun (i : Instr) (v : Word) (q : Bool) => ∃ t, exec i s = .next t ∧ WroteS 1 d { val := v, pois := q } s t
    (Clear { rs := [a, b], ws := [d] } s →
      gives (.add d a b) (BitVec.ofNat 32 (x.val.toNat + y.val.toNat)) p
      ∧ gives (.sub d a b) (BitVec.ofInt 32 (x.val.toInt - y.val.toInt)) p
      ∧ gives (.and d a b) (x.val &&& y.val) p ∧ gives (.or d a b) (x.val ||| y.val) p
      ∧ gives (.xor d a b) (x.val ^^^ y.val) p ∧ gives (.andn d a b) (x.val &&& ~~~y.val) p
      ∧ gives (.shl d a b) (BitVec.ofNat 32 (x.val.toNat * 2 ^ k)) p
      ∧ gives (.shr d a b) (BitVec.ofNat 32 (x.val.toNat / 2 ^ k)) p
      ∧ gives (.sar d a b) (BitVec.ofInt 32 (x.val.toInt / 2 ^ k)) p
      ∧ gives (.rol d a b) (BitVec.ofNat 32 (x.val.toNat * 2 ^ k + x.val.toNat * 2 ^ k / 2 ^ 32)) p
      ∧ gives (.min d a b) (BitVec.ofInt 32 (min x.val.toInt y.val.toInt)) p
      ∧ gives (.max d a b) (BitVec.ofInt 32 (max x.val.toInt y.val.toInt)) p
      ∧ gives (.minu d a b) (BitVec.ofNat 32 (min x.val.toNat y.val.toNat)) p
      ∧ gives (.maxu d a b) (BitVec.ofNat 32 (max x.val.toNat y.val.toNat)) p
      ∧ gives (.seq d a b) (if x.val = y.val then 1 else 0) p
      ∧ gives (.slt d a b) (if x.val.toInt < y.val.toInt then 1 else 0) p
      ∧ gives (.sltu d a b) (if x.val.toNat < y.val.toNat then 1 else 0) p)
    ∧ (Clear { rs := [a], ws := [d] } s →
      (∃ n, n ≤ 32 ∧ (∀ i < n, x.val.getLsbD (31 - i) = false) ∧ (n < 32 → x.val.getLsbD (31 - n) = true)
        ∧ gives (.clz d a) (BitVec.ofNat 32 n) x.pois)
      ∧ gives (.popc d a) (BitVec.ofNat 32 ((List.range 32).countP fun i => x.val.getLsbD i)) x.pois)
    ∧ (Clear { rs := [a, b, d], ws := [d] } s →
      gives (.sel d a b) (if z.val = 0 then y.val else x.val) (x.pois || y.pois || z.pois))

/-- The operations of R114: products with latency 3, quotients and remainders with latency 12; no case traps. -/
def Obligations.MultiplyDivide : Prop :=
  ∀ (d a b : Nat) (s : State), Clear { rs := [a, b], ws := [d] } s →
    let x := (readS (clu s) a).val
    let y := (readS (clu s) b).val
    let p := (readS (clu s) a).pois || (readS (clu s) b).pois
    let edge := x = 0x80000000 ∧ y = 0xFFFFFFFF
    let gives := fun (n : Nat) (i : Instr) (v : Word) => ∃ t, exec i s = .next t ∧ WroteS n d { val := v, pois := p } s t
    gives 3 (.mul d a b) (BitVec.ofNat 32 (x.toNat * y.toNat))
    ∧ gives 3 (.mulh d a b) (BitVec.ofInt 32 (x.toInt * y.toInt / 2 ^ 32))
    ∧ gives 3 (.mulhu d a b) (BitVec.ofNat 32 (x.toNat * y.toNat / 2 ^ 32))
    ∧ gives 12 (.div d a b) (if y = 0 then 0xFFFFFFFF else if edge then 0x80000000 else BitVec.ofInt 32 (x.toInt.tdiv y.toInt))
    ∧ gives 12 (.divu d a b) (if y = 0 then 0xFFFFFFFF else BitVec.ofNat 32 (x.toNat / y.toNat))
    ∧ gives 12 (.rem d a b) (if y = 0 then x else if edge then 0 else BitVec.ofInt 32 (x.toInt - y.toInt * x.toInt.tdiv y.toInt))
    ∧ gives 12 (.remu d a b) (if y = 0 then x else BitVec.ofNat 32 (x.toNat % y.toNat))

/-- The immediate forms of R115, where `n` is the 14-bit field sign-extended and `m` the field filled with zeros, and LUI,
which sets sD := imm19[17:0] × 2^14 unpoisoned (R116). AGET and the address words of R117 and R118: their values modulo 2^64
and their frame; a poisoned sB raises POISON and nothing else happens. -/
def Obligations.ImmediateAndAddressWords : Prop :=
  (∀ (d a imm : Nat) (s : State), imm < 2 ^ 14 →
    let x := readS (clu s) a
    let n : Int := if imm < 2 ^ 13 then (imm : Int) else (imm : Int) - 2 ^ 14
    let k := imm % 32
    let gives := fun (i : Instr) (v : Word) (p : Bool) => ∃ t, exec i s = .next t ∧ WroteS 1 d { val := v, pois := p } s t
    (Clear { rs := [a], ws := [d] } s →
      gives (.addi d a imm) (BitVec.ofInt 32 (x.val.toInt + n)) x.pois
      ∧ gives (.andi d a imm) (x.val &&& BitVec.ofNat 32 imm) x.pois
      ∧ gives (.ori d a imm) (x.val ||| BitVec.ofNat 32 imm) x.pois
      ∧ gives (.xori d a imm) (x.val ^^^ BitVec.ofNat 32 imm) x.pois
      ∧ gives (.shli d a imm) (BitVec.ofNat 32 (x.val.toNat * 2 ^ k)) x.pois
      ∧ gives (.shri d a imm) (BitVec.ofNat 32 (x.val.toNat / 2 ^ k)) x.pois
      ∧ gives (.sari d a imm) (BitVec.ofInt 32 (x.val.toInt / 2 ^ k)) x.pois
      ∧ gives (.slti d a imm) (if x.val.toInt < n then 1 else 0) x.pois
      ∧ gives (.sltiu d a imm) (if x.val.toNat < (BitVec.ofInt 32 n).toNat then 1 else 0) x.pois)
    ∧ (Clear { ws := [d] } s → ∀ j < 2 ^ 19,
        gives (.lui d j) (BitVec.ofNat 32 (j % 2 ^ 18 * 2 ^ 14)) false))
  ∧ (∀ (d a b sh imm : Nat) (s : State), sh < 8 → imm < 2 ^ 16 →
    let x := readA (clu s) a
    let y := readS (clu s) b
    let n : Int := if imm < 2 ^ 15 then (imm : Int) else (imm : Int) - 2 ^ 16
    let gives := fun (i : Instr) (v : Addr) => ∃ t, exec i s = .next t ∧ WroteA d v s t
    let u : Use := { rs := [b], ra := [a] }
    (Clear { ra := [a], ws := [d] } s →
      (∃ t, exec (.aget d a false) s = .next t ∧ WroteS 1 d { val := BitVec.ofNat 32 (x.toNat % 2 ^ 32) } s t)
      ∧ (∃ t, exec (.aget d a true) s = .next t ∧ WroteS 1 d { val := BitVec.ofNat 32 (x.toNat / 2 ^ 32) } s t))
    ∧ (Clear { ra := [a] } s →
      gives (.aaddi d a imm) (BitVec.ofInt 64 (x.toNat + n))
      ∧ gives (.alui d a imm) (BitVec.ofNat 64 (imm * 2 ^ 32 + x.toNat % 2 ^ 32)))
    ∧ (Clear u s → y.pois = false →
      gives (.aadd d a b sh) (BitVec.ofInt 64 (x.toNat + y.val.toInt * 2 ^ sh))
      ∧ gives (.asub d a b sh) (BitVec.ofInt 64 (x.toNat - y.val.toInt * 2 ^ sh))
      ∧ gives (.aset d a b) (BitVec.ofNat 64 (x.toNat / 2 ^ 32 * 2 ^ 32 + y.val.toNat)))
    ∧ (Clear u s → y.pois = true → ∀ i ∈ [Instr.aadd d a b sh, .asub d a b sh, .aset d a b],
        exec i s = .next (raise cPOISON s.word 0 (markRead u s))))

/-- A compare-and-branch word goes to its own virtual PC + 4 × sext(off14) when its comparison holds and to the next word
otherwise, changing no register; a taken branch leaves a branch record when the core traces (R446); a poisoned operand raises
POISON whether or not the branch would be taken (R119). JMP, CALL, JR and CHK: the next virtual PC, the link of CALL in a15,
and ALIGN for a JR target whose bits [1:0] are not zero, with the target in XADDRL and XADDRH (R120, R121); CHK branches on
the poison bit of sA alone (R155). A trace record follows where the core traces. A core whose KCTL turns tracing off writes no
trace record (R139, R446). -/
def Obligations.BranchesAndJumps : Prop :=
  (∀ (a b off : Nat) (s : State), off < 2 ^ 14 → Clear { rs := [a, b] } s →
    let x := readS (clu s) a
    let y := readS (clu s) b
    let pc := (clu s).pc
    let n : Int := if off < 2 ^ 13 then (off : Int) else (off : Int) - 2 ^ 14
    let to_ := BitVec.ofInt 64 (pc.toNat + 4 * n)
    let takenWhen := fun (i : Instr) (c : Prop) =>
      (c → ∃ t, WentTo to_ false s t
        ∧ exec i s = .next (traceOut t s.cur 2 s.cl (pc.toNat % 2 ^ 32 + to_.toNat % 2 ^ 32 * 2 ^ 32)))
      ∧ (¬c → ∃ t, exec i s = .next t ∧ Passed s t)
    (x.pois = false ∧ y.pois = false →
      takenWhen (.beq a b off) (x.val = y.val) ∧ takenWhen (.bne a b off) (x.val ≠ y.val)
      ∧ takenWhen (.blt a b off) (x.val.toInt < y.val.toInt) ∧ takenWhen (.bge a b off) (y.val.toInt ≤ x.val.toInt)
      ∧ takenWhen (.bltu a b off) (x.val.toNat < y.val.toNat) ∧ takenWhen (.bgeu a b off) (y.val.toNat ≤ x.val.toNat))
    ∧ (x.pois = true ∨ y.pois = true →
      ∀ i ∈ [Instr.beq a b off, .bne a b off, .blt a b off, .bge a b off, .bltu a b off, .bgeu a b off],
        exec i s = .next (raise cPOISON s.word 0 (markRead { rs := [a, b] } s))))
  ∧ (∀ (a off j imm : Nat) (s : State), off < 2 ^ 14 → j < 2 ^ 24 → imm < 2 ^ 16 →
    let pc := (clu s).pc
    let at_ := fun (n w : Nat) (b : Addr) => BitVec.ofInt 64 (b.toNat + 4 * (if w < 2 ^ (n - 1) then (w : Int) else (w : Int) - 2 ^ n))
    let traced := fun (t : State) (to_ : Addr) =>
      traceOut t s.cur 2 s.cl (pc.toNat % 2 ^ 32 + to_.toNat % 2 ^ 32 * 2 ^ 32)
    (Clear {} s →
      (∃ t, WentTo (at_ 24 j pc) false s t ∧ exec (.jmp j) s = .next (traced t (at_ 24 j pc)))
      ∧ (∃ t, WordFrame s t ∧ (clu t).pc = at_ 24 j pc ∧ (clu t).closing = false ∧ readA (clu t) 15 = pc + 4
          ∧ (∀ r, r ≠ 15 → Quiet (clu s) .a r → readA (clu t) r = readA (clu s) r)
          ∧ (∀ r, Quiet (clu s) .s r → readS (clu t) r = readS (clu s) r)
          ∧ exec (.call j) s = .next (traced t (at_ 24 j pc))))
    ∧ (Clear { ra := [a] } s →
      let to_ := at_ 16 imm (readA (clu s) a)
      (to_.toNat % 4 = 0 → ∃ t, WentTo to_ false s t ∧ exec (.jr a imm) s = .next (traced t to_))
      ∧ (to_.toNat % 4 ≠ 0 → exec (.jr a imm) s = .next (raise cALIGN s.word to_ (markRead { ra := [a] } s))))
    ∧ (Clear { rs := [a] } s →
      ((readS (clu s) a).pois = true →
        ∃ t, WentTo (at_ 14 off pc) false s t ∧ exec (.chk a off) s = .next (traced t (at_ 14 off pc)))
      ∧ ((readS (clu s) a).pois = false → ∃ t, exec (.chk a off) s = .next t ∧ Passed s t)))
  ∧ (∀ (s : State) (n ty cl payload : Nat), (coreAt s n).kctl.getLsbD 3 = false → (ty = 1 → (coreAt s n).kctl.getLsbD 4 = false) →
    traceOut s n ty cl payload = s)

/-- LOOP with its count in a scalar or in the word, and LOOPQ: when the checks of R122 pass, l[N] becomes 0, and either level
N is active with its body at the next word, or the body is skipped: for a count of 0, or for a marker, which LOOPQ pops (R122,
R123). A violated check raises ILLEGAL, a poisoned count POISON; a LOOPQ raises QPROTO on a queue that is not its own and
waits while nothing has arrived. The closing branch of the innermost level that ends at the word just issued (R124): a count
loop with iterations left goes back to its start with l[m] + 1, and on V a rotating level steps ROTB down by 1; an exit
deactivates the level and leaves l[m], popping the marker of a stream-terminated level, and the next virtual PC stays last(m)
+ 4, unless another active level ends there, whose closing branch acts at once; a stream-terminated level waits while its
queue has no head. The deadlock count starts again unless the branch waits (R335). LBRK on an active level: with sA = 0
nothing; otherwise level N and every active level above it end, and control goes past last(N), with the closing branch of any
level that is still active there due; l[N] stays. On a level that is not active it raises ILLEGAL, on a poisoned sA POISON
(R126). LROT sets ROTB on V and does nothing elsewhere (R127). -/
def Obligations.LoopWords : Prop :=
  (∀ (n r len q c : Nat) (rot : Bool) (s : State),
    let k := clu s
    let last := k.pc + BitVec.ofNat 64 (4 * len)
    let bad := len = 0 ∨ (∃ m, n ≤ m ∧ (m, true) ∈ k.loops.map fun x => (x.1, x.2.active))
      ∨ (∃ x ∈ k.loops, x.2.active = true ∧ x.2.last < last)
    let x := readS k r
    let y := queueAt s q
    let opens := fun (i : Instr) (l : Loop) (s1 : State) =>
      ∃ t, exec i s = .next t
        ∧ WentTo (k.pc + 4) false (onClu (fun k => { k with l := fput k.l n 0, loops := fput k.loops n { l with active := true, start := k.pc + 4, last := last } }) s1) t
    let skips := fun (i : Instr) (s1 : State) =>
      ∃ t, exec i s = .next t
        ∧ WentTo (last + 4) (k.loops.any fun z => z.2.active && z.2.last == last) (onClu (fun k => { k with l := fput k.l n 0 }) s1) t
    (Clear { rs := [r] } s →
      let s1 := markRead { rs := [r] } s
      (bad → exec (.loop n r len rot) s = .next (raise cILLEGAL s.word 0 s1))
      ∧ (¬bad → x.pois = true → exec (.loop n r len rot) s = .next (raise cPOISON s.word 0 s1))
      ∧ (¬bad → x.pois = false → x.val ≠ 0 → opens (.loop n r len rot) { count := x.val.toNat, rot := rot } s1)
      ∧ (¬bad → x.pois = false → x.val = 0 → skips (.loop n r len rot) s1))
    ∧ (Clear {} s →
      let s1 := markRead {} s
      (bad → exec (.loopImm n c len rot) s = .next (raise cILLEGAL s.word 0 s1))
      ∧ (¬bad → c ≠ 0 → opens (.loopImm n c len rot) { count := c, rot := rot } s1)
      ∧ (¬bad → c = 0 → skips (.loopImm n c len rot) s1)
      ∧ (badPop y s.cl = true → exec (.loopq n q len rot) s = .next (raise cQPROTO s.word (BitVec.ofNat 64 q) s1))
      ∧ (badPop y s.cl = false → bad → exec (.loopq n q len rot) s = .next (raise cILLEGAL s.word 0 s1))
      ∧ (badPop y s.cl = false → ¬bad → headMissing y = true → exec (.loopq n q len rot) s = .next (waitOn (.pop q) s1))
      ∧ (badPop y s.cl = false → ¬bad → headMissing y = false → headMarker y = false →
          opens (.loopq n q len rot) { rot := rot, stream := true, queue := q } s1)
      ∧ (badPop y s.cl = false → ¬bad → headMarker y = true →
          skips (.loopq n q len rot) (setQueue s1 q (popN_ y 1)))))
  ∧ (∀ (m : Nat) (s : State),
    let k := clu s
    let l := loopAt k m
    let x := queueAt s l.queue
    let s0 := onClu (fun k => { k with wait := .none }) s
    let i := fget 0 k.l m
    let others := (fput k.loops m { l with active := false }).any fun y => y.2.active && y.2.last == k.pc - 4
    let exits := if l.stream = true then headMarker x = true else l.count ≤ i.toNat + 1
    let popped := if l.stream then setQueue s0 l.queue (popN_ x 1) else s0
    let started := fun (u : State) => onCore (fun c => { c with qdead := 0 }) u
    let left := fun (cb : Bool) => onClu (fun k => { k with loops := fput k.loops m { l with active := false }, wait := .none, closing := cb }) popped
    k.closing = true → m < 4 → l.active = true → l.last = k.pc - 4 →
    (∀ j, m < j → j < 4 → (loopAt k j).active = true → (loopAt k j).last ≠ k.pc - 4) →
      (l.stream = true → headMissing x = true → exec .closingBranch s = .next (waitOn (.pop l.queue) s0))
      ∧ ((l.stream = true → headMissing x = false) → ¬exits →
          let s1 := onClu (fun k => { k with l := fput k.l m (i + 1), pc := l.start, closing := false, wait := .none }) s0
          let s2 := if l.rot && s.cl = clV then onCore (fun c => { c with rotb := c.rotb - 1 }) s1 else s1
          exec .closingBranch s = .next (started (if (core s2).trctl.getLsbD 9 then
            traceOut s2 s.cur 2 s.cl ((k.pc - 4).toNat % 2 ^ 32 + l.start.toNat % 2 ^ 32 * 2 ^ 32) else s2)))
      ∧ ((l.stream = true → headMissing x = false) → exits →
          (others = false → exec .closingBranch s = .next (started (left false)))
          ∧ (others = true → let u := closeAll 3 (left true)
              exec .closingBranch s = .next (if (clu u).wait = .none then started u else u))))
  ∧ (∀ (n a imm : Nat) (s : State),
    (Clear { rs := [a] } s →
      let k := clu s
      let last := (loopAt k n).last
      let s1 := markRead { rs := [a] } s
      let x := readS k a
      ((loopAt k n).active = false → exec (.lbrk n a) s = .next (raise cILLEGAL s.word 0 s1))
      ∧ ((loopAt k n).active = true → x.pois = true → exec (.lbrk n a) s = .next (raise cPOISON s.word 0 s1))
      ∧ ((loopAt k n).active = true → x.pois = false → x.val = 0 → ∃ t, exec (.lbrk n a) s = .next t ∧ Passed s t)
      ∧ ((loopAt k n).active = true → x.pois = false → x.val ≠ 0 →
          let up := fun (l : File Loop) => l.map fun y => if n ≤ y.1 then (y.1, { y.2 with active := false }) else y
          ∃ t, WentTo (last + 4) ((up k.loops).any fun y => y.2.active && y.2.last == last)
              (onClu (fun k => { k with loops := up k.loops }) s1) t
            ∧ exec (.lbrk n a) s = .next (traceOut t s.cur 2 s.cl (k.pc.toNat % 2 ^ 32 + (last + 4).toNat % 2 ^ 32 * 2 ^ 32))))
    ∧ (Clear {} s →
      (s.cl = clV → ∃ t, exec (.lrot imm) s = .next t ∧ Passed (onCore (fun c => { c with rotb := BitVec.ofNat 5 imm }) s) t)
      ∧ (s.cl ≠ clV → ∃ t, exec (.lrot imm) s = .next t ∧ Passed s t)))

/-- BQPUSH appends 1 if sA ≠ 0 and else 0 to the outcome queue of an active cluster that no other cluster feeds, and waits
while it holds 32; it raises QPROTO on another producer or an inactive target and POISON on a poisoned sA (R65, R112, R128).
BQBR waits for an outcome, pops the oldest, and goes to its own virtual PC + 4 × sext(off24) on a 1 (R129). HSIG, HWAIT and
HTRY on counter h: the effects of R136 with QPROTO on another cluster's end and HSOVF, with the counter unchanged, above the
ceiling. What they test is the counter, and in a rendezvous the counter as it was before its cycle (R73). A signal adds 1 to
the counter and a signal taken takes 1 from it, and no other counter changes; what a signal tells its destination of A's
stores goes with it (R72). -/
def Obligations.OutcomesAndHandshakes : Prop :=
  (∀ (g a off : Nat) (s : State), off < 2 ^ 24 →
    (Clear { rs := [a] } s →
      let t := cluAt (core s) g
      let x := readS (clu s) a
      let s1 := markRead { rs := [a] } s
      let mine := t.active = true ∧ (t.outProd = none ∨ t.outProd = some s.cl)
      (¬mine → exec (.bqpush g a) s = .next (raise cQPROTO s.word (BitVec.ofNat 64 g) s1))
      ∧ (mine → x.pois = true → exec (.bqpush g a) s = .next (raise cPOISON s.word 0 s1))
      ∧ (mine → x.pois = false → 32 ≤ t.outq.length → exec (.bqpush g a) s = .next (waitFor 0 (.outq g) s1))
      ∧ (mine → x.pois = false → t.outq.length < 32 →
          ∃ u, exec (.bqpush g a) s = .next u
            ∧ Passed (onCore (fun c => putClu c g { cluAt c g with outq := (cluAt c g).outq ++ [x.val != 0], outProd := some s.cl }) s1) u))
    ∧ (Clear {} s →
      let s1 := markRead {} s
      ((clu s).outq = [] → exec (.bqbr off) s = .next (waitOn (.outq s.cl) s1))
      ∧ (∀ b r, (clu s).outq = b :: r → (core s).soft.contains (.out s.cl 0) = false →
          let s2 := onClu (fun k => { k with outq := r }) (onCore (fun c => { c with soft := outPopped s.cl c.soft }) s1)
          let to_ := BitVec.ofInt 64 ((clu s).pc.toNat + 4 * (if off < 2 ^ 23 then (off : Int) else (off : Int) - 2 ^ 24))
          (b = false → ∃ u, exec (.bqbr off) s = .next u ∧ Passed s2 u)
          ∧ (b = true → ∃ u, WentTo to_ false s2 u
              ∧ exec (.bqbr off) s = .next (traceOut u s.cur 2 s.cl ((clu s).pc.toNat % 2 ^ 32 + to_.toNat % 2 ^ 32 * 2 ^ 32))))))
  ∧ (∀ (h d : Nat) (s : State),
    let m := (hAt s h).val
    let x := fget ({} : HCnt) (match s.view with | none => (core s).h | some v => v.was.h) h
    let n := x.val
    let s0 := markRead {} s
    let s1 := markRead { ws := [d] } s
    ((hAt (signalH s h) h).val = m + 1 ∧ (hAt (takeH s h) h).val = m - 1 ∧ (hAt (takeH s h) h).ceil = (hAt s h).ceil
      ∧ ∀ j, j ≠ h → hAt (signalH s h) j = hAt s j ∧ hAt (takeH s h) j = hAt s j)
    ∧ (Clear {} s →
      (s.cl ≠ hSrc h → exec (.hsig h) s = .next (raise cQPROTO s.word (BitVec.ofNat 64 h) s0))
      ∧ (s.cl = hSrc h → x.ceil < n + 1 →
          exec (.hsig h) s = .next (raise cHSOVF s.word (BitVec.ofNat 64 (h + n * 16 + x.ceil * 256)) s0))
      ∧ (s.cl = hSrc h → n + 1 ≤ x.ceil → ∃ t, exec (.hsig h) s = .next t ∧ Passed (signalH s0 h) t)
      ∧ (s.cl ≠ hDst h → exec (.hwait h) s = .next (raise cQPROTO s.word (BitVec.ofNat 64 h) s0))
      ∧ (s.cl = hDst h → n = 0 → exec (.hwait h) s = .next (waitOn (.hs h) s0))
      ∧ (s.cl = hDst h → 1 ≤ n → ∃ t, exec (.hwait h) s = .next t ∧ Passed (takeH s0 h) t))
    ∧ (Clear { ws := [d] } s →
      (s.cl ≠ hDst h → exec (.htry d h) s = .next (raise cQPROTO s.word (BitVec.ofNat 64 h) s1))
      ∧ (s.cl = hDst h → n = 0 → ∃ t, exec (.htry d h) s = .next t ∧ WroteS 1 d { val := 0 } s t)
      ∧ (s.cl = hDst h → 1 ≤ n → ∃ t, exec (.htry d h) s = .next t ∧ WroteS 1 d { val := 1 } (takeH s1 h) t)))

/-- The scalar queue words (R130-R135). QPUT appends sA with its poison bit, QMARK a marker; both wait while the queue holds
its depth. QGET pops the oldest word, whose value comes to sD under the scoreboard; QDROP pops up to and including the next
marker, and waits after popping what has arrived while none has; QSTAT reads depth, occupancy and the two sequence numbers, in
a rendezvous as they were before its cycle (R73). A queue that is not declared, not this cluster's end, of another kind, or
with a marker before a QGET raises QPROTO. -/
def Obligations.QueueWords : Prop :=
  ∀ (q a d : Nat) (s : State),
    let x := queueAt s q
    let s0 := markRead {} s
    let proto := fun (i : Instr) (s1 : State) => exec i s = .next (raise cQPROTO s.word (BitVec.ofNat 64 q) s1)
    (Clear { rs := [a] } s →
      let s1 := markRead { rs := [a] } s
      (badPush x s.cl = true ∨ x.kind ≠ .word → proto (.qput q a) s1)
      ∧ (badPush x s.cl = false → x.kind = .word → x.depth ≤ x.ents.length → exec (.qput q a) s = .next (waitOn (.push q) s1))
      ∧ (badPush x s.cl = false → x.kind = .word → x.ents.length < x.depth →
          ∃ t, exec (.qput q a) s = .next t
            ∧ Passed (setQueue s1 q { x with ents := x.ents ++ [.elem (.word (readS (clu s) a))], pseq := x.pseq + 1 }) t))
    ∧ (Clear {} s →
      (badPush x s.cl = true → proto (.qmark q) s0)
      ∧ (badPush x s.cl = false → x.depth ≤ x.ents.length → exec (.qmark q) s = .next (waitOn (.push q) s0))
      ∧ (badPush x s.cl = false → x.ents.length < x.depth →
          ∃ t, exec (.qmark q) s = .next t ∧ Passed (setQueue s0 q { x with ents := x.ents ++ [.marker], pseq := x.pseq + 1 }) t)
      ∧ (badPop x s.cl = true → proto (.qdrop q) s0)
      ∧ (badPop x s.cl = false → ∀ es r, x.ents = es ++ .marker :: r → (∀ e ∈ es, ∃ v, e = .elem v) →
          ∃ t, exec (.qdrop q) s = .next t
            ∧ Passed (setQueue s0 q { x with ents := r, cseq := x.cseq + BitVec.ofNat 32 (es.length + 1) }) t)
      ∧ (badPop x s.cl = false → ∀ es r, x.ents = es ++ r → (∀ e ∈ es, ∃ v, e = .elem v) → (r = [] ∨ ∃ v r1, r = .hole v :: r1) →
          exec (.qdrop q) s = .next (waitFor (b2n s.view.isNone) (.pop q) (setQueue s0 q { x with ents := r, cseq := x.cseq + BitVec.ofNat 32 es.length }))))
    ∧ (Clear { ws := [d] } s →
      let s1 := markRead { ws := [d] } s
      (badPop x s.cl = true ∨ x.kind ≠ .word ∨ headMarker x = true → proto (.qget d q) s1)
      ∧ (badPop x s.cl = false → x.kind = .word → headMissing x = true → exec (.qget d q) s = .next (waitOn (.pop q) s1))
      ∧ (badPop x s.cl = false → x.kind = .word → ∀ v r, x.ents = .elem (.word v) :: r → struck s q 1 = false →
          ∃ t, exec (.qget d q) s = .next t
            ∧ Passed (sbWrite d v (setQueue s1 q { x with ents := r, cseq := x.cseq + 1 })) t)
      ∧ (x.declared = false → proto (.qstat d q 0) s1)
      ∧ (x.declared = true → let y := fget {} (match s.view with | none => (core s).q | some v => v.was.q) q
          ∀ n v, (n, v) ∈ [(0, BitVec.ofNat 32 y.depth), (1, BitVec.ofNat 32 y.ents.length), (2, y.pseq), (3, y.cseq)] →
            ∃ t, exec (.qstat d q n) s = .next t ∧ WroteS 1 d { val := v } s t))

/-- SREAD returns the register's value unpoisoned: VERID 0x0200, KCTL, CTXID, COREID, the trap registers, LSTAT, TRCTL and
OPPT of this cluster, core or package, KCTL and TRCTL inside a rendezvous as before it; ROTB on V alone, PROT elsewhere (R2,
R12, R64, R73, R138, R432, R445, R467). SWRITE of KCTL, XVPC, XVEC, TRCTL and, on V, ROTB writes the register's defined bits
and nothing else; a write that would change ERRMODE on a program core, a write of a read-only register and a write of ROTB
elsewhere raise PROT; a poisoned sA raises POISON (R112, R138, R139, R432, R445). -/
def Obligations.SystemRegisters : Prop :=
  (∀ (d : Nat) (s : State), Clear { ws := [d] } s →
    let c := core s
    let x := (clu s).x
    let reads := fun (r : SysReg) (v : Word) => ∃ t, exec (.sread d r) s = .next t ∧ WroteS 1 d { val := v } s t
    reads .verid 0x0200 ∧ reads .patchh (patchhOf s) ∧ reads .kctl (coreSeen s).kctl ∧ reads .ctxid (ctxidOf c.task.ctx c.task.sib)
    ∧ (s.cur < 512 → reads .coreid (BitVec.ofNat 32 s.cur))
    ∧ (∀ k < 4, s.cur = 512 + k → reads .coreid (BitVec.ofNat 32 (512 + 128 * k)))
    ∧ reads .oppt (BitVec.ofNat 32 (s.power.point + s.power.target * 8 + b2n s.power.pend * 64))
    ∧ reads .xcause x.cause ∧ reads .xinfo x.info ∧ reads .xvpc x.vpc ∧ reads .xaddrl (BitVec.ofNat 32 x.addr.toNat)
    ∧ reads .xaddrh (BitVec.ofNat 32 (x.addr.toNat / 2 ^ 32)) ∧ reads .xcutp x.cutp ∧ reads .xframe x.frame
    ∧ reads .xvec x.vec ∧ reads .lstat (lstatOf (clu s)) ∧ reads .trctl (coreSeen s).trctl
    ∧ (s.cl = clV → reads .rotb (BitVec.ofNat 32 c.rotb.toNat))
    ∧ (s.cl ≠ clV → exec (.sread d .rotb) s = .next (raise cPROT s.word 0 (markRead { ws := [d] } s))))
  ∧ (∀ (a : Nat) (s : State), Clear { rs := [a] } s →
    let x := readS (clu s) a
    let s1 := markRead { rs := [a] } s
    let v := x.val
    let writes := fun (r : SysReg) (u : State) => ∃ t, exec (.swrite a r) s = .next t ∧ Passed u t
    let prot := fun (r : SysReg) => exec (.swrite a r) s = .next (raise cPROT s.word 0 s1)
    (x.pois = true → ∀ r, exec (.swrite a r) s = .next (raise cPOISON s.word 0 s1))
    ∧ (x.pois = false →
      (v.getLsbD 2 = (core s).kctl.getLsbD 2 ∨ 512 ≤ s.cur → writes .kctl (onCore (fun c => { c with kctl := v &&& 0x1F }) s1))
      ∧ (v.getLsbD 2 ≠ (core s).kctl.getLsbD 2 → s.cur < 512 → prot .kctl)
      ∧ writes .xvpc (onClu (fun k => { k with x := { k.x with vpc := v } }) s1)
      ∧ writes .xvec (onClu (fun k => { k with x := { k.x with vec := v &&& 0xFFFFFF } }) s1)
      ∧ writes .trctl (onCore (fun c => { c with trctl := v &&& 0x3FF }) s1)
      ∧ (s.cl = clV → writes .rotb (onCore (fun c => { c with rotb := BitVec.ofNat 5 v.toNat }) s1))
      ∧ (s.cl ≠ clV → prot .rotb)
      ∧ ∀ r ∈ [SysReg.verid, .patchh, .ctxid, .coreid, .oppt, .xcause, .xinfo, .xaddrl, .xaddrh, .xcutp, .xframe, .lstat], prot r))

/-- NOP changes no state but the place of the next word, and counts as an issued word (R145); TICK reads the package time in
halves (R143); FENCE goes on (R141, R142). What a FENCE does to the caches is the model's choice (notes/assumptions/7.md,
38.md): at core scope nothing; at bench scope or wider it writes back the core's stores that no held set lists, where it
selects stores, and drops clean copies, whichever cluster executes it. With the load class the queue loads before it have read
their bytes (notes/assumptions/8.md), and with the code class the core's stores to code of its context are performed and its
translations on the die are looked up afresh. -/
def Obligations.NopTickFence : Prop :=
  ∀ (d : Nat) (sc : Scope) (l st code : Bool) (s : State),
    (∃ t, exec .nop s = .next t ∧ Passed s t)
    ∧ (Clear { ws := [d] } s →
      (∃ t, exec (.tick d false) s = .next t ∧ WroteS 1 d { val := BitVec.ofNat 32 (s.ns % 2 ^ 32) } s t)
      ∧ (∃ t, exec (.tick d true) s = .next t ∧ WroteS 1 d { val := BitVec.ofNat 32 (s.ns / 2 ^ 32) } s t))
    ∧ (Clear {} s →
      let read := if l then onCore (fun c => { c with late := [] }) (markRead {} s) else markRead {} s
      let looked := fun (u : State) => if code then fenceCode u s.cur (core u).task.ctx else u
      ((sc = .cl ∨ sc = .core) → ∃ t, exec (.fence sc l st code) s = .next t ∧ Passed (looked read) t)
      ∧ (sc ≠ .cl → sc ≠ .core →
        let out := if st then writeUnheld (fun _ => true) s.cur read else read
        ∃ t, exec (.fence sc l st code) s = .next t
          ∧ Passed (looked (dropClean (fun x => !x.kindU) s.cur out)) t))

/-- TRAP raises SWTRAP and BRK raises BREAK, with XINFO := zext(imm19), at their own virtual PC (R144). A reserved encoding
raises ILLEGAL with XINFO := the word (R106); a word of LOOP or LOOPQ of another kind raises ILLEGAL, a LOOPQ only after its
queue was checked (R122, R123); a word that could not be read raises XLATE with the reason in XINFO and the virtual PC as its
address, and its entry becomes Stale (R316). -/
def Obligations.SoftwareTrapsAndStubs : Prop :=
  ∀ (imm : Nat) (s : State), imm < 2 ^ 19 →
    exec (.trap imm) s = .next (raise 0x0F (BitVec.ofNat 32 imm) 0 s)
    ∧ exec (.brk imm) s = .next (raise 0x10 (BitVec.ofNat 32 imm) 0 s)
    ∧ exec .trapStub s = .next (raise 0x01 s.word 0 s)
    ∧ (∀ r, r < 256 → s.word = BitVec.ofNat 32 r →
        exec .xlateStub s = .next (raise 0x0E (BitVec.ofNat 32 r) (clu s).pc (staleCode s (core s).task.ctx (dieOf s.cur) (clu s).base)))
    ∧ (Clear {} s → fieldOf s.word.toNat 29 24 = 0x21 →
        exec .loopIllegalKind s = .next (raise 0x01 s.word 0 (markRead {} s)))
    ∧ (Clear {} s → fieldOf s.word.toNat 29 24 = 0x22 → badPop (queueAt s (fieldOf s.word.toNat 17 14)) s.cl = false →
        exec .loopIllegalKind s = .next (raise 0x01 s.word 0 (markRead {} s)))

/-- A core takes the trap that its lowest-numbered cluster raised (`Lowest`) into a handler: at level 0 with XVEC ≠ 0 into
level 1, and at level 1 after TACK into level 2 at the same XVEC. First the closing branches that are due act, C's
scoreboarded results land and the issued MMAs complete, and while a die-engine token of C is on its way the core waits (the
model's choice, notes/assumptions/9.md, 41.md). The frame of the new level holds the cause, the trapping cluster, XINFO,
XADDR, the virtual PC of the trapping word, the time, KCTL and every cluster as it then stood, with what it waits on there;
every cluster's X registers take the trap's values, XCUTP with a bit for each queue that holds a hole and one for each that is
not empty, XFRAME with the trapping cluster, the level and each cluster's ACTIVE, LAND and RVDONE bits; an ENGERR has reported
its token (R167); pending results are no longer on their way; C's loop levels are inactive and C stands at its stream start +
4 × XVEC; scalars, address registers, queues, counters, outcome queues, tiles, accumulators, slots, vector and predicate
registers stay (R429, R431-R433, R436). -/
def Obligations.TrapEntry : Prop :=
  ∀ (r : TrapReq) (lv : Nat) (s : State),
    let s1 := closeDue s
    let c0 := landSb clC (finishMma (core s1))
    let c := { c0 with cmds := lmap (fun x => r.tok == some x.id) (fun x => { x with reported := true }) c0.cmds }
    Lowest r (core s).treq →
    ((cluAt (core s) clC).tokPend ≠ [] → exec .trapTaken s = .next s)
    ∧ ((cluAt (core s) clC).tokPend = [] → (cluAt c clC).x.vec ≠ 0 →
      ((core s).level = 0 ∧ lv = 1) ∨ ((core s).level = 1 ∧ (core s).tacked = true ∧ lv = 2) →
      (cluAt c clC).sb = [] ∧ c.mma = [] ∧
      ∃ t, exec .trapTaken s = .next t ∧ (core t).level = lv ∧ (core t).tacked = false ∧ (core t).treq = []
        ∧ (∀ i, i < 4 → (cluAt (core t) i).pend = [] ∧ (cluAt (core t) i).wait = .none
            ∧ (cluAt (core t) i).x.cause = BitVec.ofNat 32 r.cause ∧ (cluAt (core t) i).x.info = r.info
            ∧ (cluAt (core t) i).x.addr = r.addr ∧ (cluAt (core t) i).x.vpc = BitVec.ofNat 32 (cluAt c r.cl).pc.toNat
            ∧ (cluAt (core t) i).x.vec = (cluAt c i).x.vec
            ∧ (i ≠ clC → (cluAt (core t) i).pc = (cluAt c i).pc)
            ∧ ((c.q.map (·.1)).Nodup → (∀ x ∈ c.q, x.1 < 16) → ∀ j, j < 16 →
                (cluAt (core t) i).x.cutp.getLsbD j = (fget ({} : Queue) c.q j).ents.any (fun e => match e with | .hole _ => true | _ => false)
                ∧ (cluAt (core t) i).x.cutp.getLsbD (16 + j) = !(fget ({} : Queue) c.q j).ents.isEmpty)
            ∧ (r.cl < 4 → let w := (cluAt (core t) i).x.frame
                w.toNat % 4 = r.cl ∧ w.toNat / 4 % 4 = lv ∧ w.getLsbD 4 = false
                ∧ ∀ j, j < 4 → w.getLsbD (5 + j) = (cluAt c j).active ∧ w.getLsbD (9 + j) = !(cluAt c j).pend.isEmpty
                  ∧ w.getLsbD (13 + j) = (cluAt c j).rvDone))
        ∧ (cluAt (core t) clC).pc = (cluAt c clC).base + BitVec.ofNat 64 (4 * ((cluAt c clC).x.vec.toNat % 2 ^ 24))
        ∧ (∀ x ∈ (cluAt (core t) clC).loops, x.2.active = false)
        ∧ (∀ i, i < 4 → (cluAt (core t) i).s = (cluAt c i).s ∧ (cluAt (core t) i).a = (cluAt c i).a ∧ (cluAt (core t) i).outq = (cluAt c i).outq)
        ∧ (core t).q = c.q ∧ (core t).h = c.h ∧ (core t).t = c.t ∧ (core t).c = c.c ∧ (core t).w = c.w ∧ (core t).v = c.v ∧ (core t).p = c.p ∧ (core t).cmds = c.cmds
        ∧ (let f := fget ({} : Frame) (core t).frames lv
           f.cause = r.cause ∧ f.cl = r.cl ∧ f.info = r.info ∧ f.addr = r.addr ∧ f.vpc = (cluAt c r.cl).pc ∧ f.time = s.ns
             ∧ f.kctl = c.kctl ∧ f.q = c.q ∧ f.h = c.h
             ∧ ∀ i, fget ({} : Clu) f.clu i = { cluAt c i with
                 wait := if i = r.cl ∨ fhas c.clu i = false then (cluAt c i).wait else standsFor s1 c i }))

/-- A word that raises a trap has no effect, and the core takes the trap at once outside a rendezvous; inside one it stands
after those that its group has raised already, and the trap of the lowest-numbered cluster is taken after the group (R73,
R429; which one is taken is said in TrapEntry and UntakenTrapAndRescue). An untaken trap, and Rescue: with XVEC = 0 at level 0
the frame of level 1 is written and the tile is abandoned with REASON FAULT, 4; a fault of the level-1 handler before TACK
leaves the level-1 frame and writes NESTED, the fault's cause and its address into the level-2 frame; a fault of the level-2
handler is kept in the NEST bytes of the level-2 frame; both abandon the tile with REASON RESCUE, 3, and C's XCAUSE, XINFO and
XADDR show NESTED, the cause and the address. A trap of the level-1 handler after TACK with XVEC = 0 is an untaken trap with
two frames (the model's choice, notes/assumptions/9.md). The firmware core of the die receives the frames (R429, R436). Each
clause speaks of the trap of the lowest-numbered cluster that raised one. -/
def Obligations.RaisedAndUntakenTraps : Prop :=
  (∀ (cause : Nat) (info : Word) (addr : Addr) (s : State),
    let u := onCore (fun c => { c with treq := c.treq ++ [{ cl := s.cl, cause := cause, info := info, addr := addr }] })
      (onClu (fun k => { k with wait := .none }) s)
    (s.view = none → raise cause info addr s = takeTrap u ∧ exec .trapTaken u = .next (raise cause info addr s))
    ∧ (s.view ≠ none → raise cause info addr s = u))
  ∧ (∀ (r : TrapReq) (s : State),
    let s1 := closeDue s
    let c := landSb clC (finishMma (core s1))
    (∀ k n, n ≤ 2 → fget [] (abandon k n s).notices (dieOf s.cur) = fget [] s.notices (dieOf s.cur)
        ++ (List.range n).map fun i => Notice.frame s.cur (i + 1) (fget {} (core s).frames (i + 1)))
    ∧ ((cluAt (core s) clC).tokPend = [] → Lowest r (core s).treq →
      (c.level = 0 → (cluAt c clC).x.vec = 0 →
        ∃ d, exec .trapTaken s = .next (abandon 4 1 (setCore s1 d)) ∧ d.task = c.task ∧ d.treq = []
          ∧ (fget ({} : Frame) d.frames 1).cause = r.cause ∧ (fget ({} : Frame) d.frames 1).vpc = (cluAt c r.cl).pc
          ∧ (cluAt d clC).x.cause = BitVec.ofNat 32 r.cause)
      ∧ (c.level = 1 → c.tacked = true → (cluAt c clC).x.vec = 0 →
        ∃ d, exec .trapTaken s = .next (abandon 4 2 (setCore s1 d)) ∧ d.task = c.task ∧ fget ({} : Frame) d.frames 1 = fget {} c.frames 1
          ∧ (fget ({} : Frame) d.frames 2).cause = r.cause ∧ (fget ({} : Frame) d.frames 2).vpc = (cluAt c r.cl).pc)
      ∧ (c.level = 1 → c.tacked = false →
        ∃ d, exec .trapTaken s = .next (abandon 3 2 (setCore s1 d)) ∧ d.task = c.task
          ∧ fget ({} : Frame) d.frames 1 = fget {} c.frames 1
          ∧ (fget ({} : Frame) d.frames 2).cause = 0x11 ∧ (fget ({} : Frame) d.frames 2).info = BitVec.ofNat 32 r.cause
          ∧ (fget ({} : Frame) d.frames 2).addr = r.addr
          ∧ (cluAt d clC).x.cause = 0x11 ∧ (cluAt d clC).x.info = BitVec.ofNat 32 r.cause ∧ (cluAt d clC).x.addr = r.addr)
      ∧ (c.level = 2 →
        ∃ d, exec .trapTaken s = .next (abandon 3 2 (setCore s1 d)) ∧ d.task = c.task
          ∧ fget ({} : Frame) d.frames 1 = fget {} c.frames 1
          ∧ fget ({} : Frame) d.frames 2 = { fget ({} : Frame) c.frames 2 with nestCause := r.cause, nestInfo := r.info, nestAddr := r.addr }
          ∧ (cluAt d clC).x.cause = 0x11 ∧ (cluAt d clC).x.info = BitVec.ofNat 32 r.cause ∧ (cluAt d clC).x.addr = r.addr)))

/-- TRET in a handler: C's scalars, address registers, loop indices and loop levels are those of the frame of the current
level; the errors of those registers are those of the frame; every cluster's pending results are re-armed, but for those of
scalars that a later scoreboarded result has reached, before the trap or since (R75, R471); every cluster stands at its saved
virtual PC, the trapping one at C's XVPC under the upper half of its saved PC, plus 4 after SWTRAP and BREAK; the level drops
by one and TACKED is cleared; queues and counters keep what the handler left, but that where A trapped and returns to another
word than it left the queue load that it had begun to refill is forgotten; a word of a rendezvous that waited on goes on
against what the handler left (R276, R437, R438). It waits while a scoreboarded result of the handler is on its way to a
scalar of C, as it writes them all (R76). Outside a handler TRET raises ILLEGAL. TACK in a handler that has done nothing that
counts marks the level TACKED in the core, the frame and every cluster's XFRAME; outside a handler, or after a word that
counts, it raises ILLEGAL (R276, R432, R437). A second TACK has no effect. Where TACK is no longer valid is the model's choice
(notes/assumptions/26.md). -/
def Obligations.TrapReturnAndAcknowledge : Prop :=
  (∀ (s : State),
    let u : Use := { ws := List.range 32 }
    let c := core s
    let f := fget ({} : Frame) c.frames c.level
    let xv := (cluAt c clC).x.vpc
    let at_ := fun (i : Nat) => fget ({} : Clu) f.clu i
    (blocked (clu s) u = true → exec .tret s = .next (waitOn .score s))
    ∧ (Clear u s → c.level = 0 → exec .tret s = .next (raise cILLEGAL s.word 0 (markRead u s)))
    ∧ (Clear u s → c.level ≠ 0 → ∃ t, exec .tret s = .next t ∧ (core t).level = c.level - 1 ∧ (core t).tacked = false
        ∧ (cluAt (core t) clC).s = (at_ clC).s ∧ (cluAt (core t) clC).a = (at_ clC).a
        ∧ (cluAt (core t) clC).l = (at_ clC).l ∧ (cluAt (core t) clC).loops = (at_ clC).loops
        ∧ (∀ i, i < 4 → (cluAt (core t) i).pend = (at_ i).pend.filter (fun l => !(l.kind == .s && (l.old || f.landed.contains (i, l.reg))))
            ∧ (i ≠ f.cl → (cluAt (core t) i).pc = (at_ i).pc)
            ∧ (i = f.cl → (cluAt (core t) i).pc = ((((at_ i).pc >>> 32) <<< 32) ||| xv.setWidth 64)
                + (if f.cause = 0x0F ∨ f.cause = 0x10 then 4 else 0)))
        ∧ (core t).soft = (c.soft.filter fun x => !restored x) ++ f.soft
        ∧ (∀ j, { queueAt t j with refill := none } = { queueAt s j with refill := none })
        ∧ ((f.cl ≠ clA ∨ xv = BitVec.ofNat 32 (at_ clA).pc.toNat) → (core t).q = c.q)
        ∧ fhas t.groupAt s.cur = false
        ∧ (core t).h = c.h ∧ (core t).v = c.v ∧ (core t).p = c.p ∧ (core t).t = c.t ∧ (core t).c = c.c ∧ (core t).w = c.w ∧ (core t).kctl = c.kctl))
  ∧ (∀ (s : State), Clear {} s →
    let c := core s
    let s0 := markRead {} s
    ((c.level = 0 ∨ c.tackOk = false) → exec .tack s = .next (raise cILLEGAL s.word 0 s0))
    ∧ (c.level ≠ 0 → c.tackOk = true → c.tacked = true → ∃ t, exec .tack s = .next t ∧ Passed s t)
    ∧ (c.level ≠ 0 → c.tackOk = true → c.tacked = false →
        ∃ t, exec .tack s = .next t ∧ (core t).tacked = true ∧ (core t).level = c.level ∧ (core t).q = c.q ∧ (core t).h = c.h
          ∧ (fget ({} : Frame) (core t).frames c.level).flags = setFld (fget ({} : Frame) c.frames c.level).flags 4 4 1
          ∧ (∀ i, i < 4 → (cluAt (core t) i).x.frame = BitVec.ofNat 32 (setFld (cluAt c i).x.frame.toNat 4 4 1))
          ∧ (clu t).pc = (clu s).pc + 4 ∧ SameMem s t))

/-- A core's weak access brings its sector into the core's L1: nothing changes where it holds the sector for this kind of
access under this key pair; a new copy, and the bytes that the core has not stored of a copy that only U accesses used, are
what the device scope holds as the key pair reads it; a copy of another key pair is evicted first. A weak store of a byte then
is what the core reads there next; every other byte reads as it did with the sector fetched, and no other core and no engine
sees it yet (R147, R369, R371). The spec gives no order of fetches and evictions (R403-R408): when a sector is fetched,
refreshed and evicted is the model's choice (log entry 7), and so is what a pair reads of a sector that another encrypted (log
entry 12). A strong store of a byte under a key pair is what every access under that pair reads there next, but for a core
that has a store of its own to the byte, which stands later in coherence order; an engine's write is what every core reads.
Every other byte reads as before under that pair, for every one of them (R147, R154, R165, R371, R404). Where another core's
own store stands in coherence order, and the reads under a key pair, are the model's choice (log entries 7 and 12). A store of
bytes to a mapped page that no fork copies changes the bytes it names and no other: a weak one to a C or U page is what its
own core reads there, and where the core's copies serve it every other path reads as before; a strong one, or one to an S
page, flushes the core's sectors first and is then what every access under the page's key pair reads there, but for a core
that has a store of its own to the byte; any other byte reads as it does with the sectors flushed (R147, R149, R154, R369,
R371, R404). The flush and the copies are the model's way to keep R403-R408 (log entry 7), the reads under a key pair its
choice (log entry 12). A store to the vault changes the bytes it names and no other byte of the vault or of memory, and clears
the damage mark of each 64-byte sector that it covers whole (R146, R399). A weak read of a byte of a C or U page brings its
sector into the core's L1 and gives the byte that stands there; a read of the vault changes nothing. A strong read, or one of
an S page, gives the byte that a REL of the core holds, and else what the device scope holds once the core's own stores there
are written back (R147, R154, R369); the copies and their write-back are the model's way to keep R403-R408 (log entry 7), the
key pairs its choice (log entry 12). -/
def Obligations.BytesOfMemory : Prop :=
  (∀ (s : State) (n k km : Nat) (u : Bool),
    let f := fillSector s n k u km
    let others := devByte f = devByte s ∧ f.sealed = s.sealed ∧ (∀ x a, vaultByte f x a = vaultByte s x a)
      ∧ (∀ m kx j, m ≠ n → weakByte f m kx j = weakByte s m kx j)
    (∀ x, sectorOf (coreAt s n).l1 k = some x → x.kmat = km → (x.kindU = false ∨ u = true) → f = s)
    ∧ (sectorOf (coreAt s n).l1 k = none → others
        ∧ ∀ kx j, weakByte f n kx j = if j / 64 = k / 64 then plainByte s km j else weakByte s n kx j)
    ∧ (∀ x, sectorOf (coreAt s n).l1 k = some x → x.kmat = km → x.kindU = true → u = false → others
        ∧ ∀ kx j, weakByte f n kx j = if j / 64 = k / 64 ∧ x.dirty.getLsbD (j % 64) = false then plainByte s km j else weakByte s n kx j)
    ∧ (∀ x, sectorOf (coreAt s n).l1 k = some x → x.kmat ≠ km →
        let e := evictAll (fun y => y.key == k / 64) n s
        sectorOf (coreAt e n).l1 k = none ∧ f = fillSector e n k u km)
    ∧ (∀ b,
        let t := weakPut s n k u km b
        (∀ kx j, weakByte t n kx j = if j = k then b else weakByte f n kx j)
        ∧ (∀ j, devByte t j = devByte f j) ∧ t.sealed = f.sealed
        ∧ (∀ m kx j, m ≠ n → weakByte t m kx j = weakByte f m kx j)
        ∧ (∀ x a, vaultByte t x a = vaultByte f x a)))
  ∧ (∀ (s : State) (n km k : Nat) (b : Byte), k < windowKey →
    let own := fun (m : Nat) => m ≠ n ∧ ∃ x, sectorOf (coreAt s m).l1 k = some x ∧ x.dirty.getLsbD (k % 64) = true
    (∀ j, plainByte (corePut s n km k b) km j = if j = k then b else plainByte s km j)
    ∧ (∀ m j, (¬(j = k ∧ own m) → weakByte (corePut s n km k b) m km j = if j = k then b else weakByte s m km j)
        ∧ (own m → weakByte (corePut s n km k b) m km k = weakByte s m km k))
    ∧ (∀ x a, vaultByte (corePut s n km k b) x a = vaultByte s x a)
    ∧ (∀ j, plainByte (keyPut s km k b) km j = if j = k then b else plainByte s km j)
    ∧ (∀ m j, weakByte (keyPut s km k b) m km j = if j = k then b else weakByte s m km j)
    ∧ (∀ x a, vaultByte (keyPut s km k b) x a = vaultByte s x a))
  ∧ (∀ (s : State) (strong : Bool) (bs : List Byte) (ea : Nat) (l : BitVec 64),
    lookLeaf (core s) (ea / 65536) = some l → leafF l = false → ea % 65536 + bs.length ≤ 65536 →
    let k := frameKey (leafTier l) (leafPfn l) (ea % 65536)
    let km := keyMat s (core s).task.ctx l
    let t := storeBytes strong false bs ea s
    let f := loopN (fun i x => flushSector x s.cur (k + i)) bs.length s
    let within := fun (j : Nat) => k ≤ j ∧ j < k + bs.length
    k + bs.length ≤ windowKey →
      (∀ x a, vaultByte t x a = vaultByte s x a)
      ∧ (strong = false → leafKind l ≠ 0 →
          (∀ kx j, within j → weakByte t s.cur kx j = bs.getD (j - k) 0)
          ∧ ((∀ x ∈ (core s).l1, x.kmat = km ∧ (x.kindU = true → leafKind l = 2)) →
              (∀ j, weakByte t s.cur km j = if k ≤ j ∧ j < k + bs.length then bs.getD (j - k) 0 else weakByte s s.cur km j)
              ∧ (∀ j, devByte t j = devByte s j) ∧ t.sealed = s.sealed ∧ (∀ m kx j, m ≠ s.cur → weakByte t m kx j = weakByte s m kx j)))
      ∧ (strong = true ∨ leafKind l = 0 →
          (∀ j, plainByte t km j = if k ≤ j ∧ j < k + bs.length then bs.getD (j - k) 0 else plainByte f km j)
          ∧ (∀ m j, m ≠ s.cur → ¬within j → weakByte t m km j = weakByte f m km j)
          ∧ (∀ m j, m ≠ s.cur → within j → (∀ x, sectorOf (coreAt s m).l1 j = some x → x.dirty.getLsbD (j % 64) = false) →
              weakByte t m km j = bs.getD (j - k) 0)
          ∧ ((∀ x ∈ (core s).l1, x.kmat = km) →
              ∀ j, weakByte t s.cur km j = if k ≤ j ∧ j < k + bs.length then bs.getD (j - k) 0 else weakByte f s.cur km j)))
  ∧ (∀ (s : State) (strong : Bool) (bs : List Byte) (ea : Nat),
    let t := storeBytes strong true bs ea s
    (∀ x a, vaultByte t x a = if ea ≤ a ∧ a < ea + bs.length then bs.getD (a - ea) 0 else vaultByte s x a)
    ∧ (∀ k, devByte t k = devByte s k) ∧ (∀ n km k, weakByte t n km k = weakByte s n km k)
    ∧ (∀ x, x ∈ t.badVault ↔ x ∈ s.badVault ∧ ¬(ea ≤ x * 64 ∧ x * 64 + 64 ≤ ea + bs.length)))
  ∧ (∀ (s : State) (strong sp : Bool) (ea : Nat),
    let r := readByte strong sp ea s
    let c := core s
    (sp = true → r.1 = vaultByte s c.task.ctx ea ∧ r.2 = s)
    ∧ (sp = false → ∀ l, lookLeaf c (ea / 65536) = some l →
        let k := readKey s c.task.ctx c.task.sib (ea / 65536) l (ea % 65536)
        let km := keyMat s c.task.ctx l
        (strong = false → leafKind l ≠ 0 →
          r.2 = fillSector s s.cur k (leafKind l == 2) km ∧ r.1 = weakByte r.2 s.cur km k)
        ∧ (strong = true ∨ leafKind l = 0 → r.2 = flushSector s s.cur k
          ∧ (∀ x, sectorOf (coreAt r.2 s.cur).l1 k = some x → x.dirty.getLsbD (k % 64) = true → r.1 = weakByte r.2 s.cur km k)
          ∧ ((∀ x, sectorOf (coreAt r.2 s.cur).l1 k = some x → x.dirty.getLsbD (k % 64) = false) → r.1 = plainByte r.2 km k))))

/-- LD, LDS, LDA and LDX with MU = 0 at aA + 4 × sext(off): the little-endian word comes to sT under the scoreboard; LDA reads
strongly and acquires; an honoured LDX discards the sector it read. An address off a word boundary raises ALIGN, and the first
failed check of R148 its cause with its address; LDS instead gives 0 with the poison bit. A page that the lookaside array does
not hold joins or starts a walk; where a register read is damaged LDS gives 0 with the poison bit, the others raise MEMERR
(R146-R154, R471). ST and STL with MU = 0: the unpoisoned word goes, little-endian, to the four bytes from aA + 4 × sext(off)
on; STL is strong and releases the core's weak stores first. POISON, ALIGN and the checks of R148 come in this order, with no
effect (R146-R154). -/
def Obligations.ScalarLoadsAndStores : Prop :=
  (∀ (d a off ch : Nat) (sp : Bool) (s : State), off < 2 ^ 11 →
    let u : Use := { ra := [a], ws := [d] }
    let m := markRead u s
    let ea := (BitVec.ofInt 64 ((readA (clu s) a).toNat + 4 * (if off < 2 ^ 10 then (off : Int) else (off : Int) - 2 ^ 11))).toNat
    let chk := pchk m [{ sp := sp, wr := false, rd := true, ea := ea, n := 4 }]
    let strong := pchk m [{ sp := sp, wr := false, rd := true, ea := ea, n := 4, st := true }]
    let w := readBytes false sp 4 ea (dropWalkBad m)
    let g := readBytes true sp 4 ea (dropWalkBad m)
    let loads := fun (i : Instr) (v : Scalar) (t : State) => ∃ x, exec i s = .next x ∧ Passed (sbWrite d v t) x
    (blocked (clu s) u = false → (latchk (coreSeen s) = true → latwinAt (core s) s.cl u = none) → softHit (core s) s.cl u = true →
      (∀ i ∈ [Instr.ld d a off ch false sp, .lda d a off ch false sp, .ldx d a off ch false sp], exec i s = .next (raise cMEMERR s.word 0 m))
      ∧ loads (.lds d a off ch false sp) { val := 0, pois := true } m)
    ∧ (Clear u s →
      (ea % 4 ≠ 0 → (∀ i ∈ [Instr.ld d a off ch false sp, .lda d a off ch false sp, .ldx d a off ch false sp],
            exec i s = .next (raise cALIGN s.word (BitVec.ofNat 64 ea) m))
          ∧ loads (.lds d a off ch false sp) { val := 0, pois := true } m)
      ∧ (ea % 4 = 0 → chk = .ok →
          loads (.ld d a off ch false sp) { val := wordOf w.1 } w.2 ∧ loads (.lds d a off ch false sp) { val := wordOf w.1 } w.2
          ∧ loads (.ldx d a off ch false sp) { val := wordOf w.1 } (discard sp ea w.2))
      ∧ (ea % 4 = 0 → strong = .ok → loads (.lda d a off ch false sp) { val := wordOf g.1 } (acquireAll g.2))
      ∧ (∀ c x, ea % 4 = 0 → strong = .bad c x →
          exec (.lda d a off ch false sp) s = .next (raise c s.word (BitVec.ofNat 64 x) (dropWalkBad m)))
      ∧ (∀ p, ea % 4 = 0 → strong = .walk p → exec (.lda d a off ch false sp) s = .next (startWalk p m))
      ∧ (∀ c x, ea % 4 = 0 → chk = .bad c x →
          (∀ i ∈ [Instr.ld d a off ch false sp, .ldx d a off ch false sp],
            exec i s = .next (raise c s.word (BitVec.ofNat 64 x) (dropWalkBad m)))
          ∧ loads (.lds d a off ch false sp) { val := 0, pois := true } (dropWalkBad m))
      ∧ (∀ p, ea % 4 = 0 → chk = .walk p → ∀ i ∈ [Instr.ld d a off ch false sp, .lds d a off ch false sp, .ldx d a off ch false sp],
          exec i s = .next (startWalk p m))))
  ∧ (∀ (d a off ch : Nat) (sp : Bool) (s : State), off < 2 ^ 11 →
    let u : Use := { rs := [d], ra := [a] }
    let m := markRead u s
    let x := readS (clu s) d
    let ea := (BitVec.ofInt 64 ((readA (clu s) a).toNat + 4 * (if off < 2 ^ 10 then (off : Int) else (off : Int) - 2 ^ 11))).toNat
    let chk := pchk m [{ sp := sp, wr := true, rd := false, ea := ea, n := 4 }]
    let bytes := [BitVec.ofNat 8 x.val.toNat, BitVec.ofNat 8 (x.val.toNat / 2 ^ 8), BitVec.ofNat 8 (x.val.toNat / 2 ^ 16), BitVec.ofNat 8 (x.val.toNat / 2 ^ 24)]
    let both := [Instr.st d a off ch false sp, .stl d a off ch false sp]
    Clear u s →
      (x.pois = true → ∀ i ∈ both, exec i s = .next (raise cPOISON s.word 0 m))
      ∧ (x.pois = false → ea % 4 ≠ 0 → ∀ i ∈ both, exec i s = .next (raise cALIGN s.word (BitVec.ofNat 64 ea) m))
      ∧ (∀ c y, x.pois = false → ea % 4 = 0 → chk = .bad c y → ∀ i ∈ both, exec i s = .next (raise c s.word (BitVec.ofNat 64 y) (dropWalkBad m)))
      ∧ (x.pois = false → ea % 4 = 0 → chk = .ok →
          (∃ t, exec (.st d a off ch false sp) s = .next t ∧ Passed (storeBytes false sp bytes ea (dropWalkBad m)) t)
          ∧ (∃ t, exec (.stl d a off ch false sp) s = .next t ∧ Passed (storeBytes true sp bytes ea (releaseAll (dropWalkBad m))) t)))

/-- LDQS, LDQ and LDT with MU = 0: a queue load by its queue's producer, on a queue of its kind with room, reserves the newest
slot, and the element that memory holds will fill it, or the one that it holds when the data land (notes/assumptions/8.md); a
failed check raises its cause and keeps the slot as a hole, and so does a damaged address register; another queue raises
QPROTO, a full one is waited on, unless the word is run again that left its newest hole (R156, R157, R471). What a queue load
reserves and how it lands: the newest slot is a hole that holds the data, and the produced sequence number advances; a load
that is run again after a fault takes the hole that it left; the landing turns the oldest hole whose data has arrived into an
element at its place, and touches no other entry (R67, R157, R333). Where nothing since has bound the load to the bytes that
it read, the device may read them as late as the landing, at its choice, and the loads before it read theirs no later (R157,
R412; notes/assumptions/8.md). STQ and STT with MU = 0: the head, unpoisoned, is popped and written, little-endian, from aA +
size × sext(off) on when no check fails; a marker, another kind or another cluster's queue raises QPROTO, a poisoned lane
POISON; a head that has not arrived is waited on (R156, R158). -/
def Obligations.QueueLoadsAndStores : Prop :=
  (∀ (q a off ch : Nat) (sp : Bool) (kd : QKind) (s : State), off < 2 ^ 11 →
    let u : Use := { ra := [a] }
    let m := markRead u s
    let x := queueAt s q
    let n : Nat := match kd with | .word => 4 | .vec => 2048 | .tile => 16384
    let i := match kd with | .word => Instr.ldqs q a off ch false sp | .vec => .ldq q a off ch false sp | .tile => .ldt q a off ch false sp
    let ea := (BitVec.ofInt 64 ((readA (clu s) a).toNat + n * (if off < 2 ^ 10 then (off : Int) else (off : Int) - 2 ^ 11))).toNat
    let chk := pchk m [{ sp := sp, wr := false, rd := true, ea := ea, n := n }]
    let r := readBytes false sp n ea (dropWalkBad m)
    let mis := ea % (if kd = .word then 4 else 64) ≠ 0
    let room := x.refill = some (clu s).pc ∨ x.ents.length < x.depth
    (blocked (clu s) u = false → (latchk (coreSeen s) = true → latwinAt (core s) s.cl u = none) →
      (errmode (coreSeen s) = false → errToken (core s) s.cl u = none) → softHit (core s) s.cl u = true →
      badPush x s.cl = false → x.kind = kd → room →
        exec i s = .next (raise cMEMERR s.word 0 (reserve q none m)))
    ∧ (Clear u s →
      ((badPush x s.cl = true ∨ x.kind ≠ kd) → exec i s = .next (raise cQPROTO s.word (BitVec.ofNat 64 q) m))
      ∧ (badPush x s.cl = false → x.kind = kd → ¬room → exec i s = .next (waitOn (.push q) m))
      ∧ (badPush x s.cl = false → x.kind = kd → room →
          (mis → exec i s = .next (raise cALIGN s.word (BitVec.ofNat 64 ea) (reserve q none m)))
          ∧ (∀ c y, ¬mis → chk = .bad c y → exec i s = .next (raise c s.word (BitVec.ofNat 64 y) (reserve q none (dropWalkBad m))))
          ∧ (¬mis → chk = .ok → ∃ t, exec i s = .next t
              ∧ Passed (lateLoad (core s).late q sp ea (reserve q (some (elemOf kd r.1)) r.2)) t))))
  ∧ (∀ (q : Nat) (d : QData) (s : State),
    ((queueAt s q).refill ≠ some (clu s).pc →
      { queueAt (reserve q (some d) s) q with tags := (queueAt s q).tags }
        = { queueAt s q with ents := (queueAt s q).ents ++ [.hole (some d)], pseq := (queueAt s q).pseq + 1, refill := none })
    ∧ ((queueAt s q).refill = some (clu s).pc →
      { queueAt (reserve q (some d) s) q with tags := (queueAt s q).tags }
        = { queueAt s q with ents := (queueAt s q).ents.dropLast ++ [.hole (some d)], refill := none })
    ∧ (∀ n i es r x, s.cur = 16 * n + i → i < 16 → fhas (coreAt s n).q i = true → fget ({} : Queue) (coreAt s n).q i = x →
        x.ents = es ++ .hole (some d) :: r → (∀ e ∈ es, ∀ y, e ≠ .hole y) →
          let lands := fun (t : State) (e : QData) => exec .queueLoadLands s = .next (setCoreAt t n { coreAt t n with
            q := fput (coreAt t n).q i { x with ents := es ++ .elem e :: r } })
          ((∀ l ∈ (coreAt s n).late, l.q = i → l.seq.toNat ≠ holeSeq x) → lands s d)
          ∧ (∀ a l b, (coreAt s n).late = a ++ l :: b → (∀ y ∈ a, ¬(y.q = i ∧ y.seq.toNat = holeSeq x)) → l.q = i → l.seq.toNat = holeSeq x →
              let u := setCoreAt { s with free := s.free + 1 } n { coreAt s n with late := b }
              let g := readBytes false l.sp (kindBytes x.kind) l.ea { u with cur := n, cl := clA }
              let again := Config.free s.free % 2 = 1 ∧ ∀ y ∈ l :: b, lookedUp (coreAt s n) y (lateSize (coreAt s n) y) = true
              (¬again → lands u d) ∧ (again → b = [] → es.length < 2 ^ 32 → lands { g.2 with cur := s.cur, cl := s.cl } (elemOf x.kind g.1)))))
  ∧ (∀ (q a off ch : Nat) (tile sp : Bool) (s : State), off < 2 ^ 11 →
    let u : Use := { ra := [a] }
    let m := markRead u s
    let x := queueAt s q
    let n := kindBytes x.kind
    let i := if tile then Instr.stt q a off ch false sp else .stq q a off ch false sp
    let ea := (BitVec.ofInt 64 ((readA (clu s) a).toNat + n * (if off < 2 ^ 10 then (off : Int) else (off : Int) - 2 ^ 11))).toNat
    let chk := pchk m [{ sp := sp, wr := true, rd := false, ea := ea, n := n }]
    Clear u s →
      ((badPop x s.cl = true ∨ (x.kind == .tile) ≠ tile ∨ headMarker x = true) →
          exec i s = .next (raise cQPROTO s.word (BitVec.ofNat 64 q) m))
      ∧ (badPop x s.cl = false → (x.kind == .tile) = tile →
          (headMissing x = true → exec i s = .next (waitOn (.pop q) m))
          ∧ (∀ d r, x.ents = .elem d :: r → struck s q 1 = false →
              (elemPois d = true → exec i s = .next (raise cPOISON s.word 0 m))
              ∧ (elemPois d = false → ea % kindAlign x.kind ≠ 0 → exec i s = .next (raise cALIGN s.word (BitVec.ofNat 64 ea) m))
              ∧ (∀ c y, elemPois d = false → ea % kindAlign x.kind = 0 → chk = .bad c y →
                  exec i s = .next (raise c s.word (BitVec.ofNat 64 y) (dropWalkBad m)))
              ∧ (elemPois d = false → ea % kindAlign x.kind = 0 → chk = .ok →
                  ∃ t, exec i s = .next t ∧ Passed (storeBytes false sp (elemBytes d) ea (setQueue (dropWalkBad m) q { x with ents := r, cseq := x.cseq + 1 })) t))))

/-- The atomics with MU = 0 read the old word strongly, write the new one, and give the old one to sD under the scoreboard;
ATCAS compares with the old sD and stores nothing where they differ. POISON, ALIGN and the checks of R148 come in this order
with no effect (R148, R159, R160). -/
def Obligations.Atomics : Prop :=
  ∀ (d a b : Nat) (sc : Scope) (sp : Bool) (s : State),
    let acts := fun (i : Instr) (u : Use) (f : Word → Option Word) (pois : Bool) =>
      let m := markRead u s
      let ea := (readA (clu s) a).toNat
      let chk := pchk m [{ sp := sp, wr := true, rd := true, ea := ea, n := 4, st := true }]
      let r := readBytes true sp 4 ea (dropWalkBad m)
      let old := wordOf r.1
      Clear u s →
        (pois = true → exec i s = .next (raise cPOISON s.word 0 m))
        ∧ (pois = false → ea % 4 ≠ 0 → exec i s = .next (raise cALIGN s.word (BitVec.ofNat 64 ea) m))
        ∧ (∀ c y, pois = false → ea % 4 = 0 → chk = .bad c y → exec i s = .next (raise c s.word (BitVec.ofNat 64 y) (dropWalkBad m)))
        ∧ (pois = false → ea % 4 = 0 → chk = .ok →
            ∃ t, exec i s = .next t ∧ Passed (sbWrite d { val := old } (match f old with
              | some w => storeBytes true sp (leBytes 4 w.toNat) ea r.2
              | none => r.2)) t)
    let y := readS (clu s) b
    let z := readS (clu s) d
    let u : Use := { rs := [b], ra := [a], ws := [d] }
    acts (.atadd d a b sc false sp) u (fun o => some (BitVec.ofNat 32 (o.toNat + y.val.toNat))) y.pois
    ∧ acts (.atmin d a b sc false sp) u (fun o => some (BitVec.ofInt 32 (min o.toInt y.val.toInt))) y.pois
    ∧ acts (.atmax d a b sc false sp) u (fun o => some (BitVec.ofInt 32 (max o.toInt y.val.toInt))) y.pois
    ∧ acts (.atminu d a b sc false sp) u (fun o => some (BitVec.ofNat 32 (min o.toNat y.val.toNat))) y.pois
    ∧ acts (.atmaxu d a b sc false sp) u (fun o => some (BitVec.ofNat 32 (max o.toNat y.val.toNat))) y.pois
    ∧ acts (.atand d a b sc false sp) u (fun o => some (o &&& y.val)) y.pois
    ∧ acts (.ator d a b sc false sp) u (fun o => some (o ||| y.val)) y.pois
    ∧ acts (.atxor d a b sc false sp) u (fun o => some (o ^^^ y.val)) y.pois
    ∧ acts (.atswp d a b sc false sp) u (fun _ => some y.val) y.pois
    ∧ acts (.atcas d a b sc false sp) { rs := [b, d], ra := [a], ws := [d] } (fun o => if o = z.val then some y.val else none) (y.pois || z.pois)
    ∧ acts (.atfadd d a b sc false sp) u (fun o => some (add32 o y.val)) y.pois

/-- An engine word with room in its engine's queue submits its command, with the operands as they stand, and goes on; its
token register is held until the command ends. A poisoned count raises POISON, WMCPY of an empty slot and ENQ with a vault bit
ILLEGAL; then a full queue is waited on, or one that an earlier go waits to enter, and last a result on its way to the token
scalar (R15, R162-R164, R174, R178). What submitting a command does: it stands last in the engine's queue with its tile's
context, siblings and run and a fresh number; the issuing cluster's token register awaits it; the core keeps a record of it
that no word has read; registers, memory and the other blocks stay (R163-R165). COLL, UPD and MSRCH with room in the die
engine's queue submit their command, whose descriptor stands at aA, and go on; a full queue is waited on (R254). -/
def Obligations.EngineCommands : Prop :=
  (∀ (tok ad src n ab : Nat) (sd ss : Bool) (s : State),
    let bar := if ab = 0 then [] else [ab]
    let k := clu s
    let x := readS k n
    let cmd := fun (op : EngOp) (from_ : Addr) (c md : Nat) (v w : Bool) (map : BitVec 512) (e : EngCmd) =>
      { e with op := op, count := c, mode := md, dst := readA k ad, src := from_, bar := readA k ab, hasBar := ab != 0, sd := v, ss := w, map := map }
    let words := [(Instr.cpy tok ad src n ab sd ss, EngOp.cpy), (.cpyt tok ad src n ab sd ss, .cpyt), (.cpyd tok ad src n ab sd ss, .cpyd),
      (.ldg tok ad src n ab sd ss, .ldg), (.sts tok ad src n ab sd ss, .sts)]
    let full := engineFull s (benchBlock s) = true
    let busy := blocked k { ws := [tok] } = true
    (∀ i op, (i, op) ∈ words → ∀ u : Use, u = { rs := [n], ra := ad :: src :: bar } → Clear u s →
      (x.pois = true → exec i s = .next (raise cPOISON s.word 0 (markRead u s)))
      ∧ (x.pois = false → full → exec i s = .next (waitOn .engine (markRead u s)))
      ∧ (x.pois = false → ¬full → busy → exec i s = .next (waitOn .score (markRead u s)))
      ∧ (x.pois = false → ¬full → ¬busy → ∃ t, exec i s = .next t
          ∧ Passed (submit (benchBlock s) tok (fun e => cmd op (readA k src) (x.val.toNat % 2 ^ 24) (x.val.toNat / 2 ^ 24) sd ss e.map e) (markRead u s)) t))
    ∧ (∀ u : Use, u = { ra := ad :: src :: bar } → Clear u s →
      (sd = true ∨ ss = true → exec (.enq tok ad src ab sd ss) s = .next (raise cILLEGAL s.word 0 (markRead u s)))
      ∧ (sd = false → ss = false → full → exec (.enq tok ad src ab sd ss) s = .next (waitOn .engine (markRead u s)))
      ∧ (sd = false → ss = false → ¬full → busy → exec (.enq tok ad src ab sd ss) s = .next (waitOn .score (markRead u s)))
      ∧ (sd = false → ss = false → ¬full → ¬busy → ∃ t, exec (.enq tok ad src ab sd ss) s = .next t
          ∧ Passed (submit (benchBlock s) tok (fun e => cmd .enq (readA k src) 0 0 false false e.map e) (markRead u s)) t))
    ∧ (∀ u : Use, u = { rs := [n], ra := ad :: bar } → Clear u s →
      let m := fget ({} : WMap) (core s).d src
      let waits := fun (w : Wait) => exec (.wmcpy tok ad src n ab sd ss) s = .next (waitOn w (markRead u s))
      (x.pois = true → exec (.wmcpy tok ad src n ab sd ss) s = .next (raise cPOISON s.word 0 (markRead u s)))
      ∧ (x.pois = false → m.loading = true → waits .score)
      ∧ (x.pois = false → m.loading = false → m.full = false →
          exec (.wmcpy tok ad src n ab sd ss) s = .next (raise cILLEGAL s.word 0 (markRead u s)))
      ∧ (x.pois = false → m.loading = false → m.full = true → full → waits .engine)
      ∧ (x.pois = false → m.loading = false → m.full = true → ¬full → busy → waits .score)
      ∧ (x.pois = false → m.loading = false → m.full = true → ¬full → ¬busy → ∃ t, exec (.wmcpy tok ad src n ab sd ss) s = .next t
          ∧ Passed (submit (benchBlock s) tok (fun e => cmd .wmcpy 0 (x.val.toNat % 2 ^ 24) (x.val.toNat / 2 ^ 24) sd ss m.bits e) (markRead u s)) t)))
  ∧ (∀ (b tok : Nat) (mk : EngCmd → EngCmd) (s : State),
    let c := core s
    let t := submit b tok mk s
    (blockAt t b).cmds = (blockAt s b).cmds ++ [.cmd (mk { org := .word s.cur s.cl c.nextCmd, op := .cpy, ctx := c.task.ctx, sib := c.task.sib, run := c.task.run })]
    ∧ (∀ x, x ≠ b → blockAt t x = blockAt s x)
    ∧ (core t).nextCmd = c.nextCmd + 1 ∧ (core t).cmds = c.cmds ++ [{ id := c.nextCmd, cl := s.cl, reg := tok }]
    ∧ clu t = { clu s with tokPend := fput (clu s).tokPend tok c.nextCmd }
    ∧ (∀ x, x ≠ s.cl → cluAt (core t) x = cluAt c x) ∧ (∀ x, x ≠ s.cur → coreAt t x = coreAt s x)
    ∧ t.mem = s.mem ∧ t.l2 = s.l2 ∧ t.vault = s.vault ∧ (core t).l1 = c.l1)
  ∧ (∀ (d a : Nat) (st : Bool) (s : State), let u : Use := { ra := [a], ws := [d] }
    Clear u s →
      ∀ i op, (i, op) ∈ [(Instr.coll d a st, EngOp.coll st), (.upd d a, .upd), (.msrch d a, .msrch)] →
        (engineFull (markRead u s) (dieBlock s) = true → exec i s = .next (waitOn .engine (markRead u s)))
        ∧ (engineFull (markRead u s) (dieBlock s) = false → ∃ t, exec i s = .next t
            ∧ Passed (counts (submit (dieBlock s) d (fun e => { e with op := op, src := readA (clu s) a }) (markRead u s))) t))

/-- WMLD with MU = 0 puts the 64 bytes at aA + 64 × sext(off) into slot dN, on their way under the scoreboard (R176); WMADV
adds sA × ADV of the axis to its POS modulo 2^16 and changes no other byte of the slot; a poisoned sA raises POISON, then it
waits while the slot loads, and then raises ILLEGAL on an empty slot (R108, R177). Each goes on to the next word where none of
this holds. PREF, CLEAN and INVAL with MU = 0 complete for every operand that does not fault: PREF with CH = 0 of an undamaged
address in a mapped C or U page brings the undamaged sectors of its line into the core's L1, and does nothing otherwise; CLEAN
writes the line back from the core's L1 and the L2, and INVAL also drops the core's copy; both do nothing in the vault. With a
damaged address register all three do nothing; an address that no page maps is CLEAN's and INVAL's MEMFAULT (R179, R180,
R471). -/
def Obligations.WindowMapAndCacheWords : Prop :=
  (∀ (d a off ch axis : Nat) (sp : Bool) (s : State), off < 2 ^ 11 → axis < 4 →
    let w := fget ({} : WMap) (core s).d d
    (∀ u : Use, u = { ra := [a] } → Clear u s →
      let m := markRead u s
      let ea := (BitVec.ofInt 64 ((readA (clu s) a).toNat + 64 * (if off < 2 ^ 10 then (off : Int) else (off : Int) - 2 ^ 11))).toNat
      let chk := pchk m [{ sp := sp, wr := false, rd := true, ea := ea, n := 64 }]
      let r := readBytes false sp 64 ea (dropWalkBad m)
      (w.loading = true → exec (.wmld d a off ch false sp) s = .next (waitOn .score m))
      ∧ (w.loading = false → ea % 64 ≠ 0 → exec (.wmld d a off ch false sp) s = .next (raise cALIGN s.word (BitVec.ofNat 64 ea) m))
      ∧ (∀ c x, w.loading = false → ea % 64 = 0 → chk = .bad c x → exec (.wmld d a off ch false sp) s = .next (raise c s.word (BitVec.ofNat 64 x) (dropWalkBad m)))
      ∧ (∀ p, w.loading = false → ea % 64 = 0 → chk = .walk p → exec (.wmld d a off ch false sp) s = .next (startWalk p m))
      ∧ (w.loading = false → ea % 64 = 0 → chk = .ok → ∃ t, exec (.wmld d a off ch false sp) s = .next t
          ∧ Passed (onCore (fun c => { c with d := fput c.d d { full := true, loading := true, bits := BitVec.ofNat 512 (leNat r.1) } }) r.2) t))
    ∧ (∀ u : Use, u = { rs := [a] } → Clear u s →
      let m := markRead u s
      let x := readS (clu s) a
      let at_ := 8 * (16 + 12 * axis)
      let pos := w.bits.extractLsb' (at_ + 32) 16
      let adv := w.bits.extractLsb' (at_ + 48) 8
      (x.pois = true → exec (.wmadv d a axis) s = .next (raise cPOISON s.word 0 m))
      ∧ (x.pois = false → w.loading = true → exec (.wmadv d a axis) s = .next (waitOn .score m))
      ∧ (x.pois = false → w.loading = false → w.full = false → exec (.wmadv d a axis) s = .next (raise cILLEGAL s.word 0 m))
      ∧ (w.loading = false → w.full = true → x.pois = false →
          ∃ b : BitVec 512, (∃ t, exec (.wmadv d a axis) s = .next t ∧ Passed (onCore (fun c => { c with d := fput c.d d { w with bits := b } }) m) t)
            ∧ b.extractLsb' (at_ + 32) 16 = BitVec.ofInt 16 (pos.toNat + x.val.toInt * adv.toInt)
            ∧ (∀ j, j < at_ + 32 ∨ at_ + 48 ≤ j → b.getLsbD j = w.bits.getLsbD j))))
  ∧ (∀ (a off ch : Nat) (sp : Bool) (s : State), off < 2 ^ 11 →
    let u : Use := { ra := [a] }
    let m := markRead u s
    let e := (BitVec.ofInt 64 ((readA (clu s) a).toNat + 512 * (if off < 2 ^ 10 then (off : Int) else (off : Int) - 2 ^ 11))).toNat
    let line := e / 512 * 512
    let chk := pchk m [{ sp := false, wr := false, rd := false, ea := e, n := 1 }]
    let goes := fun (i : Instr) (t : State) => ∃ x, exec i s = .next x ∧ Passed t x
    let stays := sp = true ∨ ch = 1 ∨ 2 ^ 48 ≤ e ∨ damaged m false e = true ∨ lookLeaf (core m) (line / 65536) = none
      ∨ ∃ l, lookLeaf (core m) (line / 65536) = some l ∧ leafKind l = 0
    (blocked (clu s) u = false → (latchk (coreSeen s) = true → latwinAt (core s) s.cl u = none) → softHit (core s) s.cl u = true → goes (.pref a off ch false sp) m ∧ goes (.clean a off ch false sp) m ∧ goes (.inval a off ch false sp) m)
    ∧ (Clear u s →
      (stays → goes (.pref a off ch false sp) m)
      ∧ (∀ l, sp = false → ch ≠ 1 → e < 2 ^ 48 → damaged m false e = false → lookLeaf (core m) (line / 65536) = some l → leafKind l ≠ 0 →
          goes (.pref a off ch false sp) (loopN (fun i t => if damaged t false (line + 64 * i) then t
            else fillSector t t.cur (tileKey t (line + 64 * i)) (leafKind l == 2) (tileMat t line)) 8 m))
      ∧ (sp = true → goes (.clean a off ch false sp) m ∧ goes (.inval a off ch false sp) m)
      ∧ (sp = false → chk = .ok →
          let k := tileKey (dropWalkBad m) e
          goes (.clean a off ch false sp) (cleanLine k (dropWalkBad m))
          ∧ goes (.inval a off ch false sp) (dropClean (fun x => x.key / 8 == k / 512) s.cur (cleanLine k (dropWalkBad m))))
      ∧ (∀ c x, sp = false → chk = .bad c x → ∀ i ∈ [Instr.clean a off ch false sp, .inval a off ch false sp],
          exec i s = .next (raise c s.word (BitVec.ofNat 64 x) (dropWalkBad m)))
      ∧ (∀ p, sp = false → chk = .walk p → ∀ i ∈ [Instr.clean a off ch false sp, .inval a off ch false sp],
          exec i s = .next (startWalk p m))))

/-- A guarded V word whose guard is false in every lane issues and does nothing else (R59, R108, R182). A vector result lands
in its guarded lanes alone: once its window has closed, a guarded lane reads the new value and poison and every other lane its
old ones; before that every lane reads the old ones (R74, R182). -/
def Obligations.GuardedVectorWords : Prop :=
  (∀ (vd va vb pg q rm : Nat) (pn raw : Bool) (tp : VType) (cd : Cond) (dst : CvtDst) (blk : Blk) (op : RedOp) (s : State),
    guardBits s pg pn = 0 →
      ∀ i ∈ [Instr.vpop vd q pg pn, .vpsh q va pg pn, .vmov vd va pg pn, .vbcst vd va pg pn, .vidx vd pg pn,
        .vadd vd va vb pg pn tp, .vsub vd va vb pg pn tp, .vmul vd va vb pg pn tp, .vfma vd va vb pg pn tp, .vfms vd va vb pg pn tp,
        .vfnma vd va vb pg pn tp, .vmin vd va vb pg pn tp, .vmax vd va vb pg pn tp, .vdiv vd va vb pg pn tp, .vabs vd va pg pn tp,
        .vneg vd va pg pn tp, .vrcp vd va pg pn tp, .vrsq vd va pg pn tp, .vsqrt vd va pg pn tp, .vex2 vd va pg pn tp,
        .vlg2 vd va pg pn tp, .vtanh vd va pg pn tp, .vflr vd va pg pn tp, .vceil vd va pg pn tp, .vand vd va vb pg pn,
        .vor vd va vb pg pn, .vxor vd va vb pg pn, .vshl vd va vb pg pn, .vshr vd va vb pg pn, .vsar vd va vb pg pn,
        .vcmp vd va vb pg pn cd tp, .vcommit vd va pg pn, .vchk vd va pg pn, .vcvt vd va rm pg pn dst tp,
        .vqnt vd va rm pg pn blk tp, .vdqnt vd va pg pn blk tp, .vred vd va pg pn op tp, .vscan vd va pg pn op tp,
        .vperm vd va vb pg pn, .vrot vd va vb pg pn, .vrng vd va vb pg pn raw],
        ∃ t, exec i s = .next t ∧ Passed s t)
  ∧ (∀ (n d k : Nat) (v : VVal) (g : BitVec 512) (s : State), 1 ≤ n → s.cl = clV → Quiet (clu s) .v d → g ≠ 0 →
    let t := wordsLater k (retire [landV n d v g] s)
    let old := readV (core s) d
    (k + 1 < n → readV (core t) d = old)
    ∧ (n ≤ k + 1 → ∀ i, i < 512 →
        lane (readV (core t) d) i = (if g.getLsbD i then lane v i else lane old i)
        ∧ lanePois (readV (core t) d) i = (if g.getLsbD i then lanePois v i else lanePois old i)))

/-- What rounding gives in every format with its modes RNE, RTZ, RUP, RDN and SR (R25, R29, R34-R37). A code c of a format
stands for M × 2^Q, and the next one for (M + 1) × 2^Q. A value that is exactly a code's is unchanged; one between two codes
goes to the nearer, the even one on a tie, toward zero, up, down, or up where the word's bits [31:8] lie below d; beyond the
largest finite value a format without infinities saturates, and the others follow R35. NaN and infinities go to the format's
own codes. Block quantisation (R38, R40-R42): NaN or an infinity gives scale 0xFF and zero codes; zeros alone give scale 0 and
keep their signs; else the scale is floor(log2 amax) less the format's emax, clamped, and each element of MXFP4 and scaled FP8
is the exact quotient rounded once in the instruction's mode. In E2M1X the lowest element of largest error gives alt, and an
element takes alt where that is strictly nearer, else its E2M1 rounding, +0 for a rounded −0 unless alt is 0x80. -/
def Obligations.RoundingAndBlocks : Prop :=
  (∀ f ∈ [f32, f16, bf16, e4m3, e5m2, e2m1], ∀ (c k m mode w : Nat) (neg : Bool), c ≤ f.maxFin → mode < 5 →
    let big : Nat := 2 ^ f.mb
    let M : Nat := if c < big then c else big + c % big
    let Q : Int := Int.ofNat (if c < big then 1 else c / big) - f.bias - f.mb
    let s : Nat := if neg then 2 ^ (f.eb + f.mb) else 0
    let r := m - M * 2 ^ k
    let near := decide (2 * r > 2 ^ k ∨ (2 * r = 2 ^ k ∧ M % 2 = 1))
    let x := Ex.fin neg m (Q - k) false
    dec f (s + c) = .fin neg M Q false
    ∧ rnd f mode w .nan = f.nan
    ∧ rnd f mode w (.inf neg) = s + (if f.hasInf then f.maxFin + 1 else f.maxFin)
    ∧ (M * 2 ^ k ≤ m →
        (r = 0 → rnd f mode w x = s + c)
        ∧ (0 < r → r < 2 ^ k → c < f.maxFin → rnd f mode w x = s + c + (if (match mode with
            | 0 => near | 1 => false | 2 => !neg | 3 => neg | _ => decide (w / 256 < r * 2 ^ 24 / 2 ^ k)) then 1 else 0))
        ∧ (0 < r → c = f.maxFin → rnd f mode w x = s + f.maxFin + (if f.hasInf && (match mode with
            | 1 => false | 2 => !neg | 3 => neg | _ => near) then 1 else 0))))
  ∧ (∀ (b : Blk) (mode : Nat) (w : Nat → Nat) (x : Nat → Ex),
    let wide := b = .e4 ∨ b = .e5
    let emax : Int := match b with | .mx | .x => 2 | .e4 => 8 | .e5 => 15
    let img : Nat := blkQuant b mode w x
    let code := fun (i : Nat) => if wide then img / 256 ^ i % 256 else img / 16 ^ i % 16
    let scale : Nat := if wide then img / 256 ^ 32 else img / 256 ^ 16 % 256
    let alt : Nat := img / 256 ^ 17
    let minus := if wide then 0x80 else 8
    ((∃ i, i < 32 ∧ exSpecial (x i) = true) → scale = 255 ∧ (∀ i, i < 32 → code i = 0) ∧ (b = .x → alt = 0x80))
    ∧ ((∀ i, i < 32 → exSpecial (x i) = false ∧ exZero (x i) = true) →
        scale = 0 ∧ (∀ i, i < 32 → code i = if exNeg (x i) then minus else 0) ∧ (b = .x → alt = 0x80))
    ∧ (∀ (neg : Nat → Bool) (m : Nat → Nat) (e : Nat → Int) (top : Int), mode < 5 →
        (∀ i, i < 32 → x i = .fin (neg i) (m i) (e i) false) →
        (∃ i, i < 32 ∧ m i ≠ 0 ∧ (Nat.log2 (m i) : Int) + e i = top) → (∀ i, i < 32 → m i ≠ 0 → (Nat.log2 (m i) : Int) + e i ≤ top) →
        -1000000 ≤ top →
        let E := min 127 (max (-127) (top - emax))
        let q := fun (i : Nat) => Ex.fin (neg i) (m i) (e i - E) false
        let off := fun (i : Nat) (y : Ex) => exAbs (exAdd (q i) (exOpp y))
        let near := fun (i : Nat) => rnd e2m1 0 0 (q i)
        let err := fun (i : Nat) => off i (dec e2m1 (near i))
        (scale : Int) = E + 127
        ∧ (b = .mx → ∀ i, i < 32 → code i = rnd e2m1 mode (w i) (q i))
        ∧ (b = .e4 → ∀ i, i < 32 → code i = rnd e4m3 mode (w i) (q i))
        ∧ (b = .e5 → ∀ i, i < 32 → code i = rnd e5m2 mode (w i) (q i))
        ∧ (b = .x → (∃ k, k < 32 ∧ (∀ i, i < 32 → exLt (err k) (err i) = false) ∧ (∀ i, i < k → exLt (err i) (err k) = true)
              ∧ alt = (if exZero (err k) then 0x80 else rnd e4m3 0 0 (q k)))
            ∧ ∀ i, i < 32 → code i =
              (if alt ≠ 0x80 ∧ exLt (off i (dec e4m3 alt)) (err i) = true then 8
               else if near i = 8 then (if alt = 0x80 ∧ m i = 0 then 8 else 0) else near i))))

/-- The elementwise words on two sources, and the fused ones on three: with a guard that is true somewhere, each guarded lane
of vD gets its result with the latency of R74, poisoned where a source lane is; floating-point results are exact results
rounded once (R187, R188, R190). The elementwise words on one source: moves, sign and rounding words with latency 2, the
functions of R189 with latency 8, each rounded once into the type; INT32 has ABS and NEG alone (R186, R189). The reciprocal is
exact before its rounding; that VRSQ, VSQRT, VEX2, VLG2 and VTANH are rounded from values computed to the inner precision of
`exRsqrt`, `exSqrt`, `exExp2`, `exLog2` and `exTanh` is the model's choice (log entry 14). -/
def Obligations.ElementwiseWords : Prop :=
  (∀ (vd va vb pg : Nat) (pn : Bool) (tp : VType) (s : State),
    let g := guardBits s pg pn
    let a := readV (core s) (vreg s va)
    let b := readV (core s) (vreg s vb)
    let d := readV (core s) (vreg s vd)
    let amount := fun (y : Word) => y.toNat % 32
    g ≠ 0 →
      (Clear { rv := [vreg s va, vreg s vb], rp := [pg], lanes := g } s →
        ∀ i n f, (i, n, f) ∈ ([
            (Instr.vadd vd va vb pg pn tp, 2, lane3 tp (fun x y _ => exAdd x y) (fun x y => x + y)),
            (.vsub vd va vb pg pn tp, 2, lane3 tp (fun x y _ => exAdd x (exOpp y)) (fun x y => x - y)),
            (.vmul vd va vb pg pn tp, 2, lane3 tp (fun x y _ => exMul x y) (fun x y => x * y)),
            (.vmin vd va vb pg pn tp, 2, lane3 tp (fun x y _ => exMin x y) (fun x y => BitVec.ofInt 32 (min x.toInt y.toInt))),
            (.vmax vd va vb pg pn tp, 2, lane3 tp (fun x y _ => exMax x y) (fun x y => BitVec.ofInt 32 (max x.toInt y.toInt))),
            (.vand vd va vb pg pn, 2, fun x y _ => x &&& y), (.vor vd va vb pg pn, 2, fun x y _ => x ||| y),
            (.vxor vd va vb pg pn, 2, fun x y _ => x ^^^ y),
            (.vshl vd va vb pg pn, 2, fun x y _ => BitVec.ofNat 32 (x.toNat * 2 ^ amount y)),
            (.vshr vd va vb pg pn, 2, fun x y _ => BitVec.ofNat 32 (x.toNat / 2 ^ amount y)),
            (.vsar vd va vb pg pn, 2, fun x y _ => BitVec.ofInt 32 (x.toInt / 2 ^ amount y))]
              ++ (if tp = .i32 then [] else [(.vdiv vd va vb pg pn tp, 8, lane3 tp (fun x y _ => exDiv x y) (fun x _ => x))])
              : List (Instr × Nat × (Word → Word → Word → Word))) →
          ∃ t v, exec i s = .next t ∧ WroteV n (vreg s vd) v g s t
            ∧ (∀ j, j < 512 → lane v j = f (lane a j) (lane b j) (lane d j)) ∧ v.pois = a.pois ||| b.pois)
      ∧ (tp ≠ .i32 → Clear { rv := [vreg s va, vreg s vb, vreg s vd], rp := [pg], lanes := g } s →
        ∀ i f, (i, f) ∈ ([
            (Instr.vfma vd va vb pg pn tp, lane3 tp (fun x y z => exAdd (exMul x y) z) (fun x _ => x)),
            (.vfms vd va vb pg pn tp, lane3 tp (fun x y z => exAdd (exMul x y) (exOpp z)) (fun x _ => x)),
            (.vfnma vd va vb pg pn tp, lane3 tp (fun x y z => exAdd z (exOpp (exMul x y))) (fun x _ => x))]
              : List (Instr × (Word → Word → Word → Word))) →
          ∃ t v, exec i s = .next t ∧ WroteV 4 (vreg s vd) v g s t
            ∧ (∀ j, j < 512 → lane v j = f (lane a j) (lane b j) (lane d j)) ∧ v.pois = a.pois ||| b.pois ||| d.pois))
  ∧ (∀ (vd va pg : Nat) (pn : Bool) (tp : VType) (s : State),
    let g := guardBits s pg pn
    let a := readV (core s) (vreg s va)
    let fl := fun (f : Ex → Ex) => lane1 tp f (fun x => x)
    g ≠ 0 → Clear { rv := [vreg s va], rp := [pg], lanes := g } s →
      ∀ i n f, (i, n, f) ∈ ([
          (Instr.vmov vd va pg pn, 2, fun x => x),
          (.vabs vd va pg pn tp, 2, lane1 tp exAbs (fun x => if x.toInt < 0 then BitVec.ofInt 32 (-x.toInt) else x)),
          (.vneg vd va pg pn tp, 2, lane1 tp exOpp (fun x => BitVec.ofInt 32 (-x.toInt)))]
            ++ (if tp = .i32 then [] else [
              (.vrcp vd va pg pn tp, 8, fl (exDiv (exOfInt 1))), (.vrsq vd va pg pn tp, 8, fl exRsqrt), (.vsqrt vd va pg pn tp, 8, fl exSqrt),
              (.vex2 vd va pg pn tp, 8, fl exExp2), (.vlg2 vd va pg pn tp, 8, fl exLog2), (.vtanh vd va pg pn tp, 8, fl exTanh),
              (.vflr vd va pg pn tp, 2, fl (exFloor false)), (.vceil vd va pg pn tp, 2, fl (exFloor true))])
            : List (Instr × Nat × (Word → Word))) →
        ∃ t v, exec i s = .next t ∧ WroteV n (vreg s vd) v g s t ∧ (∀ j, j < 512 → lane v j = f (lane a j)) ∧ v.pois = a.pois)

/-- Queue moves, lane set-up, selection and lane movement (R185, R186, R192, R203, R204): VPOP takes the oldest vector of a
queue of this cluster, VPSH pushes every lane with its poison; VBCST and VIDX fill lanes; VLANE gives one lane to a scalar,
unguarded; VSEL writes every lane; VPERM and VROT move lanes; VRNG draws by key, lane and index. A queue that is not this
cluster's end, of another kind, or a marker before a VPOP raises QPROTO; VPOP waits on a head that has not arrived and VPSH on
a full queue (R68, R130). Only the lanes that a word reads can raise MEMERR; a damaged lane whose guard is false goes into
VPSH's element (R59, R471). -/
def Obligations.VectorMoves : Prop :=
  ∀ (vd va vb pg q a b : Nat) (pn raw : Bool) (s : State),
    let g := guardBits s pg pn
    let c := core s
    let x := readV c (vreg s va)
    let y := readV c (vreg s vb)
    let sa := readS (clu s) a
    let sb := readS (clu s) b
    let qu := queueAt s q
    let all := BitVec.allOnes 512
    let gives := fun (i : Instr) (n : Nat) (s1 : State) (f : Nat → Word) (p : Nat → Bool) =>
      ∃ t v, exec i s = .next t ∧ WroteV n (vreg s vd) v g s1 t ∧ ∀ j, j < 512 → lane v j = f j ∧ lanePois v j = p j
    (g ≠ 0 → Clear { rp := [pg], lanes := g } s →
      gives (.vidx vd pg pn) 2 s (fun j => BitVec.ofNat 32 j) (fun _ => false)
      ∧ ((badPop qu s.cl = true ∨ qu.kind ≠ .vec ∨ headMarker qu = true) →
          exec (.vpop vd q pg pn) s = .next (raise cQPROTO s.word (BitVec.ofNat 64 q) (markRead { rp := [pg], lanes := g } s)))
      ∧ (badPop qu s.cl = false → qu.kind = .vec → headMissing qu = true →
          exec (.vpop vd q pg pn) s = .next (waitOn (.pop q) (markRead { rp := [pg] } s)))
      ∧ (badPop qu s.cl = false → qu.kind = .vec → ∀ v r, qu.ents = .elem (.vec v) :: r → struck s q 1 = false →
          ∃ t, exec (.vpop vd q pg pn) s = .next t
            ∧ WroteV 2 (vreg s vd) v g (setQueue (markRead { rp := [pg], lanes := g } s) q { qu with ents := r, cseq := qu.cseq + 1 }) t))
    ∧ (g ≠ 0 → Clear { rv := [vreg s va], rp := [pg], lanes := g } s →
      let m := markRead { rv := [vreg s va], rp := [pg] } s
      ((badPush qu s.cl = true ∨ qu.kind ≠ .vec) → exec (.vpsh q va pg pn) s = .next (raise cQPROTO s.word (BitVec.ofNat 64 q) m))
      ∧ (badPush qu s.cl = false → qu.kind = .vec → qu.depth ≤ qu.ents.length → exec (.vpsh q va pg pn) s = .next (waitOn (.push q) m))
      ∧ (badPush qu s.cl = false → qu.kind = .vec → qu.ents.length < qu.depth →
          let u := setQueue m q { qu with ents := qu.ents ++ [.elem (.vec x)], pseq := qu.pseq + 1 }
          ∃ t, exec (.vpsh q va pg pn) s = .next t
            ∧ Passed (if struckV c (vreg s va) = 0 then u else onCore (fun c => { c with soft := .q q qu.pseq.toNat :: c.soft }) u) t))
    ∧ (g ≠ 0 → Clear { rs := [a], rp := [pg], lanes := g } s → gives (.vbcst vd a pg pn) 2 s (fun _ => sa.val) (fun _ => sa.pois))
    ∧ (g ≠ 0 → Clear { rv := [vreg s va, vreg s vb], rp := [pg], lanes := g, lv := [takenLanes g fun j => (lane y j).toNat % 512] } s →
      gives (.vperm vd va vb pg pn) 3 s (fun j => lane x ((lane y j).toNat % 512)) (fun j => lanePois x ((lane y j).toNat % 512) || lanePois y j))
    ∧ (g ≠ 0 → Clear { rs := [b], rv := [vreg s va], rp := [pg], lanes := g, lv := [takenLanes g fun j => (j + sb.val.toNat % 512) % 512] } s →
      gives (.vrot vd va b pg pn) 3 s (fun j => lane x ((j + sb.val.toNat) % 512)) (fun j => lanePois x ((j + sb.val.toNat) % 512) || sb.pois))
    ∧ (g ≠ 0 → Clear { rs := [a, b], rp := [pg], lanes := g } s →
      gives (.vrng vd a b pg pn raw) 4 s
        (fun j => let w := draw (runKey s) j (BitVec.ofNat 64 (sb.val.toNat * 2 ^ 32 + sa.val.toNat)); if raw then w else uniform w)
        (fun _ => sa.pois || sb.pois))
    ∧ (Clear { rv := [vreg s va, vreg s vb], rp := [pg], lv := [g, ~~~g] } s →
      ∃ t v, exec (.vsel vd va vb pg pn) s = .next t ∧ WroteV 2 (vreg s vd) v all s t
        ∧ ∀ j, j < 512 → lane v j = (if g.getLsbD j then lane x j else lane y j) ∧ lanePois v j = (if g.getLsbD j then lanePois x j else lanePois y j))
    ∧ (Clear { rs := [b], rv := [vreg s va], ws := [a], lanes := 1#512 <<< (sb.val.toNat % 512) } s →
      ∃ t, exec (.vlane a va b) s = .next t
        ∧ WroteS 2 a { val := lane x (sb.val.toNat % 512), pois := lanePois x (sb.val.toNat % 512) || sb.pois } s t)

/-- Compare, check and commit (R191, R195, R196): VCMP raises POISON on a poisoned guarded lane and else gives the condition
in each guarded lane, with NaN unordered; VCHK gives the poison bits; VCOMMIT raises POISON on a poisoned guarded lane and
else moves the guarded lanes unpoisoned. A result for p0 is discarded: none is on its way (R56). The predicate words,
unguarded, which never trap: the next word reads the result, p0 stays all true, every other predicate and every vector
register stays, and damage of a source goes on into the result (the model's reading, notes/assumptions/47.md); PCNT counts the
true lanes into a scalar with latency 2 (R56, R193, R194, R471). -/
def Obligations.ComparesAndPredicates : Prop :=
  (∀ (pd vd va vb pg : Nat) (pn : Bool) (cd : Cond) (tp : VType) (s : State),
    let g := guardBits s pg pn
    let a := readV (core s) (vreg s va)
    let b := readV (core s) (vreg s vb)
    let x := fun (j : Nat) => elemEx tp (lane a j) 0
    let y := fun (j : Nat) => elemEx tp (lane b j) 0
    g ≠ 0 →
      (∀ u : Use, u = { rv := [vreg s va, vreg s vb], rp := [pg], lanes := g } → Clear u s →
        ((a.pois ||| b.pois) &&& g ≠ 0 → exec (.vcmp pd va vb pg pn cd tp) s = .next (raise cPOISON s.word 0 (markRead u s)))
        ∧ ((a.pois ||| b.pois) &&& g = 0 → ∃ t v, exec (.vcmp pd va vb pg pn cd tp) s = .next t ∧ Passed s t
            ∧ (pd ≠ 0 → WroteP 2 (preg s pd) v g s t) ∧ (pd = 0 → Quiet (clu s) .p 0 → Quiet (clu t) .p 0)
            ∧ ∀ j, j < 512 → v.getLsbD j = (match cd with
              | .eq => exEq (x j) (y j) | .ne => !exEq (x j) (y j) | .lt => exLt (x j) (y j) | .le => exLt (x j) (y j) || exEq (x j) (y j))))
      ∧ (∀ u : Use, u = { rv := [vreg s va], rp := [pg], lanes := g } → Clear u s →
        (∃ t, exec (.vchk pd va pg pn) s = .next t ∧ Passed s t ∧ (pd ≠ 0 → WroteP 2 (preg s pd) a.pois g s t)
            ∧ (pd = 0 → Quiet (clu s) .p 0 → Quiet (clu t) .p 0))
        ∧ (a.pois &&& g ≠ 0 → exec (.vcommit vd va pg pn) s = .next (raise cPOISON s.word 0 (markRead u s)))
        ∧ (a.pois &&& g = 0 → ∃ t, exec (.vcommit vd va pg pn) s = .next t ∧ WroteV 2 (vreg s vd) { bits := a.bits, pois := 0 } g s t)))
  ∧ (∀ (pd pa pb d : Nat) (s : State), s.cl = clV →
    let a := readP (core s) (preg s pa)
    let b := readP (core s) (preg s pb)
    let gives := fun (i : Instr) (v hit : BitVec 512) =>
      ∃ t, exec i s = .next t ∧ OnlyCore s t ∧ SameMem s t ∧ RegsSame s t ∧ Advanced (clu s) (clu t)
        ∧ readP (core t) (preg s pd) = (if pd = 0 then BitVec.allOnes 512 else v)
        ∧ (∀ r, r ≠ preg s pd → Quiet (clu s) .p r → readP (core t) r = readP (core s) r)
        ∧ (∀ r, Quiet (clu s) .v r → readV (core t) r = readV (core s) r)
        ∧ (core t).q = (core s).q ∧ (core t).h = (core s).h ∧ (core t).rotb = (core s).rotb
        ∧ (pd ≠ 0 → ∀ i, i < 16 → (SoftAt.p (preg s pd) i ∈ (core t).soft ↔ hit.extractLsb' (32 * i) 32 ≠ 0))
    let ha := struckP (core s) (preg s pa)
    let hb := struckP (core s) (preg s pb)
    (gives (.pand pd pa pb) (a &&& b) (ha ||| hb) ∧ gives (.por pd pa pb) (a ||| b) (ha ||| hb)
      ∧ gives (.pxor pd pa pb) (a ^^^ b) (ha ||| hb) ∧ gives (.pandn pd pa pb) (a &&& ~~~b) (ha ||| hb)
      ∧ gives (.pnot pd pa) (~~~a) ha ∧ gives (.pmov pd pa) a ha)
    ∧ (Clear { rp := [preg s pa], ws := [d] } s → ∃ t, exec (.pcnt d pa) s = .next t
        ∧ WroteS 2 d { val := BitVec.ofNat 32 ((List.range 512).countP fun i => a.getLsbD i) } s t))

/-- VCVT converts each element, rounding by its mode, with draws indexed by s31 × 2^32 + s30 for stochastic rounding, which
poisons every lane when s30 or s31 is poisoned; VQNT and VDQNT pack and unpack blocks of 32 elements, a lane of VQNT poisoned
where one of its bytes lies in a block with a guarded poisoned source lane, a lane of VDQNT where a lane that holds a byte of
its block is; VRED puts the value of the fixed tree over the guarded lanes, the others holding the identity, into every
guarded lane; VSCAN gives its inclusive prefixes; a mode of 5 or more, INT32 blocks and a scan of 16-bit types raise ILLEGAL
(R47, R197-R202). That lane 0 of VSCAN keeps the bits of its own value, a NaN's too, is the model's choice (log entry 47). -/
def Obligations.ConversionsAndReductions : Prop :=
  ∀ (vd va rm pg : Nat) (pn : Bool) (dst : CvtDst) (blk : Blk) (op : RedOp) (tp : VType) (s : State),
    let g := guardBits s pg pn
    let a := readV (core s) (vreg s va)
    let ur : Use := { rs := srRegs rm, rv := [vreg s va], rp := [pg], lanes := g }
    let u : Use := { rv := [vreg s va], rp := [pg], lanes := g }
    let ud : Use := { u with lv := [blockLanes blk tp g] }
    let illegal := fun (i : Instr) (u : Use) => exec i s = .next (raise cILLEGAL s.word 0 (markRead u s))
    let half := fun (f : Nat → Nat → Nat) (e : Nat) => f (laneOfElem tp e).1 (laneOfElem tp e).2
    let sr := fun (l h : Nat) => if rm = 4 then (draw (runKey s) l (srIndex s + BitVec.ofNat 64 h)).toNat else 0
    let bs := blkSize blk
    g ≠ 0 →
      (Clear ur s →
        (5 ≤ rm → illegal (.vcvt vd va rm pg pn dst tp) ur)
        ∧ (5 ≤ rm ∨ tp = .i32 ∨ (blk = .x ∧ rm ≠ 0) → illegal (.vqnt vd va rm pg pn blk tp) ur)
        ∧ (rm < 5 → ∃ t v, exec (.vcvt vd va rm pg pn dst tp) s = .next t ∧ WroteV 4 (vreg s vd) v g s t
            ∧ v.pois = (if rm = 4 ∧ srPois s = true then BitVec.allOnes 512 else a.pois)
            ∧ ∀ j, j < 512 → lane v j = BitVec.ofNat 32 (packN (cvtBits dst) (fun h => cvtElem dst rm (sr j h) (elemEx tp (lane a j) h))
                (if cvtBits dst = 32 then 1 else if packed tp then 2 else 1)))
        ∧ (rm < 5 → tp ≠ .i32 → (blk = .x → rm = 0) → ∃ t v, exec (.vqnt vd va rm pg pn blk tp) s = .next t ∧ WroteV 4 (vreg s vd) v g s t
            ∧ v.bits = BitVec.ofNat 16384 (packN (8 * bs) (fun k => blkQuant blk rm (fun e => half sr (32 * k + e)) (fun e =>
                let l := (laneOfElem tp (32 * k + e)).1
                if g.getLsbD l then elemEx tp (lane a l) (laneOfElem tp (32 * k + e)).2 else Ex.fin false 0 0 false))
                (if packed tp then 32 else 16))
            ∧ ∀ j, j < 512 → lanePois v j = (decide (rm = 4) && srPois s || (List.range 4).any fun k =>
                decide ((4 * j + k) / bs < if packed tp then 32 else 16)
                  && (List.range 32).any fun e => (a.pois &&& g).getLsbD (laneOfElem tp (32 * ((4 * j + k) / bs) + e)).1)))
      ∧ (Clear ud s →
        (tp = .i32 → illegal (.vdqnt vd va pg pn blk tp) ud)
        ∧ (tp ≠ .i32 → ∃ t v, exec (.vdqnt vd va pg pn blk tp) s = .next t ∧ WroteV 4 (vreg s vd) v g s t
            ∧ (∀ j, j < 512 → lane v j = laneOf tp fun h =>
                let e := (if packed tp then 2 else 1) * j + h
                blkElem blk (a.bits.toNat / 256 ^ (bs * (e / 32)) % 256 ^ bs) (e % 32))
            ∧ ∀ j, j < 512 → ∀ b, b = (if packed tp then 2 else 1) * j / 32 →
                (lanePois v j = true ↔ ∃ k, k < bs ∧ a.pois.getLsbD ((bs * b + k) / 4) = true)))
      ∧ (Clear u s →
        (∃ t v, exec (.vred vd va pg pn op tp) s = .next t ∧ WroteV 6 (vreg s vd) v g s t
            ∧ ∀ j, j < 512 → lanePois v j = (a.pois &&& g != 0)
              ∧ lane v j = (let root := treeD (redNode op tp) (redLeaf op tp g a) (if packed tp then 10 else 9) 0
                  if packed tp then laneOf tp (fun _ => dec32 root) else root))
        ∧ (packed tp = true → illegal (.vscan vd va pg pn op tp) u)
        ∧ (packed tp = false → ∃ t v, exec (.vscan vd va pg pn op tp) s = .next t ∧ WroteV 10 (vreg s vd) v g s t
            ∧ ∀ j, j < 512 → lane v j = (scanAll (redNode op tp) ((List.range 512).map (redLeaf op tp g a))).getD j 0
              ∧ lanePois v j = ((List.range (j + 1)).any fun k => a.pois.getLsbD k && g.getLsbD k)))

/-- TCFG, TPOP, TPSH, TZERO and TSTAT (R211-R214): TCFG configures a tile with zero elements; on a live tile of the same type
and rows it does nothing, and of another it raises TILEDISC with TCHK = 1 and else counts a discard and keeps its virtual PC;
TPOP fills a configured tile from a tile queue, keeping its rows alone, and makes it live; TPSH pushes its image; TZERO
empties it; TSTAT reads state, discards and pops. An unconfigured tile raises ILLEGAL, a damaged one TPSH's MEMERR (whose
XADDR 0 is the model's choice, log entry 47). Each of them goes on to the next word wherever no check of its own stops it.
FTSET keeps bits [12:0] of an unpoisoned sA, FTGET reads an entry (R217); WCFG configures a slot for a valid entry whose
weight format fits its mode, and leaves a loaded slot of the same mode and format as it is (R218); WLD raises ILLEGAL on an
empty slot and QPROTO where the queue is too shallow, waits until all the tiles of the slot's image have arrived, and then
pops them, or raises QPROTO where a marker stands among them (R130, R219, R221). Each of them goes on to the next word
wherever none of this stops it. -/
def Obligations.TilesAndSlots : Prop :=
  (∀ (n rows q d item : Nat) (ty : TileFmt) (s : State), rows < 64 →
    let c := core s
    let t := tileAt c n
    let x := queueAt s q
    let s0 := markRead {} s
    let fresh : Tile := { t with st := .conf, ty := ty, rows := rows + 1, bits := 0 }
    let goes := fun (i : Instr) (u : State) => ∃ v, exec i s = .next v ∧ Passed u v
    let illegal := fun (i : Instr) => exec i s = .next (raise cILLEGAL s.word 0 s0)
    let proto := fun (i : Instr) => exec i s = .next (raise cQPROTO s.word (BitVec.ofNat 64 q) s0)
    (Clear {} s →
      (t.st ≠ .live → goes (.tcfg n rows ty) (putTile n fresh s0))
      ∧ (t.st = .live → t.ty = ty → t.rows = rows + 1 → goes (.tcfg n rows ty) s)
      ∧ (t.st = .live → (t.ty ≠ ty ∨ t.rows ≠ rows + 1) → (coreSeen s).kctl.getLsbD 1 = true →
          exec (.tcfg n rows ty) s = .next (raise cTILEDISC s.word (BitVec.ofNat 64 (tileWord t).toNat) s0))
      ∧ (t.st = .live → (t.ty ≠ ty ∨ t.rows ≠ rows + 1) → (coreSeen s).kctl.getLsbD 1 = false →
          goes (.tcfg n rows ty) (putTile n { fresh with disc := min 0xFFFFFFFF (t.disc + 1), discPc := BitVec.ofNat 32 (clu s).pc.toNat } s0))
      ∧ (t.st = .unconf → illegal (.tzero n))
      ∧ (t.st ≠ .unconf → goes (.tzero n) (putTile n { t with st := .conf, bits := 0 } s0))
      ∧ ((badPop x s.cl = true ∨ x.kind ≠ .tile ∨ headMarker x = true) → proto (.tpop n q))
      ∧ (badPop x s.cl = false → x.kind = .tile → headMarker x = false → t.st = .unconf → illegal (.tpop n q))
      ∧ (badPop x s.cl = false → x.kind = .tile → t.st ≠ .unconf → headMissing x = true → exec (.tpop n q) s = .next (waitOn (.pop q) s0))
      ∧ (badPush x s.cl = false → x.kind = .tile → t.st ≠ .unconf → c.soft.contains (.tile n) = true →
          exec (.tpsh q n) s = .next (raise cMEMERR s.word 0 s0))
      ∧ (badPop x s.cl = false → x.kind = .tile → t.st ≠ .unconf → ∀ b r, x.ents = .elem (.tile b) :: r → struck s q 1 = false →
          goes (.tpop n q) (setQueue (putTile n { t with st := .live, bits := BitVec.ofNat 131072 (b.toNat % 2 ^ (2048 * t.rows)),
                                                         pops := min 0xFFFFFFFF (t.pops + 1) } s0) q { x with ents := r, cseq := x.cseq + 1 }))
      ∧ ((badPush x s.cl = true ∨ x.kind ≠ .tile) → proto (.tpsh q n))
      ∧ (badPush x s.cl = false → x.kind = .tile → t.st = .unconf → illegal (.tpsh q n))
      ∧ (badPush x s.cl = false → x.kind = .tile → t.st ≠ .unconf → c.soft.contains (.tile n) = false →
          (x.depth ≤ x.ents.length → exec (.tpsh q n) s = .next (waitOn (.push q) s0))
          ∧ (x.ents.length < x.depth → goes (.tpsh q n) (setQueue s0 q { x with ents := x.ents ++ [.elem (.tile t.bits)], pseq := x.pseq + 1 }))))
    ∧ (Clear { ws := [d] } s → ∃ v, exec (.tstat d n item) s = .next v
        ∧ WroteS 1 d { val := match item with
          | 0 => (match t.st with
              | .unconf => 0
              | .conf => BitVec.ofNat 32 (codeOfFmt t.ty + (t.rows - 1) * 8 + 512)
              | .live => BitVec.ofNat 32 (codeOfFmt t.ty + (t.rows - 1) * 8 + 1024))
          | 1 => BitVec.ofNat 32 t.disc | 2 => t.discPc | _ => BitVec.ofNat 32 t.pops } s v))
  ∧ (∀ (fi a d wd q : Nat) (mode : WMode) (s : State),
    let c := core s
    let w := slotAt c wd
    let x := queueAt s q
    let s0 := markRead {} s
    let e := (fget 0 c.fmt fi).toNat
    let b := fieldOf e 5 3
    let n := match w.mode with | .mx | .x => 3 | _ => 2
    let goes := fun (i : Instr) (u : State) => ∃ v, exec i s = .next v ∧ Passed u v
    (Clear { rs := [a] } s →
      ((readS (clu s) a).pois = true → exec (.ftset fi a) s = .next (raise cPOISON s.word 0 (markRead { rs := [a] } s)))
      ∧ ((readS (clu s) a).pois = false →
          goes (.ftset fi a) (onCore (fun c => { c with fmt := fput c.fmt fi ((readS (clu s) a).val &&& 0x1FFF) }) (markRead { rs := [a] } s))))
    ∧ (Clear { ws := [d] } s → ∃ v, exec (.ftget d fi) s = .next v ∧ WroteS 1 d { val := fget 0 c.fmt fi } s v)
    ∧ (Clear {} s →
      ((entryOk e = false ∨ modeFits mode b = false) → exec (.wcfg wd fi mode) s = .next (raise cILLEGAL s.word 0 s0))
      ∧ (entryOk e = true → modeFits mode b = true → w.st = .loaded → w.mode = mode → w.fmt = b → goes (.wcfg wd fi mode) s)
      ∧ (entryOk e = true → modeFits mode b = true → (w.st ≠ .loaded ∨ w.mode ≠ mode ∨ w.fmt ≠ b) →
          goes (.wcfg wd fi mode) (putSlot wd { st := .conf, mode := mode, fmt := b } s0))
      ∧ (badPop x s.cl = false → x.kind = .tile → w.st = .empty → exec (.wld wd q) s = .next (raise cILLEGAL s.word 0 s0))
      ∧ ((badPop x s.cl = true ∨ x.kind ≠ .tile ∨ (w.st ≠ .empty ∧ x.depth < n)) →
          exec (.wld wd q) s = .next (raise cQPROTO s.word (BitVec.ofNat 64 q) s0))
      ∧ (badPop x s.cl = false → x.kind = .tile → w.st ≠ .empty → n ≤ x.depth → (x.ents.length < n ∨ ∃ d, QEnt.hole d ∈ x.ents.take n) →
          exec (.wld wd q) s = .next (waitFor n (.pop q) s0))
      ∧ (badPop x s.cl = false → x.kind = .tile → w.st ≠ .empty → n ≤ x.depth → n ≤ x.ents.length → (∀ d, QEnt.hole d ∉ x.ents.take n) →
          .marker ∈ x.ents.take n → exec (.wld wd q) s = .next (raise cQPROTO s.word (BitVec.ofNat 64 q) s0))
      ∧ (badPop x s.cl = false → x.kind = .tile → w.st ≠ .empty → n ≤ x.depth → ∀ ts r, ts.length = n →
          x.ents = (ts.map fun t => .elem (.tile t)) ++ r → struck s q n = false →
          goes (.wld wd q) (setQueue (putSlot wd { w with st := .loaded, img := BitVec.ofNat 524288 (joinTiles ts) } s0) q
            { x with ents := r, cseq := x.cseq + BitVec.ofNat 32 n }))))

/-- MMA and MMAT that pass their checks, on an accumulator with no result pending, with a budget unit left, read tile, slot,
entry and scale tile now, use one unit, and are retained in the command window; the oldest issued one completes by writing its
accumulator; an operand that fails its check raises ILLEGAL, a pending accumulator or an empty budget is waited on (R206,
R207, R216, R222, R223, R228, R231). That a damaged accumulator, tile or slot raises MEMERR with the accumulator's number in
XADDR is the model's choice (log entry 39). The completion of an MMA writes the accumulator of the oldest issued one and
changes nothing else (R206); the budget interval advances and gives each program core 0 to 8 units, one that has run no tile
yet too (R469; how many is free, log entry 19); TBUDG reads the units left and the interval (R231). -/
def Obligations.MatrixMultiply : Prop :=
  (∀ (cd ta wb lvl fi : Nat) (fl tr : Bool) (s : State),
    let i := if tr then Instr.mmat cd ta wb lvl fi fl else .mma cd ta wb lvl fi fl
    let u : Use := { rl := if fl then [lvl] else [] }
    let c := core s
    let e := fget 0 c.fmt (if fl then ((fget 0 (clu s).l lvl).toNat + fi) % 16 else fi)
    let o : MmaOp := { acc := cd, tile := tileAt c ta, slot := slotAt c wb, entry := e,
                       scale := if bitAt e.toNat 6 then tileAt c (fieldOf e.toNat 9 7) else {}, transp := tr }
    let busy := c.mma.any fun o => o.acc == cd
    Clear u s →
      (mmaBad c ta wb e.toNat tr = true → exec i s = .next (raise cILLEGAL s.word 0 (markRead u s)))
      ∧ (mmaBad c ta wb e.toNat tr = false → busy = true → exec i s = .next (waitOn .score (markRead u s)))
      ∧ (mmaBad c ta wb e.toNat tr = false → busy = false → c.badAcc.contains cd = true →
          exec i s = .next (raise cMEMERR s.word (BitVec.ofNat 64 cd) (markRead u s)))
      ∧ (mmaBad c ta wb e.toNat tr = false → busy = false → mmaSoft c ta wb e.toNat = true →
          exec i s = .next (raise cMEMERR s.word (BitVec.ofNat 64 cd) (markRead u s)))
      ∧ (mmaBad c ta wb e.toNat tr = false → busy = false → c.badAcc.contains cd = false → mmaSoft c ta wb e.toNat = false →
          (c.budget = 0 → exec i s = .next (waitOn .array (markRead u s)))
          ∧ (0 < c.budget → ∃ t, exec i s = .next t
              ∧ Passed (onCore (fun c => retain (.mma o) { c with budget := c.budget - 1, issued := c.issued + 1, mma := c.mma ++ [o] }) (markRead u s)) t)))
  ∧ (∀ (d : Nat) (s : State),
    (∀ o r, (core s).mma = o :: r → exec .mmaCompletion s
        = .next (onCore (fun c => { c with mma := r, c := fput c.c o.acc (mmaResult o (fget 0 c.c o.acc)) }) s))
    ∧ (∃ t, exec .budgetInterval s = .next t ∧ t.interval = s.interval + 1 ∧ t.mem = s.mem ∧ t.l2 = s.l2 ∧ t.vault = s.vault
        ∧ (∀ n, n < 512 → ∃ b, b ≤ 8 ∧ coreAt t n = { coreAt s n with budget := b }) ∧ (∀ n, 512 ≤ n → coreAt t n = coreAt s n))
    ∧ (Clear { ws := [d] } s → ∃ t, exec (.tbudg d) s = .next t
        ∧ WroteS 1 d { val := BitVec.ofNat 32 (min 65535 (core s).budget + s.interval % 65536 * 65536) } s t))

/-- What an MMA computes (R43, R44, R210, R216, R222, R223): each element of the tile's rows passes through the blocks of 32
of K in ascending order; a block's exact products are summed by the fixed tree of five levels, each node rounded once, the
left operand first; the sum is scaled by the two scale bytes, 0xFF giving NaN, and added to the accumulator's element with one
rounding. Code 8 of an E2M1X tile decodes to its block's alt. The other rows stay. The weights are `slotElem` and `slotScale`
of R220. -/
def Obligations.MmaElements : Prop :=
  ∀ (o : MmaOp) (a : Acc) (i j : Nat), i < 64 → j < 128 →
    let ty := o.tile.ty
    let sc := fun (n : Nat) => o.scale.bits.toNat / 256 ^ (256 * i + 32 * fieldOf o.entry.toNat 12 10 + n) % 256
    let code := fun (k : Nat) => o.tile.bits.toNat / 2 ^ (2048 * i + tileBits ty * k) % 2 ^ tileBits ty
    let A := fun (k : Nat) => if ty = .x ∧ code k = 8 ∧ sc (16 + k / 32) ≠ 0x80 then dec e4m3 (sc (16 + k / 32)) else dec (tileFmt ty) (code k)
    let B := fun (k : Nat) => if o.transp then slotElem o.slot j k else slotElem o.slot k j
    let sa := fun (b : Nat) => if bitAt o.entry.toNat 6 then sc b else 0x7F
    let sb := fun (b : Nat) => slotScale o.slot b j
    (o.tile.rows ≤ i → accElem (mmaResult o a) i j = accElem a i j)
    ∧ (i < o.tile.rows → ∃ (T : Nat → Nat → Nat → Ex) (acc : Nat → Word),
        (∀ b e, e < 32 → T b 0 e = exMul (A (32 * b + e)) (B (32 * b + e)))
        ∧ (∀ b l n, T b (l + 1) n = dec32 (rne32 (exAdd (T b l (2 * n)) (T b l (2 * n + 1)))))
        ∧ acc 0 = accElem a i j
        ∧ (∀ b, acc (b + 1) = rne32 (exAdd (dec32 (acc b))
            (if sa b = 255 ∨ sb b = 255 then .nan else dec32 (rne32 (exScale (T b 5 0) ((sa b : Int) + sb b - 254))))))
        ∧ accElem (mmaResult o a) i j = acc ((match ty with | .bf16 | .f16 => 128 | .e4m3 | .e5m2 => 256 | .mx | .x => 512) / 32))

/-- CEMIT and CPSH push the emitted image of an accumulator that no MMA is still to write, in one tile or, for FP32, two, and
`.z` clears the accumulator; a queue of another kind or shallower than that raises QPROTO (R209), a mode of 5 or more ILLEGAL,
and stochastic rounding with a poisoned s30 or s31 POISON (R224; that this check comes before a struck register's MEMERR is
the model's choice, log entry 39); CPOP waits for two tiles and loads an accumulator from them; CSCL multiplies every element
by sA; each word that writes an accumulator is retained (R130, R207, R224-R228). Element (i, j) of the image stands at (128i +
j) × size, copied in FP32 and else rounded in the word's mode, with its own draw of R50 under SR, and nothing follows the last
element (R224); TMARK takes the checkpoint when no MMA is on its way (R227). -/
def Obligations.AccumulatorWords : Prop :=
  ∀ (ca q rm a imm : Nat) (dst : EmitDst) (z : Bool) (s : State),
    let c := core s
    let x := queueAt s q
    let n := if dst = .f32 then 2 else 1
    let s0 := markRead {} s
    let free := (c.mma.any fun o => o.acc == ca) = false ∧ c.badAcc.contains ca = false
    let goes := fun (i : Instr) (u : State) => ∃ t, exec i s = .next t ∧ Passed u t
    let pushed := fun (u : State) (d : EmitDst) (k m : Nat) => setQueue u q (pushN x ((List.range k).map fun i =>
        QEnt.elem (.tile (BitVec.ofNat 131072 (emitImage d m (runKey s) (srIndex s) (fget 0 c.c ca) / 2 ^ (131072 * i))))))
    (∀ (key n : BitVec 64) (b : Acc),
      let w := 8 * (match dst with | .f32 => 4 | .bf16 => 2 | .f16 => 2 | .e4m3 => 1 | .e5m2 => 1)
      let img := emitImage dst rm key n b
      img < 2 ^ (8192 * w)
        ∧ ∀ i j, i < 64 → j < 128 →
          let e := 128 * i + j
          let x := dec32 (accElem b i j)
          let r := if rm = 4 then (draw key (e % 512) (n + BitVec.ofNat 64 (e / 512))).toNat else 0
          img / 2 ^ (e * w) % 2 ^ w = (match dst with
            | .f32 => (accElem b i j).toNat | .bf16 => rnd bf16 rm r x | .f16 => rnd f16 rm r x
            | .e4m3 => rnd e4m3 rm r x | .e5m2 => rnd e5m2 rm r x) % 2 ^ w)
    ∧ (∀ u : Use, u = { rs := if rm = 4 ∧ dst ≠ .f32 then [30, 31] else [] } → Clear u s →
      ((badPush x s.cl = true ∨ x.kind ≠ .tile ∨ x.depth < n) →
          exec (.cemit ca q rm dst z) s = .next (raise cQPROTO s.word (BitVec.ofNat 64 q) (markRead u s)))
      ∧ (badPush x s.cl = false → x.kind = .tile → n ≤ x.depth → rm = 4 → dst ≠ .f32 → srPois s = true →
          exec (.cemit ca q rm dst z) s = .next (raise cPOISON s.word 0 (markRead u s)))
      ∧ (badPush x s.cl = false → x.kind = .tile → n ≤ x.depth →
        (5 ≤ rm → exec (.cemit ca q rm dst z) s = .next (raise cILLEGAL s.word 0 (markRead u s)))
        ∧ (rm < 5 → (rm = 4 → dst ≠ .f32 → srPois s = false) → free →
            (x.depth < x.ents.length + n → exec (.cemit ca q rm dst z) s = .next (waitFor n (.push q) (markRead u s)))
            ∧ (x.ents.length + n ≤ x.depth →
                (z = false → goes (.cemit ca q rm dst z) (pushed (markRead u s) dst n rm))
                ∧ (z = true → goes (.cemit ca q rm dst z) (onCore (fun c => retain (.clear ca) { c with c := fput c.c ca 0 }) (pushed (markRead u s) dst n rm)))))))
    ∧ (Clear {} s →
      ((badPush x s.cl = true ∨ x.kind ≠ .tile ∨ x.depth < 2) → exec (.cpsh ca q) s = .next (raise cQPROTO s.word (BitVec.ofNat 64 q) s0))
      ∧ ((badPop x s.cl = true ∨ x.kind ≠ .tile ∨ x.depth < 2) → exec (.cpop ca q) s = .next (raise cQPROTO s.word (BitVec.ofNat 64 q) s0))
      ∧ (badPush x s.cl = false → x.kind = .tile → x.ents.length + 2 ≤ x.depth → free → goes (.cpsh ca q) (pushed s0 .f32 2 0))
      ∧ (badPop x s.cl = false → x.kind = .tile → 2 ≤ x.depth → (x.ents.length < 2 ∨ ∃ d, QEnt.hole d ∈ x.ents.take 2) →
          exec (.cpop ca q) s = .next (waitFor 2 (.pop q) s0))
      ∧ (badPop x s.cl = false → x.kind = .tile → 2 ≤ x.depth → 2 ≤ x.ents.length → (∀ d, QEnt.hole d ∉ x.ents.take 2) → .marker ∈ x.ents.take 2 →
          exec (.cpop ca q) s = .next (raise cQPROTO s.word (BitVec.ofNat 64 q) s0))
      ∧ (badPop x s.cl = false → x.kind = .tile → 2 ≤ x.depth → (c.mma.any fun o => o.acc == ca) = false →
          ∀ b0 b1 r, x.ents = .elem (.tile b0) :: .elem (.tile b1) :: r → struck s q 2 = false →
            let v : Acc := BitVec.ofNat 262144 (b0.toNat + b1.toNat * 2 ^ 131072)
            goes (.cpop ca q) (onCore (fun c => retain (.load ca v) { c with c := fput c.c ca v, badAcc := c.badAcc.filter fun m => m != ca })
              (setQueue s0 q { x with ents := r, cseq := x.cseq + 2 })))
      ∧ (c.mma = [] → goes (.tmark imm) (onCore (fun c => { c with winTag := imm % 65536, win := [], winOver := false, winSave := c.c }) s0))
      ∧ (c.mma ≠ [] → exec (.tmark imm) s = .next (waitOn .score s0)))
    ∧ (∀ u : Use, u = { rs := [a] } → Clear u s →
      ((readS (clu s) a).pois = true → exec (.cscl ca a) s = .next (raise cPOISON s.word 0 (markRead u s)))
      ∧ ((readS (clu s) a).pois = false → free →
          goes (.cscl ca a) (onCore (fun c => retain (.scl ca (readS (clu s) a).val)
            { c with c := fput c.c ca (ofAcc fun i j => mul32 (accElem (fget 0 c.c ca) i j) (readS (clu s) a).val) }) (markRead u s))))

/-- A window replay completes the issued MMAs, restores the checkpoint and runs the retained words in order, CPOPs with the
image that they kept, so that a core whose accumulators are what its retained words make of its checkpoint keeps them; a
record with the fault's code, 1 of a residue check, 2 of a timing trip and 3 of an accumulator, goes to the die's replay log
and a trace record to the ring of a core that traces; tiles, slots, queues, registers and memory stay (R229, R441, R442,
R446). A replay whose four attempts fail, which the device's free choice says, and a window that overflowed, leave the struck
accumulator damaged (R230). -/
def Obligations.WindowReplayRestores : Prop :=
  ∀ (s u : State) (n k a : Nat),
    let c := coreAt s n
    ((match s.inputs with | .trip _ true :: _ => False | .soft _ (.acc _) :: _ => False | _ => True)
        ∧ n = s.cur ∧ k = 1 ∧ a = struckAcc c ∧ u = s)
      ∨ (∃ r, s.inputs = .trip n true :: r ∧ k = 2 ∧ a = struckAcc c
          ∧ u = { s with inputs := r, power := { s.power with trips := min 65535 (s.power.trips + 1) } })
      ∨ (∃ r, s.inputs = .soft n (.acc a) :: r ∧ k = 3 ∧ u = { s with inputs := r }) →
    let d := dieOf n
    let log := fget ({} : Log) s.replayLog d
    (c.winOver = false →
      ∃ t, exec .windowReplay s = .next t ∧ t.inputs = u.inputs ∧ t.power = u.power ∧ SameMem s t
        ∧ t.trace = (traceOut u n 7 clM (k + c.winTag * 2 ^ 32)).trace
        ∧ (fget {} t.replayLog d).count = log.count + 1
        ∧ ((fget {} t.replayLog d).recs.any fun x => x.1 == log.count % 2046 && (x.2.toNat / 2 ^ 16 % 256 == k % 256)) = true
        ∧ ∃ b, b = traceOut u n 7 clM (k + c.winTag * 2 ^ 32)
          ∧ (if Config.free s.free % 5 = 4
              then coreAt t n = { coreAt b n with c := (coreAt t n).c, mma := [], badAcc := a :: c.badAcc }
              else coreAt t n = { coreAt b n with c := c.win.foldl winStep c.winSave, mma := [] }))
    ∧ (c.winOver = true → ∃ t, exec .windowReplay s = .next t ∧ (coreAt t n).badAcc = a :: c.badAcc ∧ t.replayLog = s.replayLog ∧ SameMem s t)

/-- SSIG, SWAIT and STRY outside their faults, on the object's count [31:0] and ceiling [47:32]: SSIG adds sB and raises
SEMOVF with the object unchanged above the ceiling; SWAIT waits for a count of at least 1 and takes one; STRY takes one and
gives 1, or gives 0. SSIG releases before its store, SWAIT and a successful STRY acquire after theirs. A poisoned sB raises
POISON, an address off 8 bytes, or one of the vault with bits [63:32] not zero, ALIGN, a failed check its cause, all with no
effect (R232-R237). -/
def Obligations.SemaphoreWords : Prop :=
  ∀ (d a b : Nat) (sc : Scope) (sp : Bool) (s : State),
    let ea := (readA (clu s) a).toNat
    let fits := ea % 8 = 0 ∧ (sp = true → ea < 2 ^ 32)
    let acc : List Acc1 := [{ sp := sp, wr := true, rd := true, ea := ea, n := 8, st := true }]
    let words := [(Instr.ssig a b sc sp, ({ rs := [b], ra := [a] } : Use)), (.swait a sc sp, { ra := [a] }), (.stry d a sc sp, { ra := [a], ws := [d] })]
    (∀ i u, (i, u) ∈ words → Clear u s → (i = .ssig a b sc sp → (readS (clu s) b).pois = false) →
      (¬fits → exec i s = .next (raise cALIGN s.word (BitVec.ofNat 64 ea) (markRead u s)))
      ∧ (∀ c x, fits → pchk (markRead u s) acc = .bad c x →
          exec i s = .next (raise c s.word (BitVec.ofNat 64 x) (dropWalkBad (markRead u s))))
      ∧ (∀ p, fits → pchk (markRead u s) acc = .walk p → exec i s = .next (startWalk p (markRead u s))))
    ∧ (∀ u : Use, u = { rs := [b], ra := [a] } → Clear u s →
      let y := readS (clu s) b
      let m := dropWalkBad (markRead u s)
      let r := objNat sp 8 ea m
      let count := r.1 % 2 ^ 32 + y.val.toNat
      let ceiling := r.1 / 2 ^ 32 % 2 ^ 16
      (y.pois = true → exec (.ssig a b sc sp) s = .next (raise cPOISON s.word 0 (markRead u s)))
      ∧ (y.pois = false → fits → pchk (markRead u s) acc = .ok →
        (ceiling < count → exec (.ssig a b sc sp) s = .next (raise cSEMOVF s.word (BitVec.ofNat 64 ea) r.2))
        ∧ (count ≤ ceiling → ∃ t, exec (.ssig a b sc sp) s = .next t ∧ Passed (counts (objPut sp 4 ea count (relAt sc r.2))) t)))
    ∧ (∀ u : Use, u = { ra := [a] } → Clear u s → fits → pchk (markRead u s) acc = .ok →
      let m := dropWalkBad (markRead u s)
      let r := objNat sp 8 ea m
      let count := r.1 % 2 ^ 32
      (count = 0 → exec (.swait a sc sp) s = .next (waitOn .object m))
      ∧ (1 ≤ count → ∃ t, exec (.swait a sc sp) s = .next t ∧ Passed (counts (acqAt sc (objPut sp 4 ea (count - 1) r.2))) t))
    ∧ (∀ u : Use, u = { ra := [a], ws := [d] } → Clear u s → fits → pchk (markRead u s) acc = .ok →
      let m := dropWalkBad (markRead u s)
      let r := objNat sp 8 ea m
      let count := r.1 % 2 ^ 32
      (count = 0 → ∃ t, exec (.stry d a sc sp) s = .next t ∧ Passed (sbWrite d { val := 0 } r.2) t)
      ∧ (1 ≤ count → ∃ t, exec (.stry d a sc sp) s = .next t
          ∧ Passed (sbWrite d { val := 1 } (counts (acqAt sc (objPut sp 4 ea (count - 1) r.2)))) t))

/-- The barrier words outside their faults. The arrival word holds P [63], E [62], expected [61:48], arrived [47:34] and
outstanding [33:0] (R338). BINIT writes expected := sB[13:0] and 0 everywhere else, after the held set was written back and
emptied: here, or by the device that lists it (R238, R346); that this device is asked by a message and waited for, and no
longer once it is lost, is the model's choice (log entry 17). BARV counts an arrival and combines sB into the value word
(R343), or raises SEMOVF when all have arrived; BEXP adds sB to the outstanding bytes modulo 2^34 (R239, R241); after each of
the two the phase completes when arrived = expected and outstanding = 0 (R240). BWAIT waits until P = aA[0] (R242), and then
later loads of the core, whatever its scope, read no copy from before the credits of the phase (R407; that the core drops its
clean copies is the model's choice, log entry 7); BTEST reads bits [63:32] (R243). -/
def Obligations.BarrierWords : Prop :=
  ∀ (d a b : Nat) (op : BarOp) (sc : Scope) (sp : Bool) (s : State),
    let x := (readA (clu s) a).toNat
    let y := (readS (clu s) b).val.toNat
    let acc := fun (wr : Bool) (ea : Nat) => ([{ sp := sp, wr := wr, rd := true, ea := ea, n := 32, st := true }] : List Acc1)
    let arr := fun (w : Nat) => w / 2 ^ 34 % 2 ^ 14
    let done := fun (w : Nat) => if arr w = w / 2 ^ 48 % 2 ^ 14 ∧ w % 2 ^ 34 = 0
      then (if w / 2 ^ 63 % 2 = 0 then w + 2 ^ 63 else w - 2 ^ 63) - arr w * 2 ^ 34 else w
    (∀ u : Use, u = { rs := [b], ra := [a] } → Clear u s → (readS (clu s) b).pois = false → x % 32 = 0 → (sp = true → x < 2 ^ 32) → pchk (markRead u s) (acc true x) = .ok →
      let m := dropWalkBad (markRead u s)
      let r := objNat sp 8 x m
      let v := objNat sp 8 (x + 8) r.2
      let h := objNat sp 8 (x + 16) m
      let expected := r.1 / 2 ^ 48 % 2 ^ 14
      let lo := v.1 % 2 ^ 32
      let val := match op with
        | .none => v.1
        | .add => (v.1 + y) % 2 ^ 64
        | .maxu => v.1 - lo + max lo y
        | .fmax => v.1 - lo + (max32 (BitVec.ofNat 32 lo) (readS (clu s) b).val).toNat
        | .set => if arr r.1 = 0 then v.1 - lo + y else v.1
      let err := op = .set ∧ arr r.1 ≠ 0 ∧ lo ≠ y
      let barv := r.1 - arr r.1 * 2 ^ 34 + (arr r.1 + 1) % 2 ^ 14 * 2 ^ 34 + (if err ∧ r.1 / 2 ^ 62 % 2 = 0 then 2 ^ 62 else 0)
      let bexp := r.1 - r.1 % 2 ^ 34 + (r.1 % 2 ^ 34 + y) % 2 ^ 34
      (arr r.1 = expected → exec (.barv a b op sc sp) s = .next (raise cSEMOVF s.word (BitVec.ofNat 64 x) v.2))
      ∧ (arr r.1 ≠ expected → ∃ t, exec (.barv a b op sc sp) s = .next t
          ∧ Passed (counts (objPut sp 16 x (done barv + val * 2 ^ 64) (relAt sc v.2))) t)
      ∧ (∃ t, exec (.bexp a b sp) s = .next t ∧ Passed (counts (objPut sp 8 x (done bexp) (releaseAll r.2))) t)
      ∧ (let list := h.1 % 2 ^ 20
         let dev := h.1 / 2 ^ 40 % 2 ^ 16
         let made := fun (u : State) => ∃ t, exec (.binit a b sp) s = .next t ∧ Passed (counts (objPut sp 32 x (y % 2 ^ 14 * 2 ^ 48) (releaseAll u))) t
         let mine := isPull (h.2.cur + 1) dev list true
         let told := { h.2 with sent := h.2.sent.filter fun m => !mine m }
         (dev = h.2.device → made { writeList h.1 h.2 with
            holds := (writeList h.1 h.2).holds.filter fun e => !onList list (core (writeList h.1 h.2)).task.ctx e })
         ∧ (dev ≠ h.2.device → list = 0 → made h.2)
         ∧ (dev ≠ h.2.device → list ≠ 0 → dev ∈ h.2.lostDevs → made told)
         ∧ (dev ≠ h.2.device → list ≠ 0 → dev ∉ h.2.lostDevs → ∀ msg, h.2.sent.find? mine = some msg →
            (msg.body = .pull list true true → made told)
            ∧ (msg.body = .pull list true false → exec (.binit a b sp) s = .next (waitOn .object h.2)))
         ∧ (dev ≠ h.2.device → list ≠ 0 → dev ∉ h.2.lostDevs → h.2.sent.find? mine = none →
            exec (.binit a b sp) s = .next (waitOn .object (postMsg h.2 dev 0 (h.2.cur + 1) (.pull list true false))))))
    ∧ (∀ u : Use, u = { ra := [a] } → Clear u s → x / 2 % 16 = 0 → (sp = true → x < 2 ^ 32) → pchk (markRead u s) (acc false (x / 2 * 2)) = .ok →
      let m := dropWalkBad (markRead u s)
      let r := objNat sp 8 (x / 2 * 2) m
      (r.1 / 2 ^ 63 % 2 ≠ x % 2 → exec (.bwait a sc sp) s = .next (waitOn .object m))
      ∧ (r.1 / 2 ^ 63 % 2 = x % 2 → ∃ t, exec (.bwait a sc sp) s = .next t ∧ Passed (dropClean (fun _ => true) s.cur (acqAt sc r.2)) t))
    ∧ (∀ u : Use, u = { ra := [a], ws := [d] } → Clear u s → x % 32 = 0 → (sp = true → x < 2 ^ 32) → pchk (markRead u s) (acc false x) = .ok →
      let r := objNat sp 8 x (dropWalkBad (markRead u s))
      ∃ t, exec (.btest d a sp) s = .next t ∧ Passed (sbWrite d { val := BitVec.ofNat 32 (r.1 / 2 ^ 32) } r.2) t)

/-- REL outside its faults lists the sectors of the core's L1 with a store that comes before it, by what the control cluster
knows of A's stores, and holds those stores; with no such store it only goes on; where the table has no room, or the set is
another device's, it writes these sectors back. ACQ has the held set written back, here or by the device that lists it, drops
the core's clean copies of it, and acquires (R244-R246, R345, R346). The L1 and the hold table are the model's view of what
the device tracks (log entry 7); that the other device is asked by a message and waited for, and no longer once it is lost, is
its choice too (log entry 17). -/
def Obligations.HeldSets : Prop :=
  ∀ (a : Nat) (sc : Scope) (sp : Bool) (s : State), let u : Use := { ra := [a] }
    Clear u s →
    let x := (readA (clu s) a).toNat
    let m := dropWalkBad (markRead u s)
    let r := objNat sp 8 (x + 16) m
    let set := r.1 % 2 ^ 20
    let dev := r.1 / 2 ^ 40 % 2 ^ 16
    let c := core r.2
    let n := (cluAt c clC).know
    let mine := fun (l : Sector) => storesUpTo n l.since l != 0
    let list := if set = 0 then freshList r.2 else set
    let new := (c.l1.filter mine).filter fun l => !(r.2.holds.any fun h => h.list == list && h.core == s.cur && h.sector == l.key)
    let foreign := set ≠ 0 ∧ dev ≠ r.2.device
    let place := if sp then extPlace (counts r.2) c.task.ctx (x + 16) else (none, x + 16)
    let held := onCore (fun c => { c with l1 := lmap mine (fun l => { l with held := l.held ||| storesUpTo n l.stamps l }) c.l1 }) { counts r.2 with
      holds := r.2.holds ++ new.map fun l =>
        { list := list, core := s.cur, sector := l.key, ctx := c.task.ctx, sib := c.task.sib, vault := sp, ext := place.1, word := place.2 } }
    let sectors := ((held.holds.filter fun h => h.list == list && h.ctx == c.task.ctx).map fun h => h.sector).eraseDups.length
    (x % 32 = 0 → (sp = true → x < 2 ^ 32) → pchk (markRead u s) [{ sp := sp, wr := true, rd := true, ea := x, n := 32, st := true }] = .ok →
      ((∀ l ∈ c.l1, mine l = false) → ∃ t, exec (.rel a sc sp) s = .next t ∧ Passed (counts r.2) t)
      ∧ ((∃ l ∈ c.l1, mine l = true) → (foreign ∨ 262144 < r.2.holds.length + new.length) →
          ∃ t, exec (.rel a sc sp) s = .next t ∧ Passed (writeBack mine s.cur (counts r.2)) t)
      ∧ ((∃ l ∈ c.l1, mine l = true) → ¬foreign → r.2.holds.length + new.length ≤ 262144 → ∃ t, exec (.rel a sc sp) s = .next t
          ∧ Passed (objPut sp 8 (x + 16) (list + min sectors (2 ^ 20 - 1) * 2 ^ 20 + r.2.device * 2 ^ 40) held) t))
    ∧ (x % 32 = 0 → (sp = true → x < 2 ^ 32) → pchk (markRead u s) [{ sp := sp, wr := false, rd := true, ea := x, n := 32, st := true }] = .ok →
      let w := writeList r.1 r.2
      let keys := (w.holds.filter fun h => h.list == set && h.ctx == (core w).task.ctx).map fun h => h.sector
      let takes := fun (p : Sector → Bool) (u : State) => ∃ t, exec (.acq a sc sp) s = .next t ∧ Passed (acqAt sc (dropClean p s.cur u)) t
      let asks := isPull (r.2.cur + 1) dev set false
      let told := { r.2 with sent := r.2.sent.filter fun m => !asks m }
      (dev = r.2.device → takes (fun l => keys.contains l.key) w)
      ∧ (dev ≠ r.2.device → set = 0 → takes (fun _ => true) r.2)
      ∧ (dev ≠ r.2.device → set ≠ 0 → dev ∈ r.2.lostDevs → takes (fun _ => true) told)
      ∧ (dev ≠ r.2.device → set ≠ 0 → dev ∉ r.2.lostDevs → ∀ msg, r.2.sent.find? asks = some msg →
          (msg.body = .pull set false true → takes (fun _ => true) told)
          ∧ (msg.body = .pull set false false → exec (.acq a sc sp) s = .next (waitOn .object r.2)))
      ∧ (dev ≠ r.2.device → set ≠ 0 → dev ∉ r.2.lostDevs → r.2.sent.find? asks = none →
          exec (.acq a sc sp) s = .next (waitOn .object (postMsg r.2 dev 0 (r.2.cur + 1) (.pull set false false)))))

/-- SHOPEN gives 3, 1 or 2 for a descriptor that breaks its rules, a page with SH = 1 and missing frames, with no other effect
than that it counts for TACK (R437), and else 0 with every page's shadow open and ALIAS written (R248); where a place for the
window is found, and which, is the model's choice (notes/assumptions/15.md). PUBL of a range with an unopened page raises PROT
at its first; else it publishes every page and forgets the context's translations, and the queue loads on their way have read
their bytes (R249, R410). -/
def Obligations.ShadowWords : Prop :=
  ∀ (d a : Nat) (s : State),
    let ea := (readA (clu s) a).toNat
    (∀ u : Use, u = { ra := [a], ws := [d] } → Clear u s → ea % 32 = 0 →
      pchk (markRead u s) [{ sp := false, wr := true, rd := true, ea := ea, n := 32, st := true }] = .ok →
        let r := objNat false 32 ea (dropWalkBad (markRead u s))
        let base := fieldAt r.1 0 8
        let n := fieldAt r.1 8 4
        let leaf := fun (i : Nat) => ownLeaf r.2 (base / 65536 + i)
        let gives := fun (v : Word) => ∃ t, exec (.shopen d a) s = .next t ∧ Passed (sbWrite d { val := v } (counts r.2)) t
        let bad := fieldAt r.1 12 4 ≠ 0 ∨ fieldAt r.1 24 8 ≠ 0 ∨ n = 0 ∨ 65536 < n ∨ base % 65536 ≠ 0
          ∨ ∃ i, i < n ∧ (leaf i = none ∨ 2 ^ 32 ≤ base / 65536 + i ∨ ∃ l p k, leaf i = some (l, p, k) ∧ k ≠ 2)
        let open_ := ∃ i l p k, i < n ∧ leaf i = some (l, p, k) ∧ leafSH l = true
        let need := fun (t : Nat) => (List.range n).countP fun i => match leaf i with | some (l, _, _) => shadowTier l == t | none => false
        let room := need 0 ≤ freeFrames r.2 0 ∧ need 1 ≤ freeFrames r.2 1
        (bad → gives 3) ∧ (¬bad → open_ → gives 1) ∧ (¬bad → ¬open_ → ¬room → gives 2)
        ∧ (¬bad → ¬open_ → room → match aliasPlace r.2 n with
            | none => gives 2
            | some w =>
              let o := (List.range n).foldl (fun t i => openShadow (w + i) t (base / 65536 + i)) { writeBack (fun _ => true) s.cur r.2 with free := r.2.free + 1 }
              let p := objPut false 8 (ea + 16) (w * 65536) o
              ∃ t, exec (.shopen d a) s = .next t ∧ Passed (sbWrite d { val := 0 } (counts (dropLook p (core p).task.ctx))) t))
    ∧ (∀ u : Use, u = { ra := [a] } → Clear u s → ea % 32 = 0 →
      pchk (markRead u s) [{ sp := false, wr := false, rd := true, ea := ea, n := 32, st := true }] = .ok →
        let r := objNat false 32 ea (dropWalkBad (markRead u s))
        let p0 := fieldAt r.1 0 8 / 65536
        let n := fieldAt r.1 8 4
        let ctx := (core r.2).task.ctx
        let ready := fun (i : Nat) => p0 + i < 2 ^ 32 ∧ (∃ l p k, ownLeaf r.2 (p0 + i) = some (l, p, k) ∧ leafSH l = true) ∧ shadowOf r.2 ctx (p0 + i) ≠ none
        (∀ i, i < n → ¬ready i → (∀ j, j < i → ready j) →
            exec (.publ a) s = .next (raise cPROT s.word (BitVec.ofNat 64 ((p0 + i) * 65536)) r.2))
        ∧ ((∀ i, i < n → ready i) → ∃ t, exec (.publ a) s = .next t
            ∧ Passed (counts (dropLook ((List.range n).foldl (fun t i => publishPage t (p0 + i)) (landLate (releaseAll r.2))) ctx)) t))

/-- REMQ and REMQT to a block of this device: a delivered command stands last in the block's queue as its packet; a full block
is waited on or gives 1; an aA that names no block, a block of another context and one that is disabled raise PROT, before an
error in the command does (R234), or give 2 (R250-R252, R325). A target on another device is sent the delivery, whose answer
the word waits for and takes: 0 delivered, 1 full, 2 refused, which is PROT for REMQ, and for REMQT 3 where none came; a lost
device refuses (R250-R252, R456). Where a REMQ's command cannot be read and its target is another device's block, that device
is asked first, since a refusal comes first (R234). How it is asked is the model's choice (log entry 17). WPUSH, WPOP and
WSTEAL on a work queue, whose header holds HEAD [31:0], TAIL [63:32] and LOG2 at byte 8: WPUSH appends the record at TAIL and
waits while the queue is full; WPOP takes the newest record and WSTEAL the oldest, give 1, and give 0 when the queue is empty;
a header that breaks R336 raises QPROTO, and the record at aB and the one in the ring that the word reaches are checked after
the header has been read, row by row (R234, R253, R336, R337). -/
def Obligations.RemoteAndWorkQueues : Prop :=
  (∀ (d a b : Nat) (s : State),
    let ea := (readA (clu s) a).toNat
    let eb := (readA (clu s) b).toNat
    let acc : List Acc1 := [{ sp := false, wr := false, rd := false, ea := ea, n := 64 }, { sp := false, wr := false, rd := false, ea := eb, n := 16 }]
    let command : List Acc1 := [{ sp := false, wr := false, rd := true, ea := eb, n := 16, st := true }]
    let runs := fun (once : Bool) (u : Use) =>
      let i := if once then Instr.remqt d a b else .remq a b
      let m := onCore (fun c => { c with late := [] }) (markRead u s)
      let r := readBytes true false 16 eb (dropWalkBad m)
      let f := releaseAll r.2
      let rejected := match blockOfKey m (tileKey m ea) with
        | none => true
        | some (dev, n, _) => blockDepth n == 0 || (if dev = m.device then refuses m n (core m).task.ctx else m.lostDevs.contains dev)
      let ends := fun (v : Nat) (t : State) => ∃ x, exec i s = .next x ∧ Passed (if once then sbWrite d { val := BitVec.ofNat 32 v } (if v = 0 ∨ v = 3 then counts t else t) else counts t) x
      Clear u s → ea % 64 = 0 → eb % 16 = 0 → pchk (markRead u s) acc = .ok →
        (once = false → rejected = true → exec i s = .next (raise cPROT s.word (BitVec.ofNat 64 ea) m))
        ∧ (∀ c x, pchk m command = .bad c x →
          let v := dropWalkBad m
          let stops := fun (t : State) => exec i s = .next (raise c s.word (BitVec.ofNat 64 x) t)
          (once = true → stops v)
          ∧ (once = false → rejected = false → ∀ dev n o, blockOfKey v (tileKey v ea) = some (dev, n, o) →
            let mine := fun (y : Msg) => y.core == v.cur + 1 && y.dst == dev && (match y.body with | .ask j _ => j == n | _ => false)
            let told := { v with sent := v.sent.filter fun y => !mine y }
            (dev = v.device → stops v)
            ∧ (dev ≠ v.device → v.sent.find? mine = none → exec i s = .next (waitOn .object (postMsg v dev 0 (v.cur + 1) (.ask n none))))
            ∧ (dev ≠ v.device → ∀ y, v.sent.find? mine = some y →
              (y.body = .ask n none → exec i s = .next (waitOn .object v))
              ∧ (y.body = .ask n (some 2) → exec i s = .next (raise cPROT s.word (BitVec.ofNat 64 ea) told))
              ∧ (∀ r, r ≠ 2 → y.body = .ask n (some r) → stops told))))
        ∧ ((once = true ∨ rejected = false) → pchk m command = .ok →
          (blockOfKey r.2 (tileKey r.2 ea) = none → once = true → ends 2 r.2)
          ∧ (∀ n o, blockOfKey r.2 (tileKey r.2 ea) = some (f.device, n, o) →
              (refuses f n (core r.2).task.ctx = true → once = true → ends 2 f)
              ∧ (refuses f n (core r.2).task.ctx = false → ((blockAt f n).held || blockFull f n) = true →
                (once = false → exec i s = .next (waitOn .object f)) ∧ (once = true → ends 1 f))
              ∧ (refuses f n (core r.2).task.ctx = false → ((blockAt f n).held || blockFull f n) = false →
                let p := { packetOf r.1 with dev := f.device }
                ends 0 (setBlock f n { blockAt f n with pk := p, staged := false, cmds := (blockAt f n).cmds ++ [.raw p] })))
          ∧ (∀ dev n o, blockOfKey r.2 (tileKey r.2 ea) = some (dev, n, o) → dev ≠ f.device →
              let p := packetOf r.1
              let told := { f with sent := f.sent.filter fun x => !isDelivery (f.cur + 1) dev n p x }
              (dev ∈ f.lostDevs → once = true → ends 2 told)
              ∧ (dev ∉ f.lostDevs → f.sent.find? (isDelivery (f.cur + 1) dev n p) = none →
                exec i s = .next (waitOn .object (sendFor once (f.cur + 1) (core r.2).task.ctx f dev n p)))
              ∧ (dev ∉ f.lostDevs → ∀ y k g, f.sent.find? (isDelivery (f.cur + 1) dev n p) = some y →
                (y.body = .deliver n k p g none → exec i s = .next (waitOn .object f))
                ∧ (y.body = .deliver n k p g (some 0) → ends 0 told)
                ∧ (∀ v, 0 < v → v < 4 → y.body = .deliver n k p g (some v) →
                  (once = true → ends v told)
                  ∧ (once = false → v = 2 → exec i s = .next (raise cPROT s.word (BitVec.ofNat 64 ea) told))
                  ∧ (once = false → v ≠ 2 → exec i s = .next (waitOn .object told))))))
    runs false { ra := [a, b] } ∧ runs true { ra := [a, b], ws := [d] })
  ∧ (∀ (d a b : Nat) (s : State),
    let ea := (readA (clu s) a).toNat
    let eb := (readA (clu s) b).toNat
    let acc := fun (wr : Bool) => ([{ sp := false, wr := true, rd := true, ea := ea, n := 64, st := true },
      { sp := false, wr := wr, rd := false, ea := eb, n := 16 }] : List Acc1)
    let slot := fun (e i : Nat) => ea + 64 + 16 * (i % 2 ^ fieldAt e 8 4)
    let own := fun (wr : Bool) => ({ sp := false, wr := wr, rd := !wr, ea := eb, n := 16, st := true } : Acc1)
    let ring := fun (wr : Bool) (at_ : Nat) => ({ sp := false, wr := wr, rd := !wr, ea := at_, n := 16, st := true } : Acc1)
    let header := fun (u : Use) => objNat false 64 ea (onCore (fun c => { c with late := [] }) (markRead u s))
    let stops := fun (i : Instr) (t : State) (l : List Acc1) =>
      ∀ c x, pchk t l = .bad c x → exec i s = .next (raise c s.word (BitVec.ofNat 64 x) (dropWalkBad t))
    ea % 64 = 0 → eb % 16 = 0 →
    (∀ u : Use, u = { ra := [a, b] } → Clear u s → pchk (markRead u s) (acc false) = .ok →
      let r := header u
      let head := fieldAt r.1 0 4
      let tail := fieldAt r.1 4 4
      let full := (tail + 2 ^ 32 - head) % 2 ^ 32 = 2 ^ fieldAt r.1 8 4
      let at_ := slot r.1 tail
      let t := dropWalkBad r.2
      let w := objNat false 16 eb t
      ((wqOk r.1 = false ∨ full) → stops (.wpush a b) r.2 [own false])
      ∧ (wqOk r.1 = false → pchk r.2 [own false] = .ok → exec (.wpush a b) s = .next (raise cQPROTO s.word (BitVec.ofNat 64 ea) t))
      ∧ (wqOk r.1 = true → full → pchk r.2 [own false] = .ok → exec (.wpush a b) s = .next (waitOn .object t))
      ∧ (wqOk r.1 = true → ¬full → stops (.wpush a b) r.2 [own false, ring true at_]
        ∧ (pchk r.2 [own false, ring true at_] = .ok →
          ∃ t, exec (.wpush a b) s = .next t ∧ Passed (counts (objPut false 4 (ea + 4) (tail + 1) (objPut false 16 at_ w.1 (releaseAll w.2)))) t)))
    ∧ (∀ u : Use, u = { ra := [a, b], ws := [d] } → Clear u s → pchk (markRead u s) (acc true) = .ok →
      let r := header u
      let head := fieldAt r.1 0 4
      let tail := fieldAt r.1 4 4
      let last := (tail + 2 ^ 32 - 1) % 2 ^ 32
      let takes := fun (i : Instr) (at_ new : Nat) =>
        let t := dropWalkBad r.2
        let w := objNat false 16 at_ t
        ((wqOk r.1 = false ∨ head = tail) → stops i r.2 [own true])
        ∧ (wqOk r.1 = false → pchk r.2 [own true] = .ok → exec i s = .next (raise cQPROTO s.word (BitVec.ofNat 64 ea) t))
        ∧ (wqOk r.1 = true → head = tail → pchk r.2 [own true] = .ok → ∃ v, exec i s = .next v ∧ Passed (sbWrite d { val := 0 } t) v)
        ∧ (wqOk r.1 = true → head ≠ tail → stops i r.2 [own true, ring false at_]
          ∧ (pchk r.2 [own true, ring false at_] = .ok →
            ∃ v, exec i s = .next v ∧ Passed (sbWrite d { val := 1 } (counts (acquireAll (objPut false 8 ea new (objPut false 16 eb w.1 w.2))))) v))
      takes (.wpop d a b) (slot r.1 last) (head + last * 2 ^ 32)
      ∧ takes (.wsteal d a b) (slot r.1 head) ((head + 1) % 2 ^ 32 + tail * 2 ^ 32)))

/-- GFORK outside a handler, on a descriptor, record, node, kernel and prompt range that pass every check of R263 and R355:
the fork completes and one gang of N tasks is added, under the group's new number; a live group id gives sD = 2, a sibling of
depth 7, too few free cores, a kernel whose queues or unpinned extents find no room, pages that cannot be forked and too few
frames give sD = 1, a node or a kernel that cannot be read, whose failed walk is in the fault log (R379), GROUP 1 and sD = 1,
a descriptor that breaks its rules and a record in use raise GROUP with their subcodes; in a handler it raises ILLEGAL. That
too few free cores among the benches of the context's nodes fail the fork, and that PPAGES above 65,536 breaks the
descriptor's rules, are the model's reading (log entry 25). -/
def Obligations.ForkingAGroup : Prop :=
  ∀ (d a : Nat) (s : State), let u : Use := { ra := [a], ws := [d] }
    Clear u s →
    let ea := (readA (clu s) a).toNat
    let m := markRead u s
    let f := onCore (fun c => { c with late := [] }) m
    let k := (core s).task
    let r := objNat false 64 ea f
    let e := r.1
    let n := fieldAt e 12 1
    let rec_ := fieldAt e 0 8
    let g := dropWalkBad r.2
    let b := objNat false 1 rec_ g
    let node := readNode g (core g).task.ctx (fieldAt e 48 4)
    let slots : List Acc1 := (List.range n).map fun i => { sp := false, wr := true, rd := false, ea := fieldAt e 40 8 + 4096 * i, n := 4096 }
    let gives := fun (v : Word) => ∃ t, exec (.gfork d a) s = .next t ∧ Passed (sbWrite d { val := v } b.2) t
    let group := fun (v : Word) (t : State) => exec (.gfork d a) s = .next (raise cGROUP v 0 t)
    ((core s).level ≠ 0 → exec (.gfork d a) s = .next (raise cILLEGAL s.word 0 m))
    ∧ ((core s).level = 0 → ea % 64 = 0 → pchk m [{ sp := false, wr := false, rd := true, ea := ea, n := 64, st := true }] = .ok →
      pchk r.2 ({ sp := false, wr := true, rd := false, ea := rec_, n := 640 } :: { sp := false, wr := false, rd := true, ea := rec_, n := 1, st := true } :: slots) = .ok →
        (descBad e = true → group 1 g)
        ∧ (∀ x, descBad e = false → node = .error x → group 1 (readLog g (dieOf s.cur) k.ctx x))
        ∧ (∀ nd, descBad e = false → node = .ok nd →
            (nd.kind ≠ 2 → group 1 b.2)
            ∧ (nd.kind = 2 →
              let used := b.1 ≠ 0 ∨ (groupAtRec b.2 k.ctx (BitVec.ofNat 64 rec_)).isSome = true
              let live := b.2.groups.any fun x => x.ctx == k.ctx && x.gid.toNat == fieldAt e 8 4
              let few := 7 ≤ k.sib.length ∨ (freeCores b.2 (heldBenches b.2 k.ctx)).length < n
              (used → group 2 b.2) ∧ (¬used → live = true → gives 2) ∧ (¬used → live = false → few → gives 1)
              ∧ (∀ x, ¬used → live = false → ¬few → readKernel b.2 k.ctx nd.obj nd.ksym = .error x →
                  ∃ t, exec (.gfork d a) s = .next t ∧ Passed (sbWrite d { val := 1 } (readLog b.2 (dieOf s.cur) k.ctx x)) t)
              ∧ (∀ desc, ¬used → live = false → ¬few → readKernel b.2 k.ctx nd.obj nd.ksym = .ok desc →
                  forkPages b.2 (fieldAt e 16 8 / 65536) (fieldAt e 24 4) = none → gives 1)
              ∧ (∀ desc ps, ¬used → live = false → ¬few → readKernel b.2 k.ctx nd.obj nd.ksym = .ok desc →
                  forkPages b.2 (fieldAt e 16 8 / 65536) (fieldAt e 24 4) = some ps →
                  (qspace desc = true ∨ unpinnedRoom b.2 < unpinnedRows desc.kern
                    ∨ freeFrames b.2 0 < (n + 1) * (ps.countP fun p => leafTier p.2.1 == 0)
                    ∨ freeFrames b.2 1 < (n + 1) * (ps.countP fun p => leafTier p.2.1 == 1)) → gives 1)
              ∧ (∀ desc ps, ¬used → live = false → ¬few → readKernel b.2 k.ctx nd.obj nd.ksym = .ok desc →
                  forkPages b.2 (fieldAt e 16 8 / 65536) (fieldAt e 24 4) = some ps → qspace desc = false →
                  unpinnedRows desc.kern ≤ unpinnedRoom b.2 → (n + 1) * (ps.countP fun p => leafTier p.2.1 == 0) ≤ freeFrames b.2 0 →
                  (n + 1) * (ps.countP fun p => leafTier p.2.1 == 1) ≤ freeFrames b.2 1 →
                    ∃ t x, exec (.gfork d a) s = .next t ∧ t = forkGroup d ea e nd desc ps b.2
                      ∧ t.runs = b.2.runs ++ [x] ∧ x.gang = some b.2.nextGroup ∧ x.ctx = k.ctx ∧ x.node = fieldAt e 48 4 ∧ x.kind = 2
                      ∧ x.tasks.length = n ∧ t.nextGroup = b.2.nextGroup + 1))))

/-- GREWD, GBAR, GCANC and GQRY on a live group g whose record stands at aA, by a core that it serves (R264-R267, R357): GREWD
of a sibling gives 3 cancelled, 1 late, 2 a second reward, 4 NaN or infinite, and else 0: the reward and its arrival bit are
recorded and the group is Collecting, or Closed once arrivals and cancellations cover it, its scoring then a step of its own.
GBAR gives a terminal state and acquires, and waits in any other. GCANC cancels one sibling or all; with all cancelled before
the close the state is Cancelled. GQRY reads items. A context that is no member raises GROUP 3, an index of N or more GROUP 4.
On a released record GREWD and GCANC raise GROUP 3, and GBAR and GQRY read its bytes; that GBAR is then valid in a terminal
state alone, for the context that OWNER names, and that item 5 of GQRY gives the sibling's own index whichever group the
record is of, is the model's reading of R353 and R267 (log entry 25); that no write permission of the record is asked for, its
reading of R352 (log entry 24). GYLD outside a handler: without its Y bit, with an entry left in a data queue or a token
unread it raises GROUP 5; a context that is no sibling of the group raises GROUP 3; a cancelled sibling's tile ends, when the
MMAs issued before the cycle have completed; under a pending pre-emption a sibling of a Forked or Collecting group saves its
continuation and its tile ends, and one of a group past that, which stays pending, ends its tile without saving (R364);
without one it only goes on. On a released record it raises GROUP 3 (R353) (R268, R362). That it waits while another word of
its rendezvous has not acted is the model's choice (log entry 46), that no write permission of the record is asked for its
reading (log entry 24). What scoring a closed group gives (R43, R359, R360): a group with no member or fewer than MIN Fails,
with nothing else written; otherwise the mean, the deviations, the variance and the standard deviation over the members'
rewards, in ascending order of their indices, each operation rounded once and each sum by the fixed tree; every member's
advantage, +0 with ZV where the variance is zero; and no other field. A closed group is scored at a moment of the device's
choice (R357; notes/assumptions/25.md). The continuation that a GYLD under a pre-emption saves, and what follows (R362): the
scoreboarded results of the sibling land, what its core has stored is written back, and 4,096 bytes go to CONT + 4,096 × its
index: for each active cluster, A, V, M and C, its scalars with their poison, LSTAT, virtual PC, address registers, loop
levels and the landing records of its pending scalar and address results, zero for an inactive one; then the handshake
counters and KCTL. Bit s of SAVE is set, the group is Suspended once every sibling has saved, ended or been cancelled, and the
tile ends. -/
def Obligations.GroupWords : Prop :=
  (∀ (d a b : Nat) (s : State) (g : Group),
    let ea := (readA (clu s) a).toNat
    let sib := (core s).task.sib
    let acc : List Acc1 := [{ sp := false, wr := false, rd := false, ea := ea, n := 640 }]
    let reading := fun (l : List (Nat × Nat)) => acc ++ l.map fun x => ({ sp := false, wr := false, rd := true, ea := ea + x.1, n := x.2, st := true } : Acc1)
    let y := readS (clu s) b
    let not3 := fun (i : Instr) (f : State) => exec i s = .next (raise cGROUP 3 0 f)
    (∀ u : Use, u = { ra := [a], ws := [d] } → Clear u s → ea % 64 = 0 → groupAtRec s (core s).task.ctx (readA (clu s) a) = none →
      let f := dropWalkBad (markRead u s)
      (pchk (markRead u s) (reading [(0, 1), (76, 4)]) = .ok →
        let r := objNat false 1 ea f
        let o := objNat false 4 (ea + 76) r.2
        let own := 4 ≤ r.1 ∧ r.1 ≤ 6 ∧ o.1 = (ctxidOf (core s).task.ctx sib).toNat
        (own → ∃ t, exec (.gbar d a) s = .next t ∧ Passed (sbWrite d { val := BitVec.ofNat 32 r.1 } (acquireAll o.2)) t)
        ∧ (¬own → not3 (.gbar d a) o.2))
      ∧ (∀ n x, (n, x) ∈ [(0, 0, 1), (1, 3, 1), (2, 8, 4), (3, 12, 4), (4, 32, 4)] → pchk (markRead u s) (reading [x]) = .ok →
          ∃ t, exec (.gqry d a n) s = .next t
            ∧ Passed (sbWrite d { val := BitVec.ofNat 32 (objNat false x.2 (ea + x.1) f).1 } (objNat false x.2 (ea + x.1) f).2) t))
    ∧ (∀ u : Use, u = { rs := [b], ra := [a], ws := [d] } → Clear u s → y.pois = false → ea % 64 = 0 →
        groupAtRec s (core s).task.ctx (readA (clu s) a) = none → pchk (markRead u s) acc = .ok → not3 (.grewd d a b) (dropWalkBad (markRead u s)))
    ∧ (∀ u : Use, u = { rs := [b], ra := [a] } → Clear u s → y.pois = false → ea % 64 = 0 →
        groupAtRec s (core s).task.ctx (readA (clu s) a) = none → pchk (markRead u s) acc = .ok → not3 (.gcanc a b) (dropWalkBad (markRead u s)))
    ∧ (groupAtRec s (core s).task.ctx (readA (clu s) a) = some g → ea % 64 = 0 →
    (∀ u : Use, u = { rs := [b], ra := [a], ws := [d] } → Clear u s → y.pois = false → pchk (markRead u s) acc = .ok →
      let f := dropWalkBad (markRead u s)
      let gives := fun (v : Word) (x : State) => ∃ t, exec (.grewd d a b) s = .next t ∧ Passed (sbWrite d { val := v } (counts x)) t
      let late := 3 ≤ g.st ∧ g.st ≤ 6
      (sibIndex g sib = none → not3 (.grewd d a b) f)
      ∧ (∀ i, sibIndex g sib = some i →
          (g.cancel.getLsbD i = true → gives 3 f)
          ∧ (g.cancel.getLsbD i = false → late → gives 1 f)
          ∧ (g.cancel.getLsbD i = false → ¬late → g.arrive.getLsbD i = true → gives 2 f)
          ∧ (g.cancel.getLsbD i = false → ¬late → g.arrive.getLsbD i = false → y.val.toNat / 2 ^ 23 % 2 ^ 8 = 255 → gives 4 f)
          ∧ (g.cancel.getLsbD i = false → ¬late → g.arrive.getLsbD i = false → y.val.toNat / 2 ^ 23 % 2 ^ 8 ≠ 255 →
              ∃ h, gives 0 (releaseGroup (putGroup (releaseAll f) h) g.uid) ∧ fget 0 h.reward i = y.val
                ∧ h.arrive = g.arrive ||| (1 : BitVec 64) <<< i ∧ h.cancel = g.cancel
                ∧ (covered h = false → h.st = 2) ∧ (covered h = true → h.st = 3))))
    ∧ (∀ u : Use, u = { ra := [a], ws := [d] } → Clear u s → pchk (markRead u s) acc = .ok →
      let f := dropWalkBad (markRead u s)
      let reads := fun (n : Nat) (v : Word) => ∃ t, exec (.gqry d a n) s = .next t ∧ Passed (sbWrite d { val := v } f) t
      let field := fun (at_ n : Nat) => BitVec.ofNat 32 (leNat (((groupBytes g).drop at_).take n))
      (isMember g sib = false → not3 (.gbar d a) f)
      ∧ (isMember g sib = true → 4 ≤ g.st → g.st ≤ 6 → ∃ t, exec (.gbar d a) s = .next t ∧ Passed (sbWrite d { val := BitVec.ofNat 32 g.st } (acquireAll f)) t)
      ∧ (isMember g sib = true → (g.st < 4 ∨ 6 < g.st) → exec (.gbar d a) s = .next (waitOn .object f))
      ∧ reads 0 (field 0 1) ∧ reads 1 (field 3 1) ∧ reads 2 (field 8 4) ∧ reads 3 (field 12 4) ∧ reads 4 (field 32 4)
      ∧ reads 5 (match sib with | (_, i) :: _ => BitVec.ofNat 32 i | [] => 0xFFFFFFFF))
    ∧ (∀ u : Use, u = { rs := [b], ra := [a] } → Clear u s → y.pois = false → pchk (markRead u s) acc = .ok →
      let f := dropWalkBad (markRead u s)
      let all := y.val = 0xFFFFFFFF
      let mask := if all then lowMask g.n else (1 : BitVec 64) <<< y.val.toNat
      (isMember g sib = false → not3 (.gcanc a b) f)
      ∧ (isMember g sib = true → ¬all → g.n ≤ y.val.toNat → exec (.gcanc a b) s = .next (raise cGROUP 4 0 f))
      ∧ (isMember g sib = true → (all ∨ y.val.toNat < g.n) →
          ∃ h, (∃ t, exec (.gcanc a b) s = .next t ∧ Passed (counts (releaseGroup
              ((List.range g.n).foldl (fun t i => if mask.getLsbD i then preInner t g i else t) (putGroup f h)) g.uid)) t)
            ∧ h.cancel = g.cancel ||| mask ∧ h.reward = g.reward
            ∧ ((g.st = 1 ∨ g.st = 2 ∨ g.st = 7) → h.cancel &&& lowMask g.n = lowMask g.n → h.st = 6)
            ∧ ((g.st = 1 ∨ g.st = 2 ∨ g.st = 7) → h.cancel &&& lowMask g.n ≠ lowMask g.n → covered h = true → h.st = 3)
            ∧ (3 ≤ g.st → g.st ≤ 6 → h.st = g.st ∧ h.adv = g.adv)))))
  ∧ (∀ (a : Nat) (s : State), let u : Use := { ra := [a] }
    Clear u s →
    let ea := (readA (clu s) a).toNat
    let m := markRead u s
    let f := dropWalkBad m
    let late := groupLate f = true
    let held := s.word.getLsbD 30 = false ∨ queueLeft f = true ∨ unreadCmd f = true
    ((core s).level ≠ 0 → exec (.gyld a) s = .next (raise cILLEGAL s.word 0 m))
    ∧ ((core s).level = 0 → ea % 64 = 0 → groupAtRec m (core m).task.ctx (readA (clu m) a) = none →
      pchk m [{ sp := false, wr := false, rd := false, ea := ea, n := 640 }] = .ok →
        (held → exec (.gyld a) s = .next (raise cGROUP 5 0 f)) ∧ (¬held → late → exec (.gyld a) s = .next (waitOn .object f))
        ∧ (¬held → ¬late → exec (.gyld a) s = .next (raise cGROUP 3 0 f)))
    ∧ (∀ g, (core s).level = 0 → ea % 64 = 0 → groupAtRec m (core m).task.ctx (readA (clu m) a) = some g →
      pchk m [{ sp := false, wr := false, rd := false, ea := ea, n := 640 }] = .ok →
        (held → exec (.gyld a) s = .next (raise cGROUP 5 0 f))
        ∧ (¬held → late → exec (.gyld a) s = .next (waitOn .object f))
        ∧ (¬held → ¬late → sibIndex g (core s).task.sib = none → exec (.gyld a) s = .next (raise cGROUP 3 0 f))
        ∧ (∀ i, ¬held → ¬late → sibIndex g (core s).task.sib = some i →
            (g.cancel.getLsbD i = true → mmaLeft f = false → exec (.gyld a) s = .next (tileOver (releaseAll f) s.cur false))
            ∧ (g.cancel.getLsbD i = true → mmaLeft f = true → exec (.gyld a) s = .next (waitOn .array f))
            ∧ (g.cancel.getLsbD i = false → g.pre = true → (g.st = 1 ∨ g.st = 2) → exec (.gyld a) s = .next (saveSibling g i (retire [] f)))
            ∧ (g.cancel.getLsbD i = false → g.pre = true → g.st ≠ 1 → g.st ≠ 2 →
                (mmaLeft f = false → exec (.gyld a) s = .next (tileOver (releaseAll f) s.cur false))
                ∧ (mmaLeft f = true → exec (.gyld a) s = .next (waitOn .array f)))
            ∧ (g.cancel.getLsbD i = false → g.pre = false → ∃ t, exec (.gyld a) s = .next t ∧ Passed f t))))
  ∧ (∀ (g : Group) (s : State),
    let m := (List.range g.n).filter fun i => g.arrive.getLsbD i
    let n := m.length
    let x := fun (i : Nat) => fget 0 g.reward (m.getD i 0)
    let h := score g
    let rises := fun (T : Nat → Nat → Ex) (leaf : Nat → Ex) =>
      (∀ i, T 0 i = if i < n then leaf i else .fin false 0 0 false)
        ∧ ∀ l i, T (l + 1) i = dec32 (rne32 (exAdd (T l (2 * i)) (T l (2 * i + 1))))
    ((n = 0 ∨ n < g.minN) → h = { g with st := 5 })
    ∧ (1 ≤ n → g.minN ≤ n → ∃ (T U : Nat → Nat → Ex) (k : Nat),
        let mean := rne32 (exDiv (T k 0) (exOfInt n))
        let d := fun (i : Nat) => rne32 (exAdd (dec32 (x i)) (exOpp (dec32 mean)))
        let var := rne32 (exDiv (U k 0) (exOfInt n))
        let std := rne32 (exSqrt (dec32 var))
        let den := rne32 (exMax (dec32 std) (dec32 g.eps))
        let zero := exZero (dec32 var)
        n ≤ 2 ^ k ∧ (∀ j, n ≤ 2 ^ j → k ≤ j)
          ∧ rises T (fun i => dec32 (x i)) ∧ rises U (fun i => dec32 (rne32 (exMul (dec32 (d i)) (dec32 (d i)))))
          ∧ h = { g with st := 4, mean := mean, std := std, zv := zero, adv := h.adv }
          ∧ (∀ i, i < n → fget 0 h.adv (m.getD i 0) = if zero then 0 else rne32 (exDiv (dec32 (d i)) (dec32 den)))
          ∧ ∀ j, j ∉ m → fget 0 h.adv j = fget 0 g.adv j)
    ∧ (s.groups.filter (fun y => y.st == 3) = [g] →
        let u := { s with free := s.free + 1 }
        scoreGroups s = if Config.free s.free % 2 = 0 then u else releaseGroup (putGroup u h) g.uid))
  ∧ (∀ (c : Core) (g : Group) (i : Nat) (s : State),
    let b := slotBytes c
    let part := fun (l : List Byte) (at_ n : Nat) => (l.drop at_).take n
    b.length = 4096
    ∧ part b 2560 12 = (List.range 12).map (fun j => BitVec.ofNat 8 ((fget ({} : HCnt) c.h j).val % 16 + (fget ({} : HCnt) c.h j).ceil % 16 * 16))
    ∧ part b 2572 4 = leBytes 4 c.kctl.toNat ∧ part b 2576 1520 = List.replicate 1520 0
    ∧ (∀ j, j < 4 →
      let k := cluAt c j
      let blk := part b (640 * j) 640
      let ls := (k.pend.filter fun l => l.kind == .s || l.kind == .a).take 12
      (k.active = false → blk = List.replicate 640 0)
      ∧ (k.active = true →
        (∀ r, r < 32 → part blk (4 * r) 4 = leBytes 4 (fget ({} : Scalar) k.s r).val.toNat
          ∧ (leNat (part blk 128 4)).testBit r = (fget ({} : Scalar) k.s r).pois)
        ∧ part blk 132 4 = leBytes 4 (lstatOf k).toNat ∧ part blk 136 8 = leBytes 8 k.pc.toNat
        ∧ (∀ r, r < 16 → part blk (144 + 8 * r) 8 = leBytes 8 (fget 0 k.a r).toNat)
        ∧ (∀ n, n < 4 → let l := loopAt k n
            part blk (272 + 32 * n) 32 = leBytes 8 l.start.toNat ++ leBytes 8 l.last.toNat ++ leBytes 4 l.count ++ leBytes 4 (fget 0 k.l n).toNat
              ++ leBytes 4 (b2n l.active + 2 * b2n l.rot + 4 * b2n l.stream + 16 * (l.queue % 16)) ++ leBytes 4 0)
        ∧ part blk 400 4 = leBytes 4 ls.length ∧ part blk 404 12 = List.replicate 12 0
        ∧ (∀ n l, ls[n]? = some l → part blk (416 + 16 * n) 16 =
            leBytes 4 (b2n (l.kind == .a) + l.reg * 2 ^ 8 + l.remain * 2 ^ 16 + b2n (l.kind == .s && l.pois.getLsbD 0) * 2 ^ 24)
              ++ leBytes 4 0 ++ leBytes 8 (l.bits.toNat % 2 ^ 64))
        ∧ (∀ n, ls.length ≤ n → n < 12 → part blk (416 + 16 * n) 16 = List.replicate 16 0)))
    ∧ (groupOf s g.uid = some g →
      let s1 := onCore (fun c => landSb 3 (landSb 2 (landSb 1 (landSb 0 c)))) s
      let s2 := evictAll (fun _ => true) s.cur s1
      let w := deviceWrite s2 (dieOf s.cur) g.ctx g.owner (g.cont.toNat + 4096 * i) (slotBytes (core s2))
      let y := (groupOf w g.uid).getD g
      ∃ h, saveSibling g i s = preInner (tileOver (putGroup w h) s.cur true) { h with pre := true } i
        ∧ h = { y with save := y.save ||| (1 : BitVec 64) <<< i, st := h.st, wascol := h.wascol }
        ∧ (y.pre = true → (y.st = 1 ∨ y.st = 2) → (h.save ||| y.done ||| y.cancel) &&& lowMask y.n = lowMask y.n →
            h.st = 7 ∧ h.wascol = (y.st == 2))
        ∧ ((y.pre = false ∨ (y.st ≠ 1 ∧ y.st ≠ 2) ∨ (h.save ||| y.done ||| y.cancel) &&& lowMask y.n ≠ lowMask y.n) →
            h.st = y.st ∧ h.wascol = y.wascol)))

/-- VQRY and ECNT on an unpoisoned sB give the item of R270, and 0xFFFFFFFF for a point above 5 and an item that is not
listed. -/
def Obligations.Queries : Prop :=
  ∀ (d b : Nat) (s : State), let u : Use := { rs := [b], ws := [d] }
    Clear u s →
    let y := readS (clu s) b
    let item := y.val.toNat % 256
    let p := y.val.toNat / 256 % 8
    let m := markRead u s
    let k := (core s).task
    let gives := fun (i : Instr) (v : Nat) => ∃ t, exec i s = .next t ∧ Passed (sbWrite d { val := BitVec.ofNat 32 v } m) t
    (y.pois = true → exec (.vqry d b) s = .next (raise cPOISON s.word 0 m) ∧ exec (.ecnt d b) s = .next (raise cPOISON s.word 0 m))
    ∧ (y.pois = false →
      (item = 0 → p ≤ 5 → gives (.vqry d b) (Config.guaranteed p))
      ∧ (item = 1 → p ≤ 5 → gives (.vqry d b) (mappedRows s (s.cur / 4) p))
      ∧ (item = 2 → p ≤ 5 → gives (.vqry d b) (unmappedKiB s k.ctx p))
      ∧ (item = 3 → gives (.vqry d b) s.power.point)
      ∧ (4 ≤ item ∨ (item < 3 ∧ 6 ≤ p) → gives (.vqry d b) 0xFFFFFFFF)
      ∧ (item = 0 → gives (.ecnt d b) ((ctxAt s k.ctx).energy % 2 ^ 32))
      ∧ (item = 1 → gives (.ecnt d b) ((ctxAt s k.ctx).energy / 2 ^ 32 % 2 ^ 32))
      ∧ (∀ r, runAt s k.run = some r → (item = 2 → gives (.ecnt d b) (r.energy % 2 ^ 32)) ∧ (item = 3 → gives (.ecnt d b) (r.energy / 2 ^ 32 % 2 ^ 32)))
      ∧ (runAt s k.run = none → item = 2 ∨ item = 3 → gives (.ecnt d b) 0)
      ∧ (item = 4 → gives (.ecnt d b) ((core s).energy % 2 ^ 32))
      ∧ (5 ≤ item → gives (.ecnt d b) 0xFFFFFFFF))

/-- TEND outside a handler, on the core as it stood before the cycle of its rendezvous and after the traps of that rendezvous,
waits until the other clusters wait as R79 asks, then for every engine command and every MMA that had issued before that
cycle, then raises ENGERR with the code of the first failed command whose token no word had read (ERRMODE = 0), and else ends
the tile: the core is idle. HALT ends the tile without these checks, and the context gets no further tile (R271, R273); that
HALT with Y = 1 drops a trap or a wait of another word of its rendezvous is the model's choice (log entry 46). STEP outside a
handler asks for a boundary of its node and gives the step count plus 1 (R272); SLEEP of 0 only goes on, of n cycles it waits,
and its expiry, n cycles later, goes on (R274); SYSC sends its code with s6-s9 and waits, and its reply puts into s6: 0 for
code 0 and 1, 0 or 1 for code 2 by whether the point is at most 5, and 0xFFFFFFFF for any other (R275). That the service is
performed when its reply comes is the model's reading (log entry 31). -/
def Obligations.EndingTilesAndServices : Prop :=
  (∀ (s : State), Clear {} s →
    let m := markRead {} s
    let c := coreSeen m
    let idle := fun (i : Nat) =>
      let k := cluAt c i
      k.active = false ∨ (k.wait = .rv ∧ rvCome c = false)
        ∨ (comeFor c k.wait k = false ∧ ∃ x, k.wait = .pop x ∨ k.wait = .push x ∨ k.wait = .hs x ∨ k.wait = .outq x)
    let ready := (m.view ≠ none ∨ (clu m).rvDone = true ∨ ∀ i ∈ [clA, clV, clM], idle i) ∧ (core m).treq = []
    let cmds := cmdsSeen m
    (c.level ≠ 0 → exec .tend s = .next (raise cILLEGAL s.word 0 m))
    ∧ (c.level = 0 →
      (¬ready → exec .tend s = .next (waitOn .tend m))
      ∧ (ready → (∃ x ∈ cmds, x.done = false) → exec .tend s = .next (waitOn .engine m))
      ∧ (ready → (∀ x ∈ cmds, x.done = true) → mmaLeft m = true → exec .tend s = .next (waitOn .array m))
      ∧ (∀ x, ready → (∀ x ∈ cmds, x.done = true) → mmaLeft m = false → errmode c = false → tendErr cmds = some x →
          exec .tend s = .next (raiseTok (some x.id) cENGERR (BitVec.ofNat 32 x.code) x.addr m))
      ∧ (ready → (∀ x ∈ cmds, x.done = true) → mmaLeft m = false → (errmode c = true ∨ tendErr cmds = none) →
          ∃ t, exec .tend s = .next t ∧ t = tileOver (releaseAll m) s.cur false ∧ ((core m).task.sib = [] → (coreAt t s.cur).busy = false)))
    ∧ (∀ x, tendErr cmds = some x → x ∈ cmds ∧ x.code ≠ 0 ∧ x.read = false ∧ x.reported = false
        ∧ ∀ y ∈ cmds, y.code ≠ 0 → y.read = false → y.reported = false → x.order ≤ y.order)
    ∧ (∃ t, exec .halt s = .next t ∧ t = tileOver (haltCtx m (core m).task.ctx 2) s.cur false ∧ ((core m).task.sib = [] → (coreAt t s.cur).busy = false)))
  ∧ (∀ (d imm : Nat) (s : State),
    (∀ u : Use, u = { ws := [d] } → Clear u s →
      let m := markRead u s
      ((core s).level ≠ 0 → exec (.step d) s = .next (raise cILLEGAL s.word 0 m))
      ∧ ((core s).level = 0 → ∃ t, exec (.step d) s = .next t
          ∧ Passed (sbWrite d { val := BitVec.ofNat 32 ((ctxAt s (core s).task.ctx).stepn.toNat + 1) }
              { m with runs := lmap (fun r => r.id == (core s).task.run) (fun r => { r with stepReq := true }) s.runs }) t))
    ∧ (∀ u : Use, u = { rs := [d] } → Clear u s →
      let m := markRead u s
      let y := readS (clu s) d
      (y.pois = true → exec (.sleep d) s = .next (raise cPOISON s.word 0 m))
      ∧ (y.pois = false → y.val = 0 → ∃ t, exec (.sleep d) s = .next t ∧ Passed m t)
      ∧ (y.pois = false → y.val ≠ 0 → (core s).sleep = none →
          exec (.sleep d) s = .next (waitOn .sleep (onCore (fun c => { c with sleep := some (s.cycle + y.val.toNat) }) m))))
    ∧ (∀ n, (core s).sleep = some n → n ≤ s.cycle →
        ∃ t, exec .sleepExpiry s = .next t ∧ Passed { onCore (fun c => { c with sleep := none }) s with cl := clC } t)
    ∧ (∀ u : Use, u = { rs := [6, 7, 8, 9], ws := [6] } → Clear u s → (core s).sysc = none → imm < 2 ^ 19 →
      let k := clu s
      ((∃ r ∈ [6, 7, 8, 9], (readS k r).pois = true) → exec (.sysc imm) s = .next (raise cPOISON s.word 0 (markRead u s)))
      ∧ ((∀ r ∈ [6, 7, 8, 9], (readS k r).pois = false) →
        exec (.sysc imm) s = .next (waitOn .firmware (onCore (fun c => { c with sysc := some (imm, [6, 7, 8, 9].map fun r => (readS k r).val) }) (markRead u s)))))
    ∧ (∀ code x y z w, (core s).sysc = some (code, [x, y, z, w]) →
        let v : Word := match code with | 0 => 0 | 1 => 0 | 2 => if x.toNat ≤ 5 then 0 else 1 | _ => 0xFFFFFFFF
        let ctx := ctxAt s (core s).task.ctx
        ∃ t u, exec .syscReply s = .next t ∧ Passed (sbWrite 6 { val := v } { onCore (fun c => { c with sysc := none }) u with cl := clC }) t
          ∧ (code = 1 → u = setCtx s (core s).task.ctx { ctx with log := ctx.log ++ [x, y, z, w] })
          ∧ (code = 2 → x.toNat ≤ 5 → u = { s with power := { s.power with advice := some (max x.toNat (s.power.advice.getD 0)) } })
          ∧ (code = 0 ∨ 3 ≤ code ∨ (code = 2 ∧ 5 < x.toNat) → u = s)))

/-- A page walk ends: with a leaf, the lookaside arrays of its die and of a core that waited hold the translation, and the
core goes on; with a failure the core takes it at its retry, and the fault log of the die gets one record, even where no
access waits any more (R377-R379). A core whose deadlock count has reached 2^20 traps QDEAD at C, where C is active (R335). A
PC sample puts the next sample at a period, and writes a record for each cluster that TRCTL enables (R445, R446). A corrected
soft error is counted; a struck memory sector is met where it is read, a struck dirty sector of an L1 or of the L2 as its
frame's, a clean one is fetched again; a trip outside the matrix array only counts (R470, R471). The number that a wait on an
outcome queue puts into XADDR is the model's choice (log entry 41). A translation that is being built becomes Valid with the
words that memory holds, and its walks that fail are logged; one that no running tile uses may be evicted; a new substitution
table is installed when no tile runs and nothing moves, and every translation is then gone (R311-R313, R320). -/
def Obligations.WalksAndTranslations : Prop :=
  (∀ (s : State),
    (∀ (w : Walk) (n cl p : Nat), s.walks[s.cur]? = some w → w.waiters = [(n, cl, p)] →
      let gone := s.walks.eraseIdx s.cur
      (∀ l a v l2 b u, walkKey s w.ctx w.page = .leaf l a v → walkKey s w.ctx p = .leaf l2 b u → ∃ t, exec .pageWalk s = .next t ∧ t.walks = gone
          ∧ (coreAt t n).look.head? = some { ctx := w.ctx, page := p, leaf := l2 } ∧ heldLeaf t (128 + w.die) w.ctx w.page = some l
          ∧ ((cluAt (coreAt s n) cl).wait = .walk → (cluAt (coreAt t n) cl).wait = .none) ∧ (∀ m, m ≠ n → coreAt t m = coreAt s m))
      ∧ (∀ c v, walkKey s w.ctx w.page = .bad c v → ∃ t, exec .pageWalk s = .next t ∧ t.walks = gone
          ∧ (cl, p) ∈ (coreAt t n).walkBad ∧ (coreAt t n).look = (coreAt s n).look
          ∧ (fget {} t.faultLog w.die).count = (fget {} s.faultLog w.die).count + 1))
    ∧ (∀ (w : Walk) c v, s.walks[s.cur]? = some w → w.waiters = [] → walkKey s w.ctx w.page = .bad c v → ∃ t, exec .pageWalk s = .next t
        ∧ t.walks = s.walks.eraseIdx s.cur ∧ t.cores = s.cores ∧ (fget {} t.faultLog w.die).count = (fget {} s.faultLog w.die).count + 1)
    ∧ (deadCount (core s) = true → 2 ^ 20 ≤ (core s).qdead → (cluAt (core s) clC).active = true →
        let req : TrapReq := { cl := clC, cause := 0x13, info := BitVec.ofNat 32 (perClu 4 (fun w => (waitKind w).1) (core s)), addr := BitVec.ofNat 64 (perClu 8 (fun w => (waitKind w).2) (core s)) }
        exec .qdead s = .next (takeTrap (setCore s { core s with treq := [req], qdead := 0 })))
    ∧ ((core s).busy = true → (core s).kctl.getLsbD 4 = true → (core s).sampleAt ≤ s.cycle →
        ∃ t, exec .pcSample s = .next t
          ∧ t = (List.range 4).foldl (fun u i => if (cluAt (core s) i).active then traceOut u s.cur 1 i (cluAt (core s) i).pc.toNat else u)
              (setCore s { core s with sampleAt := s.cycle + 2 ^ (min 23 ((core s).trctl.toNat / 2 ^ 4 % 2 ^ 5) + 6) }))
    ∧ (∀ n k r, s.inputs = .soft n (.frame k) :: r → ∃ t, exec .softError s = .next t ∧ k ∈ t.badSectors ∧ t.inputs = r ∧ t.cores = s.cores)
    ∧ (∀ n k r, s.inputs = .soft n (.l1 k) :: r → ∃ t, exec .softError s = .next t ∧ t.inputs = r ∧ sectorOf (coreAt t n).l1 (64 * k) = none
        ∧ ((∃ x ∈ (coreAt s n).l1, x.key = k ∧ x.dirty ≠ 0) → k ∈ t.badSectors)
        ∧ ((∀ x ∈ (coreAt s n).l1, x.key = k → x.dirty = 0) → t.badSectors = s.badSectors))
    ∧ (∀ n r, s.inputs = .soft n .corrected :: r → ∃ t, exec .softError s = .next t
        ∧ t.power.cecnt = min (2 ^ 64 - 1) (s.power.cecnt + 1) ∧ t.cores = s.cores ∧ t.badSectors = s.badSectors)
    ∧ (∀ n r, s.inputs = .trip n false :: r → ∃ t, exec .timingTrip s = .next t
        ∧ t = { s with inputs := r, power := { s.power with trips := min 65535 (s.power.trips + 1) } }))
  ∧ (∀ (s : State) (x : Xlate),
    (s.xlates[s.cur]? = some x →
      (x.st = .building → exec .translationBuildEnd s = .next (logCode { s with
          xlates := s.xlates.set s.cur { x with st := .valid, words := codeWords s x.ctx x.base.toNat x.words.length
                                                lines := codeLines s x.ctx x.base.toNat x.words.length } } x))
      ∧ (x.st ≠ .building → x.base ∉ usedStreams s x.ctx x.die →
          exec .translationEviction s = .next { s with xlates := s.xlates.eraseIdx s.cur }))
    ∧ (∀ r, s.tableBusy = some r → (∀ nc ∈ s.cores, nc.2.busy = false) → (∀ c ∈ s.ctxs, c.2.st ≠ .migrating) →
        exec .substitutionInstall s
          = .next (endRef { s with table := s.tableNew, tableNew := [], tableBusy := none, xlates := [] } (some r) 0)))

/-- A host write to a register of an enabled block on a booted device: packet words are staged, CONTROL, EV, CPLBASE and
CPLACK take their bits, and records that wait for the ring go out where it has room; a go whose tag matches the fresh packet
puts it into the queue with the device that wrote it, or is held while the queue is full, and any other go is CMDSTALE: it is
logged in the block and in the violation log, and the writer gets an error response. A write to a disabled block is logged; a
held go enters when there is room (R323-R328, R444). That the control registers take writes on a disabled block too, and what
a queue of a migrating context does, is the model's reading (log entry 40); which writers get an error response, its choice
(log entry 37). -/
def Obligations.RegisterBlocks : Prop :=
  ∀ (s : State), (∀ (n off dev : Nat) (v : Word) (r : List Input), s.inputs = .regWrite n off v dev :: r → s.boot.stage = 7 → n < 2048 → blockDepth n ≠ 0 →
    let b := blockAt s n
    let k := off % 64 / 4
    let becomes := fun (i : Instr) (c : Block) => ∃ t, exec i s = .next t ∧ t = { setBlock s n c with inputs := r }
    let sets := fun (i : Instr) (c : Block) => ∃ t, exec i s = .next t ∧ t = { flushRecords n b.recs (setBlock s n c) with inputs := r }
    let setsPk := fun (j : Nat) (p : Packet) => k = j → b.en = true → b.held = false → becomes .registerWrite { b with pk := p, staged := true }
    setsPk 0 { b.pk with w0 := v } ∧ setsPk 1 { b.pk with w1 := v } ∧ setsPk 2 { b.pk with w2 := v } ∧ setsPk 3 { b.pk with w3 := v }
    ∧ (k = 4 → b.en = true → b.held = false → b.staged = true → v.toNat % 256 = b.pk.w3.toNat / 2 ^ 24 →
        (blockFull s n = true → becomes .registerWrite { b with staged := false, held := true, pk := { b.pk with dev := dev } })
        ∧ (blockFull s n = false → becomes .registerWrite
            { b with staged := false, pk := { b.pk with dev := dev }, cmds := b.cmds ++ [.raw { b.pk with dev := dev }] }))
    ∧ (k = 4 → b.en = true → b.held = false → (b.staged = false ∨ v.toNat % 256 ≠ b.pk.w3.toNat / 2 ^ 24) →
        ∃ t, exec .registerWrite s = .next t ∧ (blockAt t n).cmds = b.cmds ∧ (blockAt t n).ev = true ∧ (blockAt t n).ecode = 1
          ∧ (blockAt t n).staged = false ∧ t.errors = s.errors ++ [(dev, 64 * n + 0x10)] ∧ (fget {} t.violLog (blockDie n)).count = (fget {} s.violLog (blockDie n)).count + 1)
    ∧ (k < 6 → b.en = false → ∃ t, exec .registerWrite s = .next t ∧ (blockAt t n).cmds = b.cmds ∧ (blockAt t n).ev = true ∧ (blockAt t n).ecode = 3
        ∧ (fget {} t.violLog (blockDie n)).count = (fget {} s.violLog (blockDie n)).count + 1)
    ∧ (k = 6 → sets .registerWrite { b with
        en := v.getLsbD 0, opn := v.getLsbD 1, cplsz := v.toNat / 4 % 16
        owner := if 132 ≤ n ∧ n < 1156 then b.owner else v.toNat / 64 % 1024, ov := if n < 132 then v.getLsbD 16 else b.ov })
    ∧ (k = 10 → sets .registerWrite { b with cplbase := b.cplbase / 2 ^ 32 * 2 ^ 32 + v.toNat / 16 * 16 })
    ∧ (k = 11 → sets .registerWrite { b with cplbase := b.cplbase % 2 ^ 32 + v.toNat * 2 ^ 32 })
    ∧ (k = 7 → v.getLsbD 31 = true → sets .evClear { b with ev := false, ecode := 0, ecount := 0 })
    ∧ (k = 7 → v.getLsbD 31 = false → ∃ t, exec .evClear s = .next t ∧ t = { flushRecords n b.recs s with inputs := r })
    ∧ (k = 12 → sets .cplack { b with cplack := v }))
    ∧ ((blockAt s s.cur).held = true → blockFull s s.cur = false → exec .heldGo s
        = .next (setBlock s s.cur { blockAt s s.cur with held := false, cmds := (blockAt s s.cur).cmds ++ [.raw (blockAt s s.cur).pk] }))

/-- An engine's commands. A packet at the head of a bench engine's queue with the OP of a row, and, with ENGINE_COMPLETION, a
word's command, leaves the queue and runs to its end, by the lookaside array of its engine, unless a walk of its context on
the die holds it, and after every lender of its context has answered a request of it or let its time pass (R370, R456; that
all are asked is the model's choice, log entry 15); a CPY without overlap makes its moves and completes without an error where
every move goes through, having written COUNT bytes; an error of the command, of its barrier or of a move ends it with its
code and the bytes written (R162, R165-R169, R377, R381); an ENQ that its target takes at once is over (R174). What a command
does comes about at its completion (log entry 10). The die engines' commands. A packet at the head of a die engine's queue
with the OP of a row, and a word's command at its completion row, leaves the queue and is accepted, by the lookaside array of
its engine, unless a walk of its context on the die holds it, and after the lenders of its context as EngineRows says (R370);
a collective that all its members have joined goes on, before any further COLL is accepted; an UPD that stands in the engine
waits for its phase, and later ones wait behind it (R254-R262, R332, R377). That a command comes about when it is accepted or
completes is the model's choice (log entry 10). -/
def Obligations.EngineRows : Prop :=
  (∀ (s : State), s.power.pend = false →
    let n := s.cur
    let acts := fun (c : QCmd) (u : State) (f : State → State) =>
      (.next (lentFirst n (cmdSpace s n c) (fun t => { f { t with via := some n } with via := none }) u) : Host.Outcome State Fault Refusal)
    (∀ (x : Nat) (go : State → State),
      let asked := fun (d : Nat) (a : Option Bool) => lentAnswer s n d = some a
      (lendersOf s x = [] → lentFirst n x go s = go s)
      ∧ ((∃ d ∈ lendersOf s x, lentAnswer s n d = none) →
          lentFirst n x go s = ((lendersOf s x).filter fun d => lentAnswer s n d == none).foldl (fun t d => postMsg t d 1 (2 ^ 20 + n) (.lent 0 0 none)) s)
      ∧ ((∀ d ∈ lendersOf s x, lentAnswer s n d ≠ none) → (∃ d ∈ lendersOf s x, asked d none) → lentFirst n x go s = s)
      ∧ (lendersOf s x ≠ [] → (∀ d ∈ lendersOf s x, ∃ b, asked d (some b)) → ∃ t, lentFirst n x go s = { go t with cutOff := [] }
          ∧ t = { s with cutOff := t.cutOff, sent := t.sent } ∧ ∀ d, d ∈ t.cutOff ↔ d ∈ lendersOf s x ∧ asked d (some false)))
    ∧ (∀ p : Packet, nextFor s n (fun _ => true) = some (.raw p) → ∀ op i,
      (op, i) ∈ [(0, Instr.engineCpy), (1, .engineCpyt), (2, .engineCpyd), (3, .engineWmcpy), (4, .engineLdg), (5, .engineSts)] →
      p.w2.toNat / 2 ^ 16 % 8 = op →
        (walkAhead s n (.raw p) = true → exec i s = .next s)
        ∧ (walkAhead s n (.raw p) = false →
            exec i s = acts (.raw p) s fun g => runCopy (dropCmd g n (.raw p)) n (acceptRaw g n p) op))
    ∧ (∀ e : EngCmd, nextFor s n (fun _ => true) = some (.cmd e) → (∀ c ∈ (blockAt s n).cmds, ∀ x, c ≠ .taken x) → walkAhead s n (.cmd e) = false →
        let g := { s with via := some n }
        (e.op ≠ .enq → exec .engineCompletion s = acts (.cmd e) { s with via := none } fun g => runCopy (dropCmd g n (.cmd e)) n e (opCode e.op))
        ∧ (∀ (m : Nat) (t : State), lendersOf s e.ctx = [] → e.op = .enq → e.pre = none → barErr g e = none → engNat g e false e.src.toNat 16 = .ok m →
            runEnq (dropCmd g n (.cmd e)) n { e with map := BitVec.ofNat 512 m } = .ok t → exec .engineCompletion s = .next { t with via := none }))
    ∧ (∀ (n op : Nat) (e : EngCmd) (x : EngErr), (e.pre = some x ∨ (e.pre = none ∧ barErr s e = some x) ∨ (e.pre = none ∧ barErr s e = none ∧ planOf s e = .error x)) →
        runCopy s n e op = failCmd s n e op 0 x)
    ∧ (∀ (n op : Nat) (e : EngCmd) (ps : List Move) (t : State) (w : Nat) (x : EngErr), e.pre = none → barErr s e = none → planOf s e = .ok ps →
        runMoves e e.sd ps s = (t, w, some x) → runCopy s n e op = failCmd t n e op w x)
    ∧ (∀ (n op : Nat) (e : EngCmd), e.op = .cpy → e.pre = none → barErr s e = none → e.mode = 0 →
        (e.sd = e.ss → e.src.toNat + e.count ≤ e.dst.toNat ∨ e.dst.toNat + e.count ≤ e.src.toNat) →
        let ps := (copyPieces e.ss e.count e.src.toNat e.dst.toNat e.count).map Move.one
        planOf s e = .ok ps
        ∧ ∀ t w, runMoves e e.sd ps s = (t, w, none) → runCopy s n e op = finish t n e op 0 w w 0 ∧ w = e.count))
  ∧ (∀ (s : State), s.power.pend = false →
    let n := s.cur
    let after := fun (c : QCmd) (f : State → State) =>
      (.next (lentFirst n (cmdSpace s n c) (fun t => { f { t with via := some n } with via := none }) s) : Host.Outcome State Fault Refusal)
    (∀ c, nextFor s n (fun _ => true) = some c → (firstUpd (blockAt s n)).isSome = true →
      (∀ p, c = .raw p → p.w2.toNat / 2 ^ 16 % 4 ≠ 2) ∧ (∀ e, c = .cmd e → e.op ≠ .upd))
    ∧ (∀ p : Packet, nextFor s n (fun _ => true) = some (.raw p) → walkAhead s n (.raw p) = false → ∀ op, p.w2.toNat / 2 ^ 16 % 4 = op →
      let by_ := fun (f : State → Nat → EngCmd → State) => after (.raw p) fun g => f (dropCmd g n (.raw p)) n (acceptDie g n p)
      (op = 0 → exec .dieColl s = by_ fun g k e => collAccept g k e false) ∧ (op = 1 → exec .dieCollSt s = by_ fun g k e => collAccept g k e true)
      ∧ (op = 2 → exec .dieUpd s = by_ updAccept) ∧ (op = 3 → exec .dieMsrch s = by_ searchRun))
    ∧ (∀ e : EngCmd, nextFor s n (fun _ => true) = some (.cmd e) → walkAhead s n (.cmd e) = false →
      let by_ := fun (f : State → Nat → EngCmd → State) => after (.cmd e) fun g => f (dropCmd g n (.cmd e)) n e
      (∀ st, e.op = .coll st → s.lostDevs = [] → (∀ j ∈ s.joined, (membersOf s j).length < j.n) →
          exec .collectiveCompletion s = by_ (fun g k e => collAccept g k e st))
      ∧ (e.op = .upd → firstUpd (blockAt s n) = none → exec .updCompletion s = by_ updAccept)
      ∧ (e.op = .msrch → exec .msrchCompletion s = by_ searchRun))
    ∧ (∀ j r, s.joined = j :: r → j.n ≤ (membersOf s j).length →
        ((∃ m ∈ membersOf s j, m.cmd ≠ none ∧ m.wrote = none) ∨ ∀ m ∈ membersOf s j, m.wrote ≠ none) →
          exec .collectiveCompletion s = .next (collRun s j))
    ∧ (∀ e t, firstUpd (blockAt s n) = some e → updTry { dropCmd s n (.taken e) with via := some n } n e = some t →
        exec .updCompletion s = .next { t with via := none })
    ∧ (∀ e, firstUpd (blockAt s n) = some e → updTry { dropCmd s n (.taken e) with via := some n } n e = none → exec .updCompletion s = .next s))

/-- The moves that the copies make. CPY moves its bytes in ascending order (R169); CPYT moves granule (r, c) to (c, r) (R170);
CPYD widens each block's 32 elements (R171); LDG and STS read an index and then move its element, zero-filled or skipped where
it says so (R172, R173; that an index is read when its step comes, and overlaps are looked for as the index list stands, is
the model's reading, log entry 10); WMCPY takes the elements of the window, the first axis fastest, and zeros outside the
tensor (R175, R178). -/
def Obligations.CopyMoves : Prop :=
  ∀ (s : State) (e : EngCmd),
    let dst := e.dst.toNat
    let src := e.src.toNat
    let apart := fun (m n : Nat) => e.sd = e.ss → src + m ≤ dst ∨ dst + n ≤ src
    (∀ x n a b,
      (∀ p ∈ copyPieces x n a b n, p.out = id ∧ ∃ y k, p.src = some (x, y, k) ∧ 0 < k ∧ k ≤ 64)
      ∧ ((copyPieces x n a b n).flatMap fun p => match p.src with
          | some (_, y, k) => (List.range k).map fun i => (y + i, p.dst + i)
          | none => []) = (List.range n).map fun i => (a + i, b + i))
    ∧ (e.op = .cpyt →
      let g := 2 ^ (e.mode % 4)
      let rows := e.mode / 4 + 1
      let cols := e.count / (rows * g)
      ((e.count = 0 ∨ e.count % (rows * g) ≠ 0) → planOf s e = .error (eBADCMD, 0))
      ∧ (e.count ≠ 0 → e.count % (rows * g) = 0 → dst % g = 0 → src % g = 0 → apart e.count e.count →
          ∃ ps, planOf s e = .ok ps ∧ ps.length = rows * cols ∧ ∀ r c, r < rows → c < cols →
            ps[r * cols + c]? = some (.one { src := some (e.ss, src + (r * cols + c) * g, g), out := id, dst := dst + (c * rows + r) * g })))
    ∧ (e.op = .cpyd →
      (6 ≤ e.mode → planOf s e = .error (eBADCMD, 0))
      ∧ (∀ b, (e.mode, b) ∈ [(0, Blk.mx), (1, .mx), (2, .x), (3, .x), (4, .e4), (5, .e4)] →
          let size := blkSize b
          let w := if e.mode % 2 = 0 then 2 else 4
          e.count % size = 0 → dst % w = 0 → apart e.count (e.count / size * 32 * w) →
            ∃ ps, planOf s e = .ok ps ∧ ps.length = e.count / size ∧ ∀ k, k < e.count / size →
              ∃ f, ps[k]? = some (.one { src := some (e.ss, src + k * size, size), out := f, dst := dst + k * 32 * w })
                ∧ ∀ bs, (f bs).length = 32 * w ∧ ∀ i, i < 32 →
                  ((f bs).drop (w * i)).take w = leBytes w (rnd (if w = 2 then bf16 else f32) 0 0 (blkElem b (leNat bs) i))))
    ∧ (∀ at_ D, e.mode = 0 → at_ % 32 = 0 → engNat s e false at_ 32 = .ok D →
      let elem := fieldAt D 16 4
      let ok := elem ≠ 0 ∧ elem ≤ 65536 ∧ fieldAt D 24 4 < 2 ∧ fieldAt D 28 4 = 0 ∧ e.count % elem = 0
      (¬ok → readGather s e at_ = .error (eBADCMD, 0))
      ∧ (ok → fieldAt D 8 8 % 4 = 0 → readGather s e at_ = .ok
          { base := fieldAt D 0 8, idx := fieldAt D 8 8, elem := elem, pitch := fieldAt D 20 4, skip := decide (fieldAt D 24 4 % 2 = 1) }))
    ∧ (∀ (ld : Bool) (d : Gather), e.op = (if ld then .ldg else .sts) → e.mode = 0 → e.count ≠ 0 →
        readGather s e (if ld then src else dst) = .ok d →
        let side := if ld then dst else src
        let at_ := fun (x : Nat) => (d.base + x * d.pitch) % 2 ^ 64
        (e.sd = e.ss → ∀ p ∈ tableRanges s e d, p.1 + p.2 ≤ side ∨ side + e.count ≤ p.1) →
          ∃ ps, planOf s e = .ok ps ∧ ps.length = e.count / d.elem ∧ ∀ i, i < e.count / d.elem →
            ∃ f, ps[i]? = some (.pick (d.idx + 4 * i) f)
              ∧ (d.skip = true → f 0xFFFFFFFF = .ok (if ld then [{ src := none, out := fun _ => List.replicate d.elem 0, dst := dst + i * d.elem }] else []))
              ∧ ∀ x, (d.skip = false ∨ x ≠ 0xFFFFFFFF) → (e.sd = e.ss → at_ x + d.elem ≤ side ∨ side + e.count ≤ at_ x) →
                  f x = .ok (if ld then copyPieces e.ss d.elem (at_ x) (dst + i * d.elem) d.elem
                             else copyPieces e.ss d.elem (src + i * d.elem) (at_ x) d.elem))
    ∧ (e.op = .wmcpy → e.mode = 0 → (e.org ≠ .block ∨ e.count ≠ 0) →
      let m := e.map.toNat
      let ax := fun (n o k : Nat) => fieldAt m (16 + 12 * n + o) k
      let el := 2 ^ fieldAt m 8 1
      let L := fun (n : Nat) => ax n 2 2
      let bad := 4 ≤ fieldAt m 8 1 ∨ 2 ≤ fieldAt m 9 1 ∨ fieldAt m 10 6 ≠ 0 ∨ (∃ n, n < 4 ∧ ax n 7 1 = 0) ∨ e.count ≠ L 0 * L 1 * L 2 * L 3 * el
      (bad → planOf s e = .error (eBADCMD, 0))
      ∧ (¬bad → (e.count = 0 ∨ fieldAt m 0 8 % el = 0) → e.sd ≠ decide (fieldAt m 9 1 % 2 = 1) →
          ∃ ps, planOf s e = .ok ps ∧ ps.length = L 0 * L 1 * L 2 * L 3
            ∧ ∀ w0 w1 w2 w3, w0 < L 0 → w1 < L 1 → w2 < L 2 → w3 < L 3 →
              let x := fun (n w : Nat) => (if ax n 4 2 < 2 ^ 15 then (ax n 4 2 : Int) else ax n 4 2 - 2 ^ 16) + (w : Int) * (ax n 7 1 : Nat)
              let pitch := fun (n : Nat) => if ax n 8 4 < 2 ^ 31 then (ax n 8 4 : Int) else ax n 8 4 - 2 ^ 32
              let inside := fun (n w : Nat) => 0 ≤ x n w ∧ x n w < (ax n 0 2 : Nat)
              let k := w0 + L 0 * (w1 + L 1 * (w2 + L 2 * w3))
              let all := inside 0 w0 ∧ inside 1 w1 ∧ inside 2 w2 ∧ inside 3 w3
              let a := ((fieldAt m 0 8 : Int) + x 0 w0 * pitch 0 + x 1 w1 * pitch 1 + x 2 w2 * pitch 2 + x 3 w3 * pitch 3) % 2 ^ 64
              (all → ps[k]? = some (.one { src := some (!e.sd, a.toNat, el), out := id, dst := dst + k * el }))
              ∧ (¬all → ps[k]? = some (.one { src := none, out := fun _ => List.replicate el 0, dst := dst + k * el }))))

/-- What a collective gives a member (R48, R255-R257): the floating-point sums are the fixed tree over the ranks, padded with
+0, each node rounded once, a mean divides the root, and the result is rounded to the type once; INT32 sums wrap; maxima and
minima combine exactly; reduce-scatter gives the member its share, all-gather every SEND in rank order, broadcast ROOT's. What
UPD and MSRCH compute. UPD clips the gradient, forms both moments and the parameter with each operation rounded once, and
writes 4 bytes of PARAM for each element (R259, R260; that it goes element by element in ascending order is the model's
choice, log entry 10). MSRCH keeps in each group of a column the half with the largest magnitudes, on a tie the lower, a NaN
above all, in ascending order: the compressed image holds their codes and their places, the masked one their codes where they
stood (R220, R262). -/
def Obligations.DieEngineResults : Prop :=
  (∀ (ms : List Joined) (j : Joined) (k : Nat), 0 < ms.length → j.op < 7 → j.ty < 4 → 2 ^ k < 2 * ms.length → ms.length ≤ 2 ^ k →
    let n := ms.length
    let w := if j.ty = 1 ∨ j.ty = 2 then 2 else 4
    let fmt := match j.ty with | 1 => bf16 | 2 => f16 | _ => f32
    let send := fun (r i : Nat) => match ms[r]? with | some m => (m.data.getD []).getD i 0 | none => (0 : Word)
    let value := fun (r i : Nat) => dec fmt (send r i).toNat
    let ints := fun (i : Nat) => (List.range n).map fun r => (send r i).toInt
    let recv := fun (i : Nat) => ((collOut ms j).drop (w * i)).take w
    let sum := fun (i : Nat) (x : Ex) => ∃ T : Nat → Nat → Ex, (∀ r, T 0 r = if r < n then value r i else .fin false 0 0 false)
      ∧ (∀ l m, T (l + 1) m = dec32 (rne32 (exAdd (T l (2 * m)) (T l (2 * m + 1))))) ∧ x = T k 0
    let reduced := fun (i v : Nat) =>
      (j.ty = 3 → (j.op ∈ [0, 4] → v = (BitVec.ofInt 32 (ints i).sum).toNat)
        ∧ (j.op = 1 → ∃ y ∈ ints i, (∀ z ∈ ints i, z ≤ y) ∧ v = (BitVec.ofInt 32 y).toNat)
        ∧ (j.op = 2 → ∃ y ∈ ints i, (∀ z ∈ ints i, y ≤ z) ∧ v = (BitVec.ofInt 32 y).toNat))
      ∧ (j.ty ≠ 3 → (j.op ∈ [0, 4] → ∃ x, sum i x ∧ v = rnd fmt 0 0 x)
        ∧ (j.op = 3 → ∃ x, sum i x ∧ v = rnd fmt 0 0 (dec32 (rne32 (exDiv x (exOfInt n)))))
        ∧ (j.op = 1 → v = rnd fmt 0 0 (((List.range n).drop 1).foldl (fun x r => exMax x (value r i)) (value 0 i)))
        ∧ (j.op = 2 → v = rnd fmt 0 0 (((List.range n).drop 1).foldl (fun x r => exMin x (value r i)) (value 0 i))))
    (j.op < 4 → (collOut ms j).length = w * j.count ∧ ∀ i, i < j.count → ∃ v, recv i = leBytes w v ∧ reduced i v)
    ∧ (j.op = 4 → (collOut ms j).length = w * (j.count / j.n) ∧ ∀ i, i < j.count / j.n → ∃ v, recv i = leBytes w v ∧ reduced (j.rank * (j.count / j.n) + i) v)
    ∧ (j.op = 5 → (collOut ms j).length = w * (n * j.count) ∧ ∀ r i, r < n → i < j.count → recv (r * j.count + i) = leBytes w (send r i).toNat)
    ∧ (j.op = 6 → ∀ r, r < n → (∀ m, ms[r]? = some m → m.rank = j.root) → (∀ q m, q < r → ms[q]? = some m → m.rank ≠ j.root) →
        (collOut ms j).length = w * j.count ∧ ∀ i, i < j.count → recv i = leBytes w (send r i).toNat))
  ∧ (∀ (s : State) (e : EngCmd) (D n i : Nat) (k p g m v nrm : Word),
    let f := fun (o : Nat) => BitVec.ofNat 32 (fieldAt D o 4)
    let add := fun (x y : Word) => rne32 (exAdd (dec32 x) (dec32 y))
    let sub := fun (x y : Word) => rne32 (exAdd (dec32 x) (exOpp (dec32 y)))
    let mul := fun (x y : Word) => rne32 (exMul (dec32 x) (dec32 y))
    let div := fun (x y : Word) => rne32 (exDiv (dec32 x) (dec32 y))
    let G := mul g k
    let decay := sub p (mul (f 76) p)
    (fieldAt D 44 1 = 0 →
      let M := add (mul (f 52) m) (mul (f 56) G)
      let V := add (mul (f 60) v) (mul (mul (f 64) G) G)
      updElem D k p g m v = (sub decay (mul (f 68) (div M (add (rne32 (exSqrt (dec32 V))) (f 72)))), M, V))
    ∧ (fieldAt D 44 1 ≠ 0 → let M := add (mul (f 52) m) G
        updElem D k p g m v = (sub decay (mul (f 68) M), M, v))
    ∧ updClip D nrm = (if f 48 ≠ 0 ∧ exLt (dec32 (f 48)) (dec32 nrm) = true then div (f 48) nrm else 0x3F800000)
    ∧ (∀ t w, updLoop e k i n s = (t, w, none) → w = 4 * n)
    ∧ (∀ (s48 : Bool) (ty : Nat) (img : List Byte), ty < 4 → img.length = 32768 →
      let wd := if ty < 2 then 2 else 1
      let K := if ty < 2 then 128 else 256
      let fmt := match ty with | 0 => bf16 | 1 => f16 | 2 => e4m3 | _ => e5m2
      let half := if s48 then 4 else 2
      let code := fun (r c : Nat) => leNat ((img.drop (wd * (128 * r + c))).take wd)
      let out := searchPanel s48 ty img
      ∃ C : Nat → Nat → List Nat,
        (∀ gr c, gr < K / (2 * half) → c < 128 →
          let mag := fun (x : Nat) => let y := code (2 * half * gr + x) c; if dec fmt y = .nan then 2 ^ 32 else y % 2 ^ (8 * wd - 1)
          (C gr c).length = half ∧ (C gr c).Pairwise (· < ·) ∧ (∀ x ∈ C gr c, x < 2 * half)
          ∧ ∀ x ∈ C gr c, ∀ y, y < 2 * half → y ∉ C gr c → mag y < mag x ∨ (mag y = mag x ∧ x < y))
        ∧ (∀ r c, r < K → c < 128 → (out.2.drop (wd * (128 * r + c))).take wd
            = leBytes wd (if r % (2 * half) ∈ C (r / (2 * half)) c then code r c else 0))
        ∧ (∀ gr z c, gr < K / (2 * half) → z < half → c < 128 → (out.1.drop (wd * (128 * (half * gr + z) + c))).take wd
            = leBytes wd (code (2 * half * gr + (C gr c).getD z 0) c))
        ∧ (s48 = false → ∀ gr c, gr < K / 4 → c < 128 →
            (out.1.getD (16384 + 128 * (gr / 2) + c) 0).toNat / 16 ^ (gr % 2) % 16 = (C gr c).getD 0 0 + 4 * (C gr c).getD 1 0)
        ∧ (s48 = true → ∀ gr c, gr < K / 8 → c < 128 → leNat ((out.1.drop (16384 + 2 * (128 * gr + c))).take 2)
            = (C gr c).getD 0 0 + 8 * (C gr c).getD 1 0 + 64 * (C gr c).getD 2 0 + 512 * (C gr c).getD 3 0)))

/-- The commands of a Hot context's queue with no run in progress: NOP completes DONE, a code that is not assigned BADCODE,
GSET sets one of eight parameters, NRUN and GRUN start a run of the nodes that they name, and a packet with a bit outside its
fields is BADCODE (R421, R422). -/
def Obligations.ContextQueue : Prop :=
  ∀ (s : State) (q : Packet) (h : Nat),
    let ctx := s.cur
    let x := ctxAt s ctx
    let b := ctxBlock ctx
    let f := setCtx (dropCmd s b (.raw q)) ctx { x with taken := (x.taken + 1) % 2 ^ 32 }
    let code := q.w0.toNat % 256
    x.st = .hot → x.halt = none → x.run = none → x.rerun = none → nextCmd? (blockAt s b) = some (.raw q) →
      (q.w0.toNat / 256 ≠ 0 → ∀ c i, (c, i) ∈ [(0, Instr.contextNop), (1, .nrun), (2, .grun), (3, .gset)] → code = c → exec i s = .next (endCmd f b q 2 0 0))
      ∧ (q.w0.toNat < 256 →
        (code = 0 → exec .contextNop s = .next (endCmd f b q 0 0 0))
        ∧ (3 < code → exec .contextNop s = .next (endCmd f b q 2 0 0))
        ∧ (code = 3 → 8 ≤ q.w1.toNat → exec .gset s = .next (endCmd f b q 2 0 0))
        ∧ (code = 3 → q.w1.toNat < 8 → exec .gset s
            = .next (endCmd (setCtx f ctx { ctxAt f ctx with gs := fput (ctxAt f ctx).gs q.w1.toNat q.w2 }) b q 0 0 0))
        ∧ (graphHead f ctx = .ok h →
          let runs := fun (i : Instr) (single : Bool) (n m : Nat) =>
            (m < n ∨ fieldAt h 8 4 ≤ m → exec i s = .next (endCmd f b q 2 0 0))
            ∧ (n ≤ m → m < fieldAt h 8 4 → ∃ u : Run, exec i s = .next (setCtx f ctx { ctxAt f ctx with run := some u })
                ∧ u.first = n ∧ u.next = n ∧ u.last = m ∧ u.single = single ∧ u.pk = q ∧ u.failed = none)
          (code = 1 → runs .nrun true (q.w1.toNat % 2 ^ 16) (q.w1.toNat % 2 ^ 16))
          ∧ (code = 2 → runs .grun false (q.w1.toNat % 2 ^ 16) (q.w1.toNat / 2 ^ 16))))

/-- Gaffer's steps. A run with no node left and none running completes, DONE with its count of tiles or with the fault that
stopped it; a node that may launch and whose context is served next launches with as many free benches as it wants and may
have, one that may not run as it is, a continuation that is run alone among them, stops the run with its fault (R393, R417,
R421, R423, R425, R428); a task of a walked node starts on the free core of its benches that the device chooses, the workers
of a resident node start together once all their cores are free, and a translation that is missing is looked up first (R312,
R419, R420); a waiter of 4 ms becomes reserving, and what it lacks is asked back from nodes that have no more use for it and
from gangs (R424, R426); a run that waits without benches records where it stands (R427); a gang whose cores and translations
are there starts all its siblings at once, each with its index, N, 0 and its index in s1 to s4 (R355); a group at its deadline
closes with TMO (R357, R358); a Suspended group goes on, its state as before, with its saved siblings, and waits while cores
or translations are missing (R363). What a tile start leaves, for a kernel with one stream for a cluster: the core runs the
task with nothing of an earlier tile in its queues, registers, tiles, slots and window maps; each active cluster stands at the
first word of its stream, with the tile indices and the task index in s1 to s4, the core's place in its bench in s5, the
argument block in a1, and every other register 0; the other clusters are not active (R54, R55, R80, R211, R218). Its streams
are looked up, and no other core changes (R315). A sibling that resumes has what its slot holds in its registers, its virtual
PC, the handshake counters and KCTL, and starts afresh in the rest (R363). -/
def Obligations.GafferRows : Prop :=
  (∀ (s : State),
    (∀ u, (ctxAt s s.cur).run = some u →
      let x := ctxAt s s.cur
      (nextNode x u = none → (x.st = .hot ∨ x.st = .suspended) → (∀ r ∈ s.runs, r.ctx = s.cur → r.gang ≠ none) →
        exec .nodeLaunch s = .next (match u.failed with
          | some (st, d, r) => endCmd (setCtx s s.cur { x with run := none }) (ctxBlock s.cur) u.pk st d.toNat r
          | none => endCmd (setCtx s s.cur { x with run := none }) (ctxBlock s.cur) u.pk 0 0 u.tiles))
      ∧ (∀ n, nextNode x u = some n → mayLaunch s s.cur = true → predsDone s s.cur u n = .ok true →
          (∀ f, launchCheck s s.cur n = .error f → exec .nodeLaunch s = .next (launchFault s s.cur u f))
          ∧ (∀ node d, launchCheck s s.cur n = .ok (node, d) → node.kind ≠ 2 → gangWaits s s.cur = none → chosen s = some s.cur →
              exec .nodeLaunch s = .next (launch s s.cur u n node d))
          ∧ (∀ node d, launchCheck s s.cur n = .ok (node, d) → node.kind ≠ 2 → (gangWaits s s.cur ≠ none ∨ chosen s ≠ some s.cur) →
              exec .nodeLaunch s = .next s)
          ∧ (∀ node d, launchCheck s s.cur n = .ok (node, d) → node.kind = 2 → u.single = true →
              exec .nodeLaunch s = .next (launchFault s s.cur u (2, 0, 0)))
          ∧ (∀ node d, launchCheck s s.cur n = .ok (node, d) → node.kind = 2 → u.single = false →
              exec .nodeLaunch s = .next (setCtx s s.cur (pastNode x u n true))))
      ∧ (∀ n, x.st = .hot → nodeRuns s s.cur = false → (waiterOf s s.cur).isSome = true → gangWaits s s.cur = none → nextNode x u = some n →
          exec .nodeBoundaryPreemption s
            = .next (setCtx s s.cur { x with cmdptr := BitVec.ofNat 64 (x.taken % 2 ^ 32 + n % 2 ^ 16 * 2 ^ 32), saved := x.gs })))
    ∧ (∀ u n node d ps, readPatches s s.cur n = .ok ps →
        let bs := (grantBenches s s.cur (min node.want (freeBenches s).length)).1
        let v := (grantBenches s s.cur (min node.want (freeBenches s).length)).2
        let t := launch s s.cur u n node d
        (bs.length = min node.want (freeBenches s).length ∧ (∀ b ∈ bs, b ∈ freeBenches s) ∧ v.runs = s.runs ∧ v.nextRun = s.nextRun)
        ∧ (match writePatches s.cur node.args ps v with
          | (w, some (c, a)) => t = launchFault w s.cur u (0x40 + c, a, 0)
          | (w, none) => ∃ r, t.runs = w.runs ++ [r] ∧ t.nextRun = w.nextRun + 1 ∧ r.id = w.nextRun ∧ r.ctx = s.cur ∧ r.node = n ∧ r.kind = node.kind
              ∧ r.benches = bs ∧ r.gang = none ∧ r.args = BitVec.ofNat 64 node.args ∧ r.kctl = BitVec.ofNat 32 node.kctl
              ∧ r.tasks = (if node.kind = 1 then (List.range (bs.length * node.workers)).map fun i => (0, 0, 0, i) else walk node)
              ∧ r.kern.streams = d.kern.streams ∧ r.kern.hsem = d.kern.hsem ∧ r.kern.fmt = d.kern.fmt
              ∧ t.cores = w.cores ∧ t.mem = w.mem ∧ (ctxAt t s.cur).rerun = none))
    ∧ (∀ r t ts, runAt s s.cur = some r → r.gang = none → r.tasks = t :: ts → (ctxAt s r.ctx).st = .hot → (ctxAt s r.ctx).halt = none →
        s.tableBusy = none →
        let fs := freeCores s r.benches
        let task := fun (t : Nat × Nat × Nat × Nat) => ({ ctx := r.ctx, node := r.node, run := r.id, t := t.2.2.2, i := t.1, j := t.2.1, k := t.2.2.1, args := r.args } : Task)
        let cut := fun (n : Nat) (s : State) => { s with runs := lmap (fun y => y.id == r.id) (fun y => { y with tasks := y.tasks.drop n }) s.runs }
        let u := { s with free := s.free + 1 }
        let n := fs.getD (Config.free s.free % fs.length) 0
        let w := r.tasks.length / r.benches.length
        let at_ := fun (i : Nat) => 4 * r.benches.getD (i / w) 0 + i % w
        let cores := (List.range r.tasks.length).map at_
        (r.kind ≠ 1 → fs ≠ [] → n ∈ fs
          ∧ (translated s r.ctx (dieOf n) r.kern = true →
              exec .tileDispatch s = .next (startTile (cut 1 u) n (task t) r.kern r.kctl t.1 t.2.1 t.2.2.1 t.2.2.2))
          ∧ (translated s r.ctx (dieOf n) r.kern = false → exec .tileDispatch s = .next (lookStreams u r.ctx (dieOf n) r.kern)))
        ∧ (r.kind ≠ 1 → fs = [] → exec .tileDispatch s = .next ((replaceOut s r).getD s))
        ∧ (r.kind = 1 → (∀ n ∈ cores, n ∈ fs) → (∀ n ∈ cores, translated s r.ctx (dieOf n) r.kern = true) → exec .tileDispatch s
            = .next (r.tasks.foldl (fun s t => startTile s (at_ t.2.2.2) (task t) r.kern r.kctl 0 0 0 t.2.2.2) (cut r.tasks.length s)))
        ∧ (r.kind = 1 → (∃ n ∈ cores, n ∉ fs) → exec .tileDispatch s = .next ((replaceOut s r).getD s)))
    ∧ (∀ m k, waiterOf s s.cur = some (m, k) → 4000000 ≤ waited s s.cur →
        let t := setCtx s s.cur { ctxAt s s.cur with reserving := true }
        let u := reclaim (m - (freeBenches t).length - (givenBenches t).length) t
        (oldestReserving t ≠ some s.cur → exec .waiterReserving s = .next t)
        ∧ (oldestReserving t = some s.cur → m ≤ (freeBenches u).length → exec .waiterReserving s = .next u)
        ∧ (oldestReserving t = some s.cur → (freeBenches u).length < m → exec .waiterReserving s = .next ((gangsAtBenches u).foldl requestPre u)))
    ∧ (∀ g r t x, startSibling g r t x = startTile t x.2
        { ctx := g.ctx, sib := (g.uid, x.1) :: g.owner, node := g.node, run := r.id, t := x.1, i := x.1, args := r.args } r.kern r.kctl x.1 g.n 0 x.1)
    ∧ (∀ r g cores u v, runAt s s.cur = some r → r.gang.bind (groupOf s) = some g → g.started = false → gangDue s g = true →
        gangCores (gangGrant s g r) g r = (some cores, u) →
        let w := { u with runs := lmap (fun y => y.id == r.id) (fun y => { y with tasks := [] }) u.runs
                          groups := lmap (fun x => x.uid == g.uid) (fun x => { x with started := true }) u.groups }
        (∃ ps, readPatches w g.ctx g.node = .ok ps ∧ writePatches g.ctx r.args.toNat ps w = (v, none)) →
          exec .gangStart s = .next (nodeCheck (((toPlace g).zip cores).foldl (startSibling g r) v) r.id))
    ∧ (∀ g, groupOf s s.cur = some g →
        ((g.st = 1 ∨ g.st = 2) → g.left = some 0 → exec .groupDeadlineExpiry s = .next (releaseGroup (putGroup s (closeGroup { g with tmo := true })) g.uid))
        ∧ (g.st = 7 → gangDue s g = false → exec .groupResume s
            = .next { s with runs := s.runs.filter fun r => !(r.gang == some g.uid && resumeWaits s r) })
        ∧ (∀ t, g.st = 7 → gangDue s g = true → resumeRun s g = (none, t) → exec .groupResume s = .next t)
        ∧ (∀ r t u, g.st = 7 → gangDue s g = true → resumeRun s g = (some r, t) → gangCores (gangGrant t g r) g r = (none, u) →
            exec .groupResume s = .next u)
        ∧ (∀ r t cores u, g.st = 7 → gangDue s g = true → resumeRun s g = (some r, t) → gangCores (gangGrant t g r) g r = (some cores, u) →
            exec .groupResume s = .next (nodeCheck (((toPlace g).zip cores).foldl (resumeSibling g r)
              (putGroup { u with runs := lmap (fun y => y.id == r.id) (fun y => { y with tasks := [] }) u.runs }
                { g with st := if g.wascol then 2 else 1, pre := false, wascol := false, save := 0, done := g.done ||| (g.save &&& g.cancel) })) r.id))))
  ∧ ((∀ (s : State) (n : Nat) (k : Task) (kern : Kernel) (kctl : Word) (s1 s2 s3 s4 : Nat), (kern.streams.map fun x => x.1).Nodup →
    let t := startTile s n k kern kctl s1 s2 s3 s4
    let c := coreAt t n
    (c.busy = true ∧ c.task = k ∧ c.kctl = kctl ∧ c.level = 0 ∧ c.treq = [] ∧ c.cmds = [] ∧ c.late = [] ∧ c.mma = [] ∧ c.rotb = 0
      ∧ c.q = kern.queues ∧ c.h = kern.hsem ∧ c.fmt = kern.fmt)
    ∧ (∀ r, readV c r = {} ∧ readP c r = if r = 0 then BitVec.allOnes 512 else 0)
    ∧ (∀ r, (tileAt c r).st = .unconf ∧ slotAt c r = {} ∧ fget 0 c.c r = 0 ∧ fget {} c.d r = {})
    ∧ (∀ x ∈ kern.streams, let m := cluAt c x.1
        m.active = true ∧ m.pc = x.2.1 ∧ m.outq = [] ∧ m.loops = [] ∧ m.l = [] ∧ m.pend = []
        ∧ (∀ r, readS m r = plain (if r = 1 then s1 else if r = 2 then s2 else if r = 3 then s3 else if r = 4 then s4 else if r = 5 then n % 4 else 0))
        ∧ (∀ r, readA m r = if r = 1 then k.args else 0)
        ∧ ∃ e ∈ t.xlates, e.ctx = k.ctx ∧ e.die = dieOf n ∧ e.base = x.2.1 ∧ e.st ≠ .stale ∧ n ∈ e.users)
    ∧ (∀ i, (∀ x ∈ kern.streams, x.1 ≠ i) → (cluAt c i).active = false)
    ∧ (∀ m, m ≠ n → coreAt t m = coreAt s m) ∧ t.mem = s.mem ∧ t.l2 = s.l2 ∧ t.groups = s.groups ∧ t.ctxs = s.ctxs
    ∧ t.runs = lmap (fun r => r.id == k.run) (fun r => { r with live := r.live + 1 }) s.runs)
  ∧ (∀ (s : State) (g : Group) (r : NodeRun) (x : Nat × Nat), (r.kern.streams.map fun y => y.1).Nodup →
    let slot := spaceNat s g.ctx g.owner (g.cont.toNat + 4096 * x.1) 4096
    let c := coreAt (resumeSibling g r s x) x.2
    c.busy = true ∧ c.task = siblingTask g r x.1 ∧ c.level = 0 ∧ c.q = r.kern.queues ∧ c.kctl = BitVec.ofNat 32 (fieldAt slot 2572 4 % 32)
      ∧ (∀ i, fget {} c.v i = {}) ∧ (∀ i, (tileAt c i).st = .unconf)
      ∧ (∀ i, i < 12 → fget {} c.h i = { val := fieldAt slot (2560 + i) 1 % 16, ceil := fieldAt slot (2560 + i) 1 / 16 })
      ∧ ∀ y ∈ r.kern.streams, let m := cluAt c y.1
        let e := fieldAt slot (640 * y.1) 640
        m.active = true ∧ m.base = y.2.1 ∧ m.pc = BitVec.ofNat 64 (fieldAt e 136 8)
          ∧ (∀ i, i < 32 → fget {} m.s i = { val := BitVec.ofNat 32 (fieldAt e (4 * i) 4), pois := bitAt (fieldAt e 128 4) i })
          ∧ ∀ i, i < 16 → fget 0 m.a i = BitVec.ofNat 64 (fieldAt e (144 + 8 * i) 8)))

/-- Host commands on contexts that their state allows, taken from a host command queue of a booted device (R277-R299, R331):
each makes its change and writes its record; a Retired context gives BADCTX, and so does one whose migration to this device
has not committed; another state gives BADSTATE. One that becomes Hot has its extents in rows; a retired one leaves nothing
behind here, and its number is Retired. CRESTORE asks the mirror device first, where that is another. By the model's choice
CRESTORE waits for that answer and MIRSTEP takes the restored mirror's step (log entry 30), and where several checks of a
CDEFINE, CLOAD or CHOT fail, their order is the one given here (log entry 29). -/
def Obligations.ContextCommands : Prop :=
  ∀ (s : State) (q : Packet), 1156 ≤ s.cur → s.cur < 1160 → s.boot.stage = 7 → nextCmd? (blockAt s s.cur) = some (.raw q) →
    let n := s.cur
    let f := dropCmd s n (.raw q)
    let code := q.w0.toNat % 256
    let ctx := q.w0.toNat / 2 ^ 8 % 2 ^ 10
    let x := ctxAt s ctx
    let ends := fun (i : Instr) (t : State) (status : Nat) => exec i s = .next (endCmd t n q status 0 0)
    let rows := [(0x11, Instr.cload), (0x13, .cpark), (0x14, .cmigrate), (0x15, .csuspend), (0x17, .cretire), (0x19, .cquery)]
    let heats := fun (i : Instr) => (∀ t, heat f ctx = .ok t → ends i t 0) ∧ (∀ c, heat f ctx = .error c → ends i (if c = 0x28 then heatLog f ctx else f) c)
    let gone := x.st = .retired ∨ incoming s ctx = true
    (hostCode code = false → (code = 0 → ends .hostNop f 0) ∧ (code ≠ 0 → ends .hostNop f 2))
    ∧ (∀ c i, (c, i) ∈ rows → code = c → gone → ends i f 0x21)
    ∧ (code = 0x12 → whileStep s ctx = false → gone → ends .chot f 0x21)
    ∧ (code = 0x16 → whileStep s ctx = false → gone → ends .cresume f 0x21)
    ∧ (code = 0x18 → gone → ends .crestore f 0x21)
    ∧ (code = 0x10 → x.st ≠ .retired → ends .cdefine f 0x22)
    ∧ (code = 0x10 → x.st = .retired →
        let e := devNat f (packetAddr q) 256
        let bad := 3 < fieldAt e 6 1 ∨ 1 < fieldAt e 7 1 ∨ fieldAt e 114 6 ≠ 0 ∨ fieldAt e 130 126 ≠ 0
        (bad → ends .cdefine f 0x28)
        ∧ (¬bad → 1024 ≤ (f.ctxs.filter fun y => y.2.st != .retired).length → ends .cdefine f 0x23)
        ∧ (¬bad → ((f.ctxs.filter fun y => y.2.st != .retired).length < 1024) →
            ∃ t y, exec .cdefine s = .next (endCmd (setCtx t ctx y) n q 0 0 0) ∧ y.st = .defined ∧ y.prio = fieldAt e 6 1
              ∧ y.rkey = BitVec.ofNat 64 (fieldAt e 8 8) ∧ y.exttab = BitVec.ofNat 64 (fieldAt e 88 8)
              ∧ y.eptab = BitVec.ofNat 64 (fieldAt e 96 8) ∧ y.keys = [] ∧ y.run = none))
    ∧ (code = 0x11 → ¬gone → x.st ≠ .defined → ends .cload f 0x22)
    ∧ (code = 0x11 → x.st = .defined →
        let base := packetAddr q
        let h := devNat f base 128
        let len := imageLen f base
        let gbase := fieldAt h 120 8
        let plan := (List.range (fieldAt h 20 4)).map fun i => devNat f (base + fieldAt h 56 8 + 32 * i) 32
        let rs := (gbase, (len + 65535) / 65536 * 65536) :: plan.map fun e => (fieldAt e 0 8, fieldAt e 8 8)
        fieldAt h 0 4 = 0x46415247 → base % 65536 = 0 → gbase % 65536 = 0 → gbase + len ≤ 2 ^ 48 → (∀ e ∈ plan, planOk e = true) →
        rs.Pairwise (fun a b => rangesMeet a b = false) → plan.foldl (fun m e => m + fieldAt e 8 8 / 65536) 0 ≤ freeFrames f 1 →
          ∃ t, ends .cload (setCtx t ctx { ctxAt t ctx with st := .loaded, graph := BitVec.ofNat 64 gbase }) 0
            ∧ t = sealCtx (plan.foldl (placePlan base ctx) ((List.range ((len + 65535) / 65536)).foldl (mapImage base ctx gbase) f)) ctx)
    ∧ (code = 0x12 → whileStep s ctx = true → exec .chot s = .next s) ∧ (code = 0x16 → whileStep s ctx = true → exec .cresume s = .next s)
    ∧ (code = 0x12 → whileStep s ctx = false → ¬gone →
        ((x.st = .loaded ∨ x.st = .cold) → heats .chot) ∧ (x.st ≠ .loaded → x.st ≠ .cold → ends .chot f 0x22))
    ∧ (code = 0x16 → whileStep s ctx = false → ¬gone →
        (x.st = .suspended → heats .cresume) ∧ (x.st ≠ .suspended → ends .cresume f 0x22))
    ∧ (∀ t, heat f ctx = .ok t → hotCount f < 32 ∧ (ctxAt t ctx).st = .hot ∧ (ctxAt t ctx).moved = [] ∧ (∀ e ∈ (ctxAt t ctx).exts, inRows e = true)
        ∧ (ctxAt t ctx).keys = x.keys ∧ (ctxAt t ctx).stepn = x.stepn ∧ ∀ c, c ≠ ctx → ctxAt t c = ctxAt f c)
    ∧ (32 ≤ hotCount f → heat f ctx = .error 0x23)
    ∧ (let t := retireCtx f ctx; ctxAt t ctx = {} ∧ (ctxAt t ctx).st = .retired ∧ (∀ g ∈ t.groups, g.ctx ≠ ctx) ∧ (∀ r ∈ t.runs, r.ctx ≠ ctx) ∧ (∀ h ∈ t.holds, h.ctx ≠ ctx)
          ∧ (∀ y ∈ t.xlates, y.ctx ≠ ctx) ∧ ∀ i ∈ t.images, i.ctx ≠ ctx)
    ∧ (code = 0x13 → (x.st = .hot → exec .cpark s = .next (setPending f ctx 1 0 (refOf n q))) ∧ (x.st = .cold → ends .cpark f 0)
        ∧ (¬gone → x.st ≠ .hot → x.st ≠ .cold → ends .cpark f 0x22))
    ∧ (code = 0x14 → (x.st = .hot → exec .cmigrate s = .next (setPending f ctx 2 (q.w1.toNat % 2 ^ 16) (refOf n q)))
        ∧ (x.st = .cold → exec .cmigrate s = .next (startMove f ctx (q.w1.toNat % 2 ^ 16) (some (refOf n q))))
        ∧ (¬gone → x.st ≠ .hot → x.st ≠ .cold → ends .cmigrate f 0x22))
    ∧ (code = 0x15 → (x.st = .hot → exec .csuspend s = .next (setPending f ctx 3 0 (refOf n q)))
        ∧ (¬gone → x.st ≠ .hot → ends .csuspend f 0x22))
    ∧ (code = 0x17 → ¬gone →
        ((x.st = .hot ∨ x.st = .migrating ∨ ctxBusy f ctx = true) → exec .cretire s = .next (setPending f ctx 4 x.target (refOf n q)))
        ∧ (x.st ≠ .hot → x.st ≠ .migrating → ctxBusy f ctx = false → ends .cretire (retireCtx (endPending f ctx 0x26) ctx) 0))
    ∧ (code = 0x18 → ¬gone → x.st ≠ .defined → x.st ≠ .suspended → ends .crestore f 0x22)
    ∧ (code = 0x18 → x.st = .suspended → ctxBusy s ctx = true → (mirrorsOf s ctx).isSome = true → exec .crestore s = .next s)
    ∧ (code = 0x18 → (x.st = .defined ∨ (x.st = .suspended ∧ ctxBusy s ctx = false)) →
        let free := { f with sent := f.sent.filter fun m => !isFetch ctx x.mirdev m }
        let z := setCtx { dropCtx free ctx with holds := f.holds } ctx {}
        (mirrorsOf s ctx = none → (∀ m ∈ s.sent, isFetch ctx x.mirdev m = false) → exec .crestore s = .next (sendMsg s x.mirdev 2 (.fetch ctx none)))
        ∧ (mirrorsOf s ctx = some [] → ends .crestore free 0x27)
        ∧ (∀ l img, mirrorsOf s ctx = some l → l.getLast? = some img →
            (roomFor z img 1 true = false → ends .crestore free 0x24)
            ∧ (roomFor z img 1 true = true → ∃ t y, exec .crestore s = .next (endRef (endCmd (setCtx t ctx y) n q 0 0 0) x.pendRef 0x26)
                ∧ t = { installImage z img 1 with holds := (installImage z img 1).holds.map fun h =>
                    if h.ctx = ctx then { h with sector := heldSector f (installImage z img 1) ctx h.sector } else h }
                ∧ y.st = .cold ∧ y.pending = 0 ∧ y.pendRef = none ∧ y.stepn = (ctxAt t ctx).stepn ∧ y.mirstep = img.copy.stepn
                ∧ y.energy = max (ctxAt t ctx).energy x.energy)))
    ∧ (code = 0x19 → ¬gone → ends .cquery (strongPuts f (packetAddr q) (recordBytes ctx x)) 0)

/-- A step boundary of a Hot context with no node running: a STEP counts it, or the queue is empty, and the mirror is taken
and the pending request applied; a suspension or a retirement takes effect at a node boundary (R272, R291); a retirement of a
context that is not Hot falls when no tile runs, and a Suspended one gives up its rows then (R289, R395). The mirror of a
context is in place at its device, where that has room, and MIRSTEP names it; a migration ends by a commit, by which the
context is gone here and a retirement follows it, or by a failure, by which it is as before and the command ends with MIGFAIL;
what a lost device lends is out of reach; extents leave a vault that is out of service, Moving first (R293-R297, R370, R400,
R401). That a mirror without room is dropped, and the messages of the commit, `going` and `committed` among them, are the
model's choice (log entry 30), and so is how a suspension treats extents and requests (log entry 28). -/
def Obligations.ContextEvents : Prop :=
  ∀ (s : State),
    let ctx := s.cur
    let x := ctxAt s ctx
    (x.st = .hot → nodeRuns s ctx = false →
      let idle := occOf (blockAt s (ctxBlock ctx)) = 0
      (x.stepReq = true → x.rerun = none →
          exec .stepBoundary s = .next (applyPending (takeMirror (setCtx s ctx { x with stepReq := false, stepn := x.stepn + 1 }) ctx) ctx))
      ∧ (x.stepReq = false → x.pending ≠ 0 → idle → exec .stepBoundary s = .next (applyPending (takeMirror s ctx) ctx))
      ∧ (x.stepReq = false → (x.pending = 3 ∨ x.pending = 4) → ¬idle → exec .stepBoundary s = .next (applyPending s ctx)))
    ∧ (x.st ≠ .hot → x.st ≠ .migrating → x.st ≠ .retired → ctxBusy s ctx = false →
        (x.pending = 4 → exec .stepBoundary s = .next (endRef (retireCtx s ctx) x.pendRef 0))
        ∧ (x.pending ≠ 4 → x.st = .suspended → (∃ e ∈ x.exts, inRows e = true) → exec .stepBoundary s = .next (saveExts s ctx)))
    ∧ (∀ img, s.images.find? (fun i => i.ctx == ctx) = some img → img.holder ∉ s.lostDevs → img.holder = s.device →
        (mirrorSize img ≤ freeFrames s 1 → x.st ≠ .retired → ∃ t, exec .stepMirrorComplete s = .next t ∧ img ∈ t.mirrors
          ∧ (ctxAt t ctx).mirstep = img.copy.stepn ∧ t.images = s.images.erase img ∧ ∀ i ∈ t.mirrors, i.ctx = ctx → i = img)
        ∧ (freeFrames s 1 < mirrorSize img → ∃ t, exec .stepMirrorComplete s = .next t ∧ t.images = s.images.erase img ∧ t.mirrors = s.mirrors
          ∧ (ctxAt t ctx).mirstep = x.mirstep))
    ∧ (∀ m r, x.st = .migrating → incoming s ctx = false → x.target ≠ s.device → s.inputs = .message m :: r → m.body = .committed ctx →
        m.src = x.target → reachesHere s m = true → fget 0 s.seen (4 * m.src + m.chan) ≤ m.seq → m.seq ≤ max (fget 0 s.seen (4 * m.src + m.chan)) m.floor →
        ∃ t, exec .pontilCommit s = .next (endRef t x.moveRef 0) ∧ ctxAt t ctx = {} ∧ (blockAt t (ctxBlock ctx)).cmds = []
          ∧ (∀ g ∈ t.groups, g.ctx ≠ ctx) ∧ ∀ h, x.pendRef = some h → (ctx, x.target, h) ∈ t.retiring)
    ∧ (x.st = .migrating → incoming s ctx = false → x.going = false → x.pending ≠ 4 → s.joined = [] →
        ∃ t, exec .pontilFailure s = .next (endRef t x.moveRef 0x25) ∧ (ctxAt t ctx).st = x.prior ∧ (ctxAt t ctx).pending = 0
          ∧ (ctxAt t ctx).stepn = x.stepn ∧ t.cores = s.cores ∧ t.mem = s.mem ∧ t.l2 = s.l2)
    ∧ (∀ d r, s.inputs = .deviceLost d :: r → s.joined = [] → s.retiring = [] → (∀ c ∈ s.ctxs, c.2.st ≠ .migrating) →
        ∃ t, exec .deviceLost s = .next t ∧ d ∈ t.lostDevs ∧ t.inputs = r ∧ t.mirrors = s.mirrors ∧ t.ctxs = s.ctxs
          ∧ ∀ c ∈ t.cores, ∀ l ∈ c.2.look, lenderLost t l.leaf = false)
    ∧ (nodeRuns s ctx = false → mustLeave s ctx = true → x.st ≠ .migrating → (s.power.pend = false ∨ s.power.part = 0) →
        let out := fun (e : Extent) => inRows e && s.outVaults.contains (e.base / 2 ^ 25)
        exec .vaultEvacuation s = .next (match (List.range x.exts.length).foldl (moveExt ctx) (some s) with
          | none => evacFail s ctx
          | some t => if ∃ e ∈ x.exts, out e = true ∧ e.st = 1
              then writeSlots (setCtx s ctx { x with exts := lmap out (fun e => { e with st := 2 }) x.exts }) ctx
              else writeSlots t ctx))
    ∧ (∀ i t u, moveExt ctx (some t) i = some u → (∀ v p, mappedRows t v p ≤ 8704) →
        ∀ e, (ctxAt u ctx).exts[i]? = some e → inRows e = true → e.base / 2 ^ 25 ∉ t.outVaults)
    ∧ (x.st = .migrating → incoming s ctx = false → x.target = s.device →
        let t := { s with xlates := s.xlates.filter fun y => y.ctx != ctx }
        (s.power.pend = true → exec .pontilCommit s = .next s)
        ∧ (∀ u, s.power.pend = false → replaceExts t ctx = some u → exec .pontilCommit s = .next (endRef (settle u ctx) x.moveRef 0))
        ∧ (s.power.pend = false → replaceExts t ctx = none → exec .pontilCommit s = .next (failMove s ctx)))
    ∧ (x.going = true → exec .pontilFailure s = .next s)
    ∧ (∀ src, x.st = .migrating → x.target = src → incoming s ctx = false →
        let t := takeReady s ctx src
        (ctxAt t ctx).ready = true ∧ (∀ k ∈ memberRanks s ctx, (fget [] t.routes k.1)[k.2]? = some src)
          ∧ ((ctxAt t ctx).going = true → x.going = true ∨ (routing t = false ∧ ∀ i ∈ t.images, i.ctx ≠ ctx)))

/-- Host commands on the package (R309, R320, R331, R380, R454, R472, R474, R475, R477, R478), with no bit outside their
fields: each makes its change and writes its record. The signatures, keys and certificates are uninterpreted (log entry 12);
the bounds of a CFGLOAD's length, what an MREAD of the trace ring drains and the order of OLINK's checks are the model's
choice (log entries 13, 36 and 29). -/
def Obligations.ManagementCommands : Prop :=
  ∀ (s : State) (q : Packet), 1156 ≤ s.cur → s.cur < 1160 → s.boot.stage = 7 → nextCmd? (blockAt s s.cur) = some (.raw q) →
    let n := s.cur
    let f := dropCmd s n (.raw q)
    let w0 := q.w0.toNat
    let code := w0 % 256
    let ctx := w0 / 2 ^ 8 % 2 ^ 10
    let slot := w0 / 2 ^ 18 % 2 ^ 5
    let at_ := packetAddr q
    let ends := fun (i : Instr) (t : State) (status : Nat) => exec i s = .next (endCmd t n q status 0 0)
    let x := ctxAt s ctx
    (w0 = 0x40 → let p := q.w1.toNat % 8
      (5 < p → ends .opset f 0x23) ∧ (p ≤ 5 → ends .opset { f with power := { f.power with capNext := p } } 0))
    ∧ (w0 = 0x41 → ends .pbudget { f with power := { f.power with allotNext := q.w1.toNat } } 0)
    ∧ (w0 = 0x42 → (s.power.account < 1000000 * (q.w1.toNat : Int) → ends .pgrant f 0x23)
        ∧ (1000000 * (q.w1.toNat : Int) ≤ s.power.account → ∃ m,
            ends .pgrant (sendMsg { f with power := { f.power with account := s.power.account - 1000000 * (q.w1.toNat : Int) } } (q.w2.toNat % 65536) 3 (.token m)) 0
              ∧ m.toNat % 2 ^ 32 = s.power.epoch % 2 ^ 32 ∧ m.toNat / 2 ^ 32 % 2 ^ 32 = q.w1.toNat))
    ∧ (code = 0x43 → let len := q.w2.toNat / 2 ^ 16
        (len = 0 → ends .mread f 0x23)
        ∧ (0 < len → ends .mread (strongPuts (drainTrace f (64 * (w0 / 256)) (64 * (w0 / 256 + len))) at_ ((List.range len).flatMap fun i => mgmtBlk f (w0 / 256 + i))) 0))
    ∧ (w0 / 2 ^ 23 = 0 → code = 0x44 →
        (x.st = .retired → ends .keyset f 0x21) ∧ (x.st ≠ .retired → (x.st = .migrating ∨ fhas x.keys slot = true) → ends .keyset f 0x22)
        ∧ (x.st ≠ .retired → x.st ≠ .migrating → fhas x.keys slot = false → match Config.unwrapKey (devBytes f at_ 176) with
            | some k => ends .keyset (setCtx f ctx { x with keys := fput x.keys slot k }) 0
            | none => ends .keyset f 0x28))
    ∧ (w0 / 2 ^ 23 = 0 → code = 0x45 →
        (x.st = .retired → ends .keyclr f 0x21)
        ∧ (x.st ≠ .retired → x.st ≠ .migrating → (∀ l ∈ leavesOf f ctx, l.2.2.2 / 2 ^ 12 % 2 ^ 5 ≠ slot) → ends .keyclr (setCtx f ctx { x with keys := fdel x.keys slot }) 0))
    ∧ (w0 / 2 ^ 18 = 0 → code = 0x46 →
        (x.st = .retired → ends .shoot f 0x21)
        ∧ (x.st ≠ .retired → ∃ t, ends .shoot t 0 ∧ (∀ c ∈ t.cores, ∀ l ∈ c.2.look, l.ctx = ctx → l.page < q.w1.toNat ∨ q.w1.toNat + q.w2.toNat ≤ l.page)
          ∧ ∀ a ∈ t.looks, ∀ l ∈ a.2, l.ctx = ctx → l.page < q.w1.toNat ∨ q.w1.toNat + q.w2.toNat ≤ l.page))
    ∧ (w0 = 0x47 → ∃ r, ends .attest (strongPuts f (at_ + 64) (r ++ leBytes 96 (Config.attestSig r).toNat)) 0
        ∧ r = devBytes f at_ 48 ++ (sha384 (activeBytes s)).take 48 ++ (sha384 Config.romImage).take 48
            ++ (sha384 (tableImage s)).take 48 ++ leBytes 4 0x0200 ++ leBytes 2 s.device ++ leBytes 2 0 ++ Config.devicePub ++ leBytes 7 0)
    ∧ (w0 = 0x48 → let len := devNat f (at_ + 8) 8
        let ok := devNat f at_ 4 = 0x47464357 ∧ devNat f (at_ + 18) 1 < 2 ∧ devNat f (at_ + 19) 45 = 0 ∧ 160 ≤ len ∧ len ≤ 2 ^ 25
        (¬ok → ends .cfgload f 0x28)
        ∧ (ok → if Config.signed (devBytes f at_ len) = false then ends .cfgload f 0x38
            else if devNat f (at_ + 4) 4 < s.boot.minver then ends .cfgload f 0x39
            else ∃ img : CfgImage, img.version = devNat f (at_ + 4) 4 ∧ img.valid = true ∧ img.device = devNat f (at_ + 16) 2
              ∧ ends .cfgload { f with boot := if s.boot.active = 0 then { s.boot with slot1 := some img, bytes1 := devBytes f at_ len }
                  else { s.boot with slot0 := some img, bytes0 := devBytes f at_ len } } 0))
    ∧ (w0 = 0x49 → let k := q.w1.toNat % 32
        let act := q.w1.toNat / 32 % 4
        let p := portAt s k
        ((act = 3 ∨ 24 ≤ k ∨ (s.bridge = true ∧ 22 ≤ k)) → ends .portctl f 0x23)
        ∧ (act = 1 → fabric s k = true → p.st = .down → ends .portctl (setPort f k { p with st := .training, waited := 0 }) 0)
        ∧ (act = 1 → fabric s k = true → p.st ≠ .down → ends .portctl f 0)
        ∧ (act = 2 → fabric s k = true → p.st = .up4 → ends .portctl (setPort f k (retrain p)) 0)
        ∧ (act = 0 → fabric s k = true → ∃ t, ends .portctl t 0 ∧ (portAt t k).st = .down ∧ (portAt t k).retry = []))
    ∧ (w0 = 0x20 → let mark := fun (b : Array Byte) => sha384 (setBits b 64 416 0).toList
        match linkImage (imageAt f at_) with
        | .error (c, d) => exec .olink s = .next (endCmd f n q c d 0)
        | .ok b => ends .olink (strongPuts ((changed (imageAt f at_) b).foldl (fun t p => strongPut t (at_ + p.1) p.2) { f with linked := fput f.linked (leNat (mark b)) (pinnedOf b) }) (at_ + 64)
            (mark b ++ leBytes 4 1)) 0)
    ∧ (w0 = 0x21 → s.tableBusy = none → s.power.pend = false →
        let t := devBytes f at_ (160 + devNat f (at_ + 12) 4)
        if tableBad t = true then ends .subload f 0x3A
        else if tableSigned t = false then ends .subload f 0x38
        else if t = tableImage s then ends .subload f 0
        else if tableVersion t ≤ tableVersion (tableImage s) then ends .subload f 0x39
        else exec .subload s = .next { f with tableBusy := some (refOf n q), tableNew := t })

/-- A port that is Up drops a lane and retrains; lanes that train put it Up with 8 or at least 4 lanes, or Failed; a training
of 1 ms with fewer fails; a Failed port trains again after 100 ms (R454). A link that comes up sends what is not acknowledged
again, and what a Failed one had goes another way; ports 22 and 23 of a bridge train nothing and take no flit (R448, R454). A
flit with a good CRC and the next SEQ is taken, one with a bad CRC or a later SEQ is answered with a NAK and changes no
sequence number, a duplicate is dropped whole, and a NAK sends what is not acknowledged again (R449, R452); eight of either in
a row for one flit retrain the link (R454). Which flits have no number of their own, and the order and layout of messages on
the link, are the model's choice (log entry 17). An access of the host bridge on a bridge device that has booted (R457-R459):
a write through an aperture to this device's memory is a strong store, but for firmware's own memory, a read gives the bytes,
an aperture that is not valid refuses the write, logs it and gives an error response; a BAR0 access to this device's window is
a register write or read, and a write that its block pushes back waits; an access to another device's window goes there as a
message, and where that device is absent or lost a read gives all ones and a write is refused; a write waits for earlier ones
that another device has still to perform, and a read for earlier accesses. On a device that is no bridge, or has not booted,
nothing happens. Which writes get an error response, and that a read waits for another device's answer, are the model's choice
(log entry 37). -/
def Obligations.LinksAndBridge : Prop :=
  (∀ (s : State) (n : Nat) (r : List Input), let p := portAt s n
    (∀ l, s.inputs = .laneLoss n l :: r → portUp p = true → ∃ t, exec .laneLoss s = .next t ∧ t.inputs = r ∧ (portAt t n).st = .retraining
        ∧ (portAt t n).lanes = p.lanes &&& ~~~(BitVec.ofNat 8 (2 ^ l)) ∧ ∀ m, m ≠ n → portAt t m = portAt s m)
    ∧ (∀ l, s.inputs = .trained n l :: r → fabric s n = false → exec .lanesTrained s = .next { s with inputs := r })
    ∧ (∀ l, s.inputs = .trained n l :: r → (p.st = .training ∨ p.st = .retraining) → fabric s n = true →
        ∃ t, exec .lanesTrained s = .next t ∧ t.inputs = r ∧ (portAt t n).lanes = l
          ∧ (portAt t n).st = (if popN l.toNat 8 = 8 then LinkSt.up8 else if 4 ≤ popN l.toNat 8 then .up4 else .failed)
          ∧ (4 ≤ popN l.toNat 8 → (portAt t n).tx = p.tx ++ p.retry ∧ t.sent = s.sent)
          ∧ (popN l.toNat 8 < 4 → t.sent = (sendAnew s).sent))
    ∧ ((portAt s s.cur).st = .training → 1000000 ≤ (portAt s s.cur).waited → popN (portAt s s.cur).lanes.toNat 8 < 4 →
        ∃ t, exec .trainingTimeout s = .next t ∧ (portAt t s.cur).st = .failed ∧ t.sent = (sendAnew s).sent)
    ∧ ((portAt s s.cur).st = .failed → 100000000 ≤ (portAt s s.cur).waited → ∃ t, exec .firmwareRetry s = .next t ∧ (portAt t s.cur).st = .training)
    ∧ (∀ f, s.inputs = .flit n f :: r → (portUp p = false ∨ fabric s n = false) → exec .flitReceived s = .next { s with inputs := r })
    ∧ (∀ f, s.inputs = .flit n f :: r → portUp p = true → fabric s n = true →
        let good := (crc32 (flitBytes f 0 252)).toNat = flitField f 252 4
        let x := loadOf f
        (¬good → ∃ t, exec .flitReceived s = .next t ∧ t.inputs = r ∧ (portAt t n).rxSeq = p.rxSeq ∧ (portAt t n).nakDue = true
            ∧ (portAt t n).naks = min 0xFFFF (p.naks + 1) ∧ (portAt t n).retry = p.retry)
        ∧ (good → unnumbered x = false → flitField f 2 2 = p.rxSeq →
            ∃ t, exec .flitReceived s = .next t ∧ (portAt t n).rxSeq = (p.rxSeq + 1) % 65536 ∧ (portAt t n).nakRun = 0 ∧ (portAt t n).st = p.st
              ∧ (x.ty % 16 < 9 → x.dst = s.device → t.inputs = (flitMsg s x).toList.map Input.message ++ r)
              ∧ (x.ty % 16 < 9 → x.dst ≠ s.device → t.inputs = r ∧ t.transit = s.transit ++ [(n, f)])
              ∧ (9 ≤ x.ty % 16 → t.inputs = r ∧ (portAt t n).retrn = min 0xFFFF (p.retrn + 1)))
        ∧ (good → unnumbered x = false → flitField f 2 2 ≠ p.rxSeq → seqLe (flitField f 2 2) p.rxSeq = true →
            exec .flitReceived s = .next { s with inputs := r })
        ∧ (good → unnumbered x = false → flitField f 2 2 ≠ p.rxSeq → seqLe (flitField f 2 2) p.rxSeq = false →
            ∃ t, exec .flitReceived s = .next t ∧ t.inputs = r ∧ (portAt t n).rxSeq = p.rxSeq ∧ (portAt t n).nakDue = true
              ∧ (portAt t n).naks = min 0xFFFF (p.naks + 1) ∧ (portAt t n).credits = p.credits ∧ (portAt t n).retry = p.retry
              ∧ (portAt t n).st = if p.nakRun + 1 = 8 then .retraining else p.st)
        ∧ (good → unnumbered x = true → x.ty % 16 = 8 → let k := if p.acked = flitField f 4 2 then p.naked + 1 else 1
            ∃ t, exec .flitReceived s = .next t ∧ t.inputs = r ∧ (portAt t n).rxSeq = p.rxSeq
              ∧ (portAt t n).retry = p.retry.filter (fun y => !seqLe (flitField y 2 2) (flitField f 4 2))
              ∧ (k ≠ 8 → (portAt t n).tx = p.tx ++ (portAt t n).retry ∧ (portAt t n).naked = k ∧ (portAt t n).st = p.st)
              ∧ (k = 8 → (portAt t n).tx = p.tx ∧ (portAt t n).naked = 0 ∧ (portAt t n).st = .retraining))))
  ∧ (∀ (s : State) (w : Bool) (bar off n : Nat) (data : List Byte) (r : List Input), s.inputs = .bridge w bar off n data :: r →
    ((s.bridge = false ∨ s.boot.stage ≠ 7) → exec .hostBridgeAccess s = .next { s with inputs := r })
    ∧ (s.bridge = true → s.boot.stage = 7 →
      let e := (fget 0 s.apertures (off / 2 ^ 28)).toNat
      let a := e / 2 ^ 8 % 2 ^ 24 * 2 ^ 28 + off % 2 ^ 28
      let here := bar = 0 ∧ off < 0x800000 ∧ off / 131072 = s.device % 64
      let away := bar = 0 ∧ off < 0x800000 ∧ off / 131072 ≠ s.device % 64
      let d := s.device / 64 * 64 + off / 131072
      let far := Config.present d = false ∨ d ∈ s.lostDevs
      (w = false → readWaits s bar off = true → exec .hostBridgeAccess s = .next s)
      ∧ (w = true → writeWaits s bar off = true → exec .hostBridgeAccess s = .next s)
      ∧ ((if w then writeWaits s bar off else readWaits s bar off) = false →
        (bar ≠ 0 → e % 2 = 1 → e / 2 % 2 ^ 6 = s.device % 64 → blockOfKey s a = none →
          exec .hostBridgeAccess s = .next (if w then
              (if ∃ p ∈ pagesOf a (data.take n).length, Config.firmwareFrame p.1 = true then { violate s 0 6 s.device off with inputs := r }
                else { strongPuts s a (data.take n) with inputs := r })
            else { s with inputs := r, readBack := s.readBack ++ [devBytes s a n] }))
        ∧ (bar ≠ 0 → e % 2 = 0 → w = true → ∃ t, exec .hostBridgeAccess s = .next t ∧ t.mem = s.mem ∧ t.l2 = s.l2
            ∧ t.errors = s.errors ++ [(s.device, off)] ∧ (fget {} t.violLog 0).count = (fget {} s.violLog 0).count + 1)
        ∧ (here → w = false → exec .hostBridgeAccess s = .next { s with inputs := r, readBack := s.readBack ++ [windowRead s (off % 131072) n] })
        ∧ (∀ t, here → w = true → windowWrite (off % 131072) (data.take n) s.device s = some t → exec .hostBridgeAccess s = .next { t with inputs := r })
        ∧ (here → w = true → windowWrite (off % 131072) (data.take n) s.device s = none → exec .hostBridgeAccess s = .next s)
        ∧ (away → ¬far → exec .hostBridgeAccess s = .next { sendMsg s d 0 (.mem w (windowKey + off % 131072) n (data.take n)) with inputs := r })
        ∧ (away → far → w = true → ∃ t, exec .hostBridgeAccess s = .next t ∧ t.mem = s.mem ∧ t.l2 = s.l2 ∧ t.sent = s.sent
            ∧ t.errors = s.errors ++ [(s.device, off)] ∧ (fget {} t.violLog 0).count = (fget {} s.violLog 0).count + 1)
        ∧ (away → far → w = false → exec .hostBridgeAccess s = .next { s with inputs := r, readBack := s.readBack ++ [List.replicate n 255] }))))

/-- A message that reaches this device, passes its check and is the next of its sender on its channel acts, is remembered and
answered; a duplicate is answered as before, and one that comes before its turn is not taken (R453; the numbers, and what the
lowest number that the sender keeps allows, are the model's choice, log entry 17). A token grant of the current epoch is
credited and any other is lost (R462, R463), a clock proposal is recorded (R464), a delivery stands in its block's queue where
OPEN admits it, and is answered as refused or full where not (R250, R251, R325), a member of a collective joins it, unless the
collective is broken, a held set that is listed here is written back (R346). A message without an answer is resent up to four
times, and given up after 10 ms: a delivery that its agent waits for goes on anew, one that does not wait ends, a collective
ends for every member, here and at the other devices, a request of an access to a lent frame fails, a token is lost, a bridge
read gives all ones, and a migration's commit fails (R252, R258, R453, R456). -/
def Obligations.MessageRows : Prop :=
  ∀ (s : State),
    (∀ m r, s.inputs = .message m :: r → (∀ q c, m.body ≠ .answer q c) → reachesHere s m = true →
      let key := 4 * m.src + m.chan
      let next := fget 0 s.seen key
      let g := { s with inputs := r }
      let f := { g with seen := fput s.seen key (m.seq + 1) }
      (next ≤ m.seq → m.seq ≤ max next m.floor →
        (∀ x, m.body = .token x → ∃ t, exec .tokenGrant s = .next t
          ∧ (x.toNat % 2 ^ 32 = s.power.epoch % 2 ^ 32 → t = { answerMsg f m 0 with power := { s.power with account := s.power.account + 1000000 * (x.toNat / 2 ^ 32 % 2 ^ 32 : Nat) } })
          ∧ (x.toNat % 2 ^ 32 ≠ s.power.epoch % 2 ^ 32 → t = { answerMsg f m 0 with power := { s.power with lost := s.power.lost + x.toNat / 2 ^ 32 % 2 ^ 32 } }))
        ∧ (∀ x, m.body = .clock x → exec .clockProposal s = .next { answerMsg f m 0 with power := { s.power with
            proposals := s.power.proposals ++ [(x.toNat % 2 ^ 32, x.toNat / 2 ^ 32 % 2 ^ 32, min 5 (x.toNat / 2 ^ 64 % 2 ^ 8))] } })
        ∧ (∀ j, m.body = .member j → exec .messageReceived s = .next (if s.broken.contains (j.setid, j.seq) then answerMsg f m 0
            else putMember (answerMsg f m 0) { j with dev := m.src, cmd := none }))
        ∧ (∀ i q, m.body = .cut i q → exec .messageReceived s = .next (if s.broken.contains (i, q) then answerMsg f m 0 else breakColl (answerMsg f m 0) i q))
        ∧ (∀ b a, m.body = .ask b a → exec .messageReceived s = .next (if refuses s b 1024 = true then turnAway f m b else answerMsg f m 0))
        ∧ (∀ b p a, m.body = .lent b p a → exec .messageReceived s = .next (answerMsg f m 0))
        ∧ (∀ b c k o a, m.body = .deliver b c k o a → refuses s b 1024 = true → exec .messageReceived s = .next (turnAway f m b))
        ∧ (∀ b c k o a, m.body = .deliver b c k o a → refuses s b 1024 = false → ((blockAt s b).held = true ∨ blockFull s b = true) →
            exec .messageReceived s = .next (answerMsg f m 1))
        ∧ (∀ b c k o a, m.body = .deliver b c k o a → blockDepth b ≠ 0 → (blockAt s b).en = true → (blockAt s b).opn = true → (blockAt s b).held = false →
            blockFull s b = false → exec .messageReceived s
              = .next (answerMsg (setBlock f b { blockAt s b with
                  pk := { k with dev := m.src }, staged := false, cmds := (blockAt s b).cmds ++ [.raw { k with dev := m.src }] }) m 0))
        ∧ (∀ l e a, m.body = .pull l e a → exec .messageReceived s = .next (answerMsg (pulled f l e) m 0)))
      ∧ (∀ l e a, m.body = .pull l e a →
          (max next m.floor < m.seq → exec .messageReceived s = .next { s with inputs := r })
          ∧ (m.seq < next → ∃ code, exec .messageReceived s = .next (answerMsg g m code)
              ∧ ∀ c, (m.seq, c) ∈ fget [] s.replies key → (∀ d, (m.seq, d) ∈ fget [] s.replies key → d = c) → code = c)))
    ∧ (∀ m r, s.inputs = .message m :: r → (s.boot.stage ≠ 7 ∨ m.good = false ∨ (m.src ≠ s.device ∧ someUp s = false)) →
        ∀ x, m.body = .token x → exec .tokenGrant s = .next { s with inputs := r })
    ∧ (∀ m, s.sent[s.cur]? = some m → waits m = true →
        (m.tries < 4 → ∃ t, exec .endToEndResend s = .next t
          ∧ ∃ k ∈ t.sent, k.tries = m.tries + 1 ∧ k.body = m.body ∧ k.dst = m.dst ∧ k.seq = m.seq ∧ k.out = false)
        ∧ (m.from_ + 10000000 ≤ s.ns → exec .messageUndeliverable s = .next (undelivered s m))
        ∧ (let t := undelivered s m
          (∀ b c k a, m.body = .deliver b c k false a → ∃ y ∈ t.sent, y.body = m.body ∧ y.seq = m.seq ∧ y.dst = m.dst ∧ y.tries = 0 ∧ y.from_ = s.ns ∧ y.out = false)
          ∧ (∀ b c k a, m.body = .deliver b c k true a → ∃ y ∈ t.sent, y.body = .deliver b c k true (some 3) ∧ y.seq = m.seq ∧ y.dst = m.dst)
          ∧ (∀ b a, m.body = .ask b a → ∃ y ∈ t.sent, y.body = m.body ∧ y.seq = m.seq ∧ y.dst = m.dst ∧ y.tries = 0 ∧ y.from_ = s.ns ∧ y.out = false)
          ∧ (∀ b p a, m.body = .lent b p a → 0 < m.core → m.core < 2 ^ 20 → (b, p) ∈ (coreAt t (m.core - 1)).walkBad)
          ∧ (∀ j, m.body = .member j → s.broken.contains (j.setid, j.seq) = false → (j.setid, j.seq) ∈ t.broken
              ∧ (∀ x ∈ t.joined, ¬(x.setid = j.setid ∧ x.seq = j.seq)) ∧ ∀ d ∈ setDevs s j.setid, ∃ y ∈ t.sent, y.dst = d ∧ y.body = .cut j.setid j.seq)
          ∧ (∀ x, m.body = .token x → t.power.lost = s.power.lost + x.toNat / 2 ^ 32 % 2 ^ 32)
          ∧ (∀ k n d, m.body = .mem false k n d → t.readBack = s.readBack ++ [List.replicate n 255])
          ∧ (∀ e i a, m.body = .commit e i a → t = failMove { s with sent := s.sent.erase m } e)))

/-- At the end of 10 ms an epoch starts: ALLOT and the cap take the values that were set, the account is refreshed less what
is left of a deficit, trips count from 0, and proposals of earlier epochs are gone (R464-R466). Once the package is quiet, a
requested step shifts the bands, Moving first, writes the cache rows back, and then makes its target the point, and nothing is
pending unless the wish has changed (R394-R398, R401). A row that fails changes places with a spare that holds at every point
at which it is mapped; where there is none it is retired and its vault leaves service, which the device reports; a row that no
point maps changes nothing else. The list stays sorted, an uncorrectable error marks its sector, and the mapped rows keep
their marks (R384, R399, R400). Boot with no image that verifies stops at stage 1; with one it reaches stage 7 unless the
image is amiss or the hardware fails at one of the stages 2 to 4, the first of which it reports; at stage 7 it has the image's
device number, a MINVER of at least its version, and from stage 3 on a fresh firmware key (R473, R475, R476). The four parts
of a step and their order are the model's (log entry 33), and so are which row takes a failed one's place (log entry 34),
memory that is empty after boot (log entry 3) and which boots stop early, and where (log entries 13 and 36). -/
def Obligations.PowerAndBoot : Prop :=
  ∀ (s : State),
    (s.epochAt + 10000000 ≤ s.ns → ∃ t, exec .epochStart s = .next t ∧ t.epochAt = s.epochAt + 10000000 ∧ t.power.epoch = s.power.epoch + 1
        ∧ t.power.allot = s.power.allotNext ∧ t.power.cap = s.power.capNext ∧ t.power.trips = 0 ∧ t.power.advice = none
        ∧ t.power.account = 1000000 * (s.power.allotNext : Int) - (if s.power.account < 0 then min (-s.power.account) (1000000 * (s.power.allot : Int)) else 0)
        ∧ t.power.point = s.power.point ∧ t.cores = s.cores ∧ t.mem = s.mem
        ∧ ∀ x ∈ t.power.proposals, x ∈ s.power.proposals ∧ x.2.1 = (s.power.epoch + 1) % 2 ^ 32)
    ∧ (s.power.pend = true →
        let p := s.power.point
        let q := s.power.target
        let part := fun (k : Nat) (u : State) => exec .operatingPointStep s = .next { u with power := { u.power with part := k } }
        (s.power.part = 0 → (quiet s = false → exec .operatingPointStep s = .next s) ∧ (quiet s = true → part 1 (startShift p q s)))
        ∧ (s.power.part = 1 → part 2 ((List.range 128).foldl (stepVault p q) s))
        ∧ (s.power.part = 2 → part 3 (if p < q then dropCacheRows q s else s))
        ∧ (3 ≤ s.power.part → ∃ t, exec .operatingPointStep s = .next t ∧ t.power.point = q
            ∧ (t.power.wish = t.power.point ∨ s.power.stepped = true → t.power.pend = false)))
    ∧ (∀ v n ok r a, s.inputs = .row v n ok :: r → (rowList s v)[n]? = some a → (rowList s v).length ≤ 8704 →
        let l := rowList s v
        let m := topRows s v
        ∃ t, exec .rowFailure s = .next t ∧ t.inputs = r ∧ t.cores = s.cores ∧ t.mem = s.mem ∧ t.vault = s.vault
          ∧ (∃ k, rowList t v = tidyRows k) ∧ (∀ w, w ≠ v → rowList t w = rowList s w)
          ∧ (lastPoint s v n = none → t.outVaults = s.outVaults ∧ t.reports = s.reports
              ∧ ∃ b : Row, b.prow = a.prow ∧ (b.low = a.low ∨ b.low = 15) ∧ rowList t v = tidyRows (l.set n b))
          ∧ (∀ p i, lastPoint s v n = some p → spareAt s v p m = some i → t.outVaults = s.outVaults ∧ t.reports = s.reports ∧ m ≤ i
              ∧ (∃ x, l[i]? = some x ∧ p ≤ x.low ∧ x.low ≠ 15)
              ∧ ∃ b : Row, b.prow = a.prow ∧ (b.low = a.low ∨ b.low = 15) ∧ rowList t v = tidyRows ((swapRows l n i).set i b))
          ∧ (∀ p, lastPoint s v n = some p → spareAt s v p m = none → v ∈ t.outVaults ∧ (v ∉ s.outVaults → t.reports = s.reports ++ [v])
              ∧ rowList t v = tidyRows (l.set n { a with low := 15 }))
          ∧ (ok = false → lastPoint s v n ≠ none → ∃ k, k < 16 ∧ (v * 2 ^ 25 + n * 1024) / 64 + k ∈ t.badVault)
          ∧ (∀ x, x / 2 ^ 19 ≠ v ∨ x / 16 % 2 ^ 15 < m → (x ∈ s.badVault → x ∈ t.badVault)
              ∧ (x ∈ t.badVault → x ∈ s.badVault ∨ (ok = false ∧ x / 16 = v * 2 ^ 15 + n))))
    ∧ (s.boot.stage = 0 → (∀ r, s.inputs ≠ .boot :: r) → exec .boot s = .next (bootFrom s.inputs s))
    ∧ (∀ r, s.inputs = .boot :: r →
        (bootSlot s.boot = none → ∃ t, exec .boot s = .next t ∧ t.inputs = r ∧ t.boot.stage = 1 ∧ t.cores = [] ∧ t.mem = [] ∧ t.boot.minver = s.boot.minver)
        ∧ (∀ k img, bootSlot s.boot = some (k, img) → ∃ t, exec .boot s = .next t ∧ t.inputs = r ∧ t.cores = [] ∧ t.mem = []
            ∧ (t.boot.stage = 7 ∨ (2 ≤ t.boot.stage ∧ t.boot.stage ≤ 4))
            ∧ (imageStop img = none → (Config.free s.free % 8 < 2 ∨ 4 < Config.free s.free % 8) → t.boot.stage = 7)
            ∧ (∀ j, imageStop img = some j → t.boot.stage ≤ j)
            ∧ (2 ≤ Config.free s.free % 8 → Config.free s.free % 8 ≤ 4 → t.boot.stage ≤ Config.free s.free % 8)
            ∧ (t.boot.stage ≠ 7 → (imageStop img = some t.boot.stage ∨ Config.free s.free % 8 = t.boot.stage) ∧ t.boot.minver = s.boot.minver
                ∧ t.boot.lastErr = s.boot.lastErr ∧ t.boot.keptErr = t.boot.stage)
            ∧ (t.boot.key = if 3 < t.boot.stage then Config.free (s.free + 1) else s.boot.key)
            ∧ (t.boot.stage = 7 → t.device = img.device ∧ t.phys = physCores img ∧ imageStop img = none ∧ t.boot.active = k ∧ img.version ≤ t.boot.minver ∧ s.boot.minver ≤ t.boot.minver)))
end

