-- ==== Sys2Proof/Laws/State.lean ====
section
/-! SUPPORT. What the named updates of the state leave alone, one lemma per field and update, and what they write. -/

namespace Sys2Proof.Machine

/-! ### Numbered collections -/

@[simp] theorem fget_fput_same {α : Type} (d : α) (f : File α) (n : Nat) (x : α) : fget d (fput f n x) n = x := by
  induction f with
  | nil => simp [fput, fget]
  | cons p r ih =>
    obtain ⟨k, v⟩ := p
    simp only [fput]
    split
    · simp [fget]
    · split
      · simp [fget]
      · have : ¬ k = n := by omega
        simp [fget, this, ih]

theorem fget_fput_ne {α : Type} (d : α) (f : File α) (n m : Nat) (x : α) (h : m ≠ n) :
    fget d (fput f n x) m = fget d f m := by
  induction f with
  | nil => simp [fput, fget, Ne.symm h]
  | cons p r ih =>
    obtain ⟨k, v⟩ := p
    simp only [fput]
    split
    · simp [fget, Ne.symm h]
    · split
      · rename_i _ hk
        subst hk
        simp [fget, Ne.symm h]
      · simp [fget, ih]

theorem fget_fput {α : Type} (d : α) (f : File α) (n m : Nat) (x : α) :
    fget d (fput f n x) m = if m = n then x else fget d f m := by
  split
  · subst_vars; simp
  · exact fget_fput_ne d f n m x ‹_›

@[simp] theorem fhas_fput_same {α : Type} (f : File α) (n : Nat) (x : α) : fhas (fput f n x) n = true := by
  induction f with
  | nil => simp [fput, fhas]
  | cons p r ih =>
    obtain ⟨k, v⟩ := p
    simp only [fput]
    split
    · simp [fhas]
    · split
      · simp [fhas]
      · have : ¬ k = n := by omega
        simp [fhas, this, ih]

theorem fhas_fput_ne {α : Type} (f : File α) (n m : Nat) (x : α) (h : m ≠ n) : fhas (fput f n x) m = fhas f m := by
  induction f with
  | nil => simp [fput, fhas, Ne.symm h]
  | cons p r ih =>
    obtain ⟨k, v⟩ := p
    simp only [fput]
    split
    · simp [fhas, Ne.symm h]
    · split
      · rename_i _ hk
        subst hk
        simp [fhas, Ne.symm h]
      · simp [fhas, ih]

theorem fput_fput {α : Type} (f : File α) (n : Nat) (x y : α) : fput (fput f n x) n y = fput f n y := by
  induction f with
  | nil => simp [fput]
  | cons p r ih =>
    obtain ⟨k, v⟩ := p
    simp only [fput]
    split
    · simp [fput]
    · split
      · simp [fput]
      · have h1 : ¬ n < k := ‹_›
        have h2 : ¬ n = k := ‹_›
        simp [fput, h1, h2, ih]

/-! ### What an update writes -/

@[simp] theorem coreAt_setCoreAt (s : State) (n : Nat) (c : Core) : coreAt (setCoreAt s n c) n = c := by
  simp [coreAt, setCoreAt]
theorem coreAt_setCoreAt_ne (s : State) (n m : Nat) (c : Core) (h : m ≠ n) : coreAt (setCoreAt s n c) m = coreAt s m := by
  simp [coreAt, setCoreAt, fget_fput_ne _ _ _ _ _ h]
@[simp] theorem ctxAt_setCtx (s : State) (n : Nat) (c : Context) : ctxAt (setCtx s n c) n = c := by
  simp [ctxAt, setCtx]
theorem ctxAt_setCtx_ne (s : State) (n m : Nat) (c : Context) (h : m ≠ n) : ctxAt (setCtx s n c) m = ctxAt s m := by
  simp [ctxAt, setCtx, fget_fput_ne _ _ _ _ _ h]
@[simp] theorem cluAt_putClu (c : Core) (i : Nat) (k : Clu) : cluAt (putClu c i k) i = k := by
  simp [cluAt, putClu]
theorem cluAt_putClu_ne (c : Core) (i j : Nat) (k : Clu) (h : j ≠ i) : cluAt (putClu c i k) j = cluAt c j := by
  simp [cluAt, putClu, fget_fput_ne _ _ _ _ _ h]
@[simp] theorem core_setCore (s : State) (c : Core) : core (setCore s c) = c := by
  simp [core, setCore, setCoreAt, coreAt]
@[simp] theorem core_onCore (f : Core → Core) (s : State) : core (onCore f s) = f (core s) := by
  simp [onCore]
@[simp] theorem core_onClu (f : Clu → Clu) (s : State) :
    core (onClu f s) = putClu (core s) s.cl (f (cluAt (core s) s.cl)) := by
  simp [onClu]
@[simp] theorem clu_onClu (f : Clu → Clu) (s : State) : clu (onClu f s) = f (clu s) := by
  simp [clu, onClu, onCore, setCore, setCoreAt, core, coreAt]
theorem coreAt_onCore_ne (f : Core → Core) (s : State) (n : Nat) (h : n ≠ s.cur) : coreAt (onCore f s) n = coreAt s n :=
  coreAt_setCoreAt_ne s s.cur n _ h
theorem coreAt_onClu_ne (f : Clu → Clu) (s : State) (n : Nat) (h : n ≠ s.cur) : coreAt (onClu f s) n = coreAt s n :=
  coreAt_setCoreAt_ne s s.cur n _ h
@[simp] theorem ctxAt_setCoreAt (s : State) (n m : Nat) (c : Core) : ctxAt (setCoreAt s n c) m = ctxAt s m := rfl
@[simp] theorem coreAt_setCtx (s : State) (n m : Nat) (c : Context) : coreAt (setCtx s n c) m = coreAt s m := rfl
@[simp] theorem ctxAt_onCore (f : Core → Core) (s : State) (m : Nat) : ctxAt (onCore f s) m = ctxAt s m := rfl
@[simp] theorem ctxAt_onClu (f : Clu → Clu) (s : State) (m : Nat) : ctxAt (onClu f s) m = ctxAt s m := rfl


/-! ### Fields that `setCoreAt` leaves alone -/

@[simp] theorem setCoreAt_cur (s : State) (n : Nat) (c : Core) : (setCoreAt s n c).cur = s.cur := rfl
@[simp] theorem setCoreAt_cl (s : State) (n : Nat) (c : Core) : (setCoreAt s n c).cl = s.cl := rfl
@[simp] theorem setCoreAt_word (s : State) (n : Nat) (c : Core) : (setCoreAt s n c).word = s.word := rfl
@[simp] theorem setCoreAt_view (s : State) (n : Nat) (c : Core) : (setCoreAt s n c).view = s.view := rfl
@[simp] theorem setCoreAt_groupAt (s : State) (n : Nat) (c : Core) : (setCoreAt s n c).groupAt = s.groupAt := rfl
@[simp] theorem setCoreAt_notices (s : State) (n : Nat) (c : Core) : (setCoreAt s n c).notices = s.notices := rfl
@[simp] theorem setCoreAt_agenda (s : State) (n : Nat) (c : Core) : (setCoreAt s n c).agenda = s.agenda := rfl
@[simp] theorem setCoreAt_inputs (s : State) (n : Nat) (c : Core) : (setCoreAt s n c).inputs = s.inputs := rfl
@[simp] theorem setCoreAt_free (s : State) (n : Nat) (c : Core) : (setCoreAt s n c).free = s.free := rfl
@[simp] theorem setCoreAt_mem (s : State) (n : Nat) (c : Core) : (setCoreAt s n c).mem = s.mem := rfl
@[simp] theorem setCoreAt_l2 (s : State) (n : Nat) (c : Core) : (setCoreAt s n c).l2 = s.l2 := rfl
@[simp] theorem setCoreAt_badSectors (s : State) (n : Nat) (c : Core) : (setCoreAt s n c).badSectors = s.badSectors := rfl
@[simp] theorem setCoreAt_sealed (s : State) (n : Nat) (c : Core) : (setCoreAt s n c).sealed = s.sealed := rfl
@[simp] theorem setCoreAt_sealedFrames (s : State) (n : Nat) (c : Core) : (setCoreAt s n c).sealedFrames = s.sealedFrames := rfl
@[simp] theorem setCoreAt_vault (s : State) (n : Nat) (c : Core) : (setCoreAt s n c).vault = s.vault := rfl
@[simp] theorem setCoreAt_badVault (s : State) (n : Nat) (c : Core) : (setCoreAt s n c).badVault = s.badVault := rfl
@[simp] theorem setCoreAt_vaultSeed (s : State) (n : Nat) (c : Core) : (setCoreAt s n c).vaultSeed = s.vaultSeed := rfl
@[simp] theorem setCoreAt_used (s : State) (n : Nat) (c : Core) : (setCoreAt s n c).used = s.used := rfl
@[simp] theorem setCoreAt_ctxs (s : State) (n : Nat) (c : Core) : (setCoreAt s n c).ctxs = s.ctxs := rfl
@[simp] theorem setCoreAt_runs (s : State) (n : Nat) (c : Core) : (setCoreAt s n c).runs = s.runs := rfl
@[simp] theorem setCoreAt_nextRun (s : State) (n : Nat) (c : Core) : (setCoreAt s n c).nextRun = s.nextRun := rfl
@[simp] theorem setCoreAt_groups (s : State) (n : Nat) (c : Core) : (setCoreAt s n c).groups = s.groups := rfl
@[simp] theorem setCoreAt_nextGroup (s : State) (n : Nat) (c : Core) : (setCoreAt s n c).nextGroup = s.nextGroup := rfl
@[simp] theorem setCoreAt_shadows (s : State) (n : Nat) (c : Core) : (setCoreAt s n c).shadows = s.shadows := rfl
@[simp] theorem setCoreAt_blocks (s : State) (n : Nat) (c : Core) : (setCoreAt s n c).blocks = s.blocks := rfl
@[simp] theorem setCoreAt_holds (s : State) (n : Nat) (c : Core) : (setCoreAt s n c).holds = s.holds := rfl
@[simp] theorem setCoreAt_walks (s : State) (n : Nat) (c : Core) : (setCoreAt s n c).walks = s.walks := rfl
@[simp] theorem setCoreAt_looks (s : State) (n : Nat) (c : Core) : (setCoreAt s n c).looks = s.looks := rfl
@[simp] theorem setCoreAt_via (s : State) (n : Nat) (c : Core) : (setCoreAt s n c).via = s.via := rfl
@[simp] theorem setCoreAt_xlates (s : State) (n : Nat) (c : Core) : (setCoreAt s n c).xlates = s.xlates := rfl
@[simp] theorem setCoreAt_linked (s : State) (n : Nat) (c : Core) : (setCoreAt s n c).linked = s.linked := rfl
@[simp] theorem setCoreAt_joined (s : State) (n : Nat) (c : Core) : (setCoreAt s n c).joined = s.joined := rfl
@[simp] theorem setCoreAt_broken (s : State) (n : Nat) (c : Core) : (setCoreAt s n c).broken = s.broken := rfl
@[simp] theorem setCoreAt_served (s : State) (n : Nat) (c : Core) : (setCoreAt s n c).served = s.served := rfl
@[simp] theorem setCoreAt_table (s : State) (n : Nat) (c : Core) : (setCoreAt s n c).table = s.table := rfl
@[simp] theorem setCoreAt_tableBusy (s : State) (n : Nat) (c : Core) : (setCoreAt s n c).tableBusy = s.tableBusy := rfl
@[simp] theorem setCoreAt_tableNew (s : State) (n : Nat) (c : Core) : (setCoreAt s n c).tableNew = s.tableNew := rfl
@[simp] theorem setCoreAt_rows (s : State) (n : Nat) (c : Core) : (setCoreAt s n c).rows = s.rows := rfl
@[simp] theorem setCoreAt_counts (s : State) (n : Nat) (c : Core) : (setCoreAt s n c).counts = s.counts := rfl
@[simp] theorem setCoreAt_phys (s : State) (n : Nat) (c : Core) : (setCoreAt s n c).phys = s.phys := rfl
@[simp] theorem setCoreAt_outVaults (s : State) (n : Nat) (c : Core) : (setCoreAt s n c).outVaults = s.outVaults := rfl
@[simp] theorem setCoreAt_reports (s : State) (n : Nat) (c : Core) : (setCoreAt s n c).reports = s.reports := rfl
@[simp] theorem setCoreAt_power (s : State) (n : Nat) (c : Core) : (setCoreAt s n c).power = s.power := rfl
@[simp] theorem setCoreAt_boot (s : State) (n : Nat) (c : Core) : (setCoreAt s n c).boot = s.boot := rfl
@[simp] theorem setCoreAt_device (s : State) (n : Nat) (c : Core) : (setCoreAt s n c).device = s.device := rfl
@[simp] theorem setCoreAt_bridge (s : State) (n : Nat) (c : Core) : (setCoreAt s n c).bridge = s.bridge := rfl
@[simp] theorem setCoreAt_lostDevs (s : State) (n : Nat) (c : Core) : (setCoreAt s n c).lostDevs = s.lostDevs := rfl
@[simp] theorem setCoreAt_cutOff (s : State) (n : Nat) (c : Core) : (setCoreAt s n c).cutOff = s.cutOff := rfl
@[simp] theorem setCoreAt_ports (s : State) (n : Nat) (c : Core) : (setCoreAt s n c).ports = s.ports := rfl
@[simp] theorem setCoreAt_sent (s : State) (n : Nat) (c : Core) : (setCoreAt s n c).sent = s.sent := rfl
@[simp] theorem setCoreAt_nextMsg (s : State) (n : Nat) (c : Core) : (setCoreAt s n c).nextMsg = s.nextMsg := rfl
@[simp] theorem setCoreAt_seen (s : State) (n : Nat) (c : Core) : (setCoreAt s n c).seen = s.seen := rfl
@[simp] theorem setCoreAt_replies (s : State) (n : Nat) (c : Core) : (setCoreAt s n c).replies = s.replies := rfl
@[simp] theorem setCoreAt_routes (s : State) (n : Nat) (c : Core) : (setCoreAt s n c).routes = s.routes := rfl
@[simp] theorem setCoreAt_transit (s : State) (n : Nat) (c : Core) : (setCoreAt s n c).transit = s.transit := rfl
@[simp] theorem setCoreAt_images (s : State) (n : Nat) (c : Core) : (setCoreAt s n c).images = s.images := rfl
@[simp] theorem setCoreAt_mirrors (s : State) (n : Nat) (c : Core) : (setCoreAt s n c).mirrors = s.mirrors := rfl
@[simp] theorem setCoreAt_retiring (s : State) (n : Nat) (c : Core) : (setCoreAt s n c).retiring = s.retiring := rfl
@[simp] theorem setCoreAt_errors (s : State) (n : Nat) (c : Core) : (setCoreAt s n c).errors = s.errors := rfl
@[simp] theorem setCoreAt_faultLog (s : State) (n : Nat) (c : Core) : (setCoreAt s n c).faultLog = s.faultLog := rfl
@[simp] theorem setCoreAt_replayLog (s : State) (n : Nat) (c : Core) : (setCoreAt s n c).replayLog = s.replayLog := rfl
@[simp] theorem setCoreAt_violLog (s : State) (n : Nat) (c : Core) : (setCoreAt s n c).violLog = s.violLog := rfl
@[simp] theorem setCoreAt_trace (s : State) (n : Nat) (c : Core) : (setCoreAt s n c).trace = s.trace := rfl
@[simp] theorem setCoreAt_apertures (s : State) (n : Nat) (c : Core) : (setCoreAt s n c).apertures = s.apertures := rfl
@[simp] theorem setCoreAt_msix (s : State) (n : Nat) (c : Core) : (setCoreAt s n c).msix = s.msix := rfl
@[simp] theorem setCoreAt_msixTable (s : State) (n : Nat) (c : Core) : (setCoreAt s n c).msixTable = s.msixTable := rfl
@[simp] theorem setCoreAt_readBack (s : State) (n : Nat) (c : Core) : (setCoreAt s n c).readBack = s.readBack := rfl
@[simp] theorem setCoreAt_ns (s : State) (n : Nat) (c : Core) : (setCoreAt s n c).ns = s.ns := rfl
@[simp] theorem setCoreAt_cycle (s : State) (n : Nat) (c : Core) : (setCoreAt s n c).cycle = s.cycle := rfl
@[simp] theorem setCoreAt_interval (s : State) (n : Nat) (c : Core) : (setCoreAt s n c).interval = s.interval := rfl
@[simp] theorem setCoreAt_epochAt (s : State) (n : Nat) (c : Core) : (setCoreAt s n c).epochAt = s.epochAt := rfl

/-! ### Fields that `setCore` leaves alone -/

@[simp] theorem setCore_cur (s : State) (c : Core) : (setCore s c).cur = s.cur := rfl
@[simp] theorem setCore_cl (s : State) (c : Core) : (setCore s c).cl = s.cl := rfl
@[simp] theorem setCore_word (s : State) (c : Core) : (setCore s c).word = s.word := rfl
@[simp] theorem setCore_view (s : State) (c : Core) : (setCore s c).view = s.view := rfl
@[simp] theorem setCore_groupAt (s : State) (c : Core) : (setCore s c).groupAt = s.groupAt := rfl
@[simp] theorem setCore_notices (s : State) (c : Core) : (setCore s c).notices = s.notices := rfl
@[simp] theorem setCore_agenda (s : State) (c : Core) : (setCore s c).agenda = s.agenda := rfl
@[simp] theorem setCore_inputs (s : State) (c : Core) : (setCore s c).inputs = s.inputs := rfl
@[simp] theorem setCore_free (s : State) (c : Core) : (setCore s c).free = s.free := rfl
@[simp] theorem setCore_mem (s : State) (c : Core) : (setCore s c).mem = s.mem := rfl
@[simp] theorem setCore_l2 (s : State) (c : Core) : (setCore s c).l2 = s.l2 := rfl
@[simp] theorem setCore_badSectors (s : State) (c : Core) : (setCore s c).badSectors = s.badSectors := rfl
@[simp] theorem setCore_sealed (s : State) (c : Core) : (setCore s c).sealed = s.sealed := rfl
@[simp] theorem setCore_sealedFrames (s : State) (c : Core) : (setCore s c).sealedFrames = s.sealedFrames := rfl
@[simp] theorem setCore_vault (s : State) (c : Core) : (setCore s c).vault = s.vault := rfl
@[simp] theorem setCore_badVault (s : State) (c : Core) : (setCore s c).badVault = s.badVault := rfl
@[simp] theorem setCore_vaultSeed (s : State) (c : Core) : (setCore s c).vaultSeed = s.vaultSeed := rfl
@[simp] theorem setCore_used (s : State) (c : Core) : (setCore s c).used = s.used := rfl
@[simp] theorem setCore_ctxs (s : State) (c : Core) : (setCore s c).ctxs = s.ctxs := rfl
@[simp] theorem setCore_runs (s : State) (c : Core) : (setCore s c).runs = s.runs := rfl
@[simp] theorem setCore_nextRun (s : State) (c : Core) : (setCore s c).nextRun = s.nextRun := rfl
@[simp] theorem setCore_groups (s : State) (c : Core) : (setCore s c).groups = s.groups := rfl
@[simp] theorem setCore_nextGroup (s : State) (c : Core) : (setCore s c).nextGroup = s.nextGroup := rfl
@[simp] theorem setCore_shadows (s : State) (c : Core) : (setCore s c).shadows = s.shadows := rfl
@[simp] theorem setCore_blocks (s : State) (c : Core) : (setCore s c).blocks = s.blocks := rfl
@[simp] theorem setCore_holds (s : State) (c : Core) : (setCore s c).holds = s.holds := rfl
@[simp] theorem setCore_walks (s : State) (c : Core) : (setCore s c).walks = s.walks := rfl
@[simp] theorem setCore_looks (s : State) (c : Core) : (setCore s c).looks = s.looks := rfl
@[simp] theorem setCore_via (s : State) (c : Core) : (setCore s c).via = s.via := rfl
@[simp] theorem setCore_xlates (s : State) (c : Core) : (setCore s c).xlates = s.xlates := rfl
@[simp] theorem setCore_linked (s : State) (c : Core) : (setCore s c).linked = s.linked := rfl
@[simp] theorem setCore_joined (s : State) (c : Core) : (setCore s c).joined = s.joined := rfl
@[simp] theorem setCore_broken (s : State) (c : Core) : (setCore s c).broken = s.broken := rfl
@[simp] theorem setCore_served (s : State) (c : Core) : (setCore s c).served = s.served := rfl
@[simp] theorem setCore_table (s : State) (c : Core) : (setCore s c).table = s.table := rfl
@[simp] theorem setCore_tableBusy (s : State) (c : Core) : (setCore s c).tableBusy = s.tableBusy := rfl
@[simp] theorem setCore_tableNew (s : State) (c : Core) : (setCore s c).tableNew = s.tableNew := rfl
@[simp] theorem setCore_rows (s : State) (c : Core) : (setCore s c).rows = s.rows := rfl
@[simp] theorem setCore_counts (s : State) (c : Core) : (setCore s c).counts = s.counts := rfl
@[simp] theorem setCore_phys (s : State) (c : Core) : (setCore s c).phys = s.phys := rfl
@[simp] theorem setCore_outVaults (s : State) (c : Core) : (setCore s c).outVaults = s.outVaults := rfl
@[simp] theorem setCore_reports (s : State) (c : Core) : (setCore s c).reports = s.reports := rfl
@[simp] theorem setCore_power (s : State) (c : Core) : (setCore s c).power = s.power := rfl
@[simp] theorem setCore_boot (s : State) (c : Core) : (setCore s c).boot = s.boot := rfl
@[simp] theorem setCore_device (s : State) (c : Core) : (setCore s c).device = s.device := rfl
@[simp] theorem setCore_bridge (s : State) (c : Core) : (setCore s c).bridge = s.bridge := rfl
@[simp] theorem setCore_lostDevs (s : State) (c : Core) : (setCore s c).lostDevs = s.lostDevs := rfl
@[simp] theorem setCore_cutOff (s : State) (c : Core) : (setCore s c).cutOff = s.cutOff := rfl
@[simp] theorem setCore_ports (s : State) (c : Core) : (setCore s c).ports = s.ports := rfl
@[simp] theorem setCore_sent (s : State) (c : Core) : (setCore s c).sent = s.sent := rfl
@[simp] theorem setCore_nextMsg (s : State) (c : Core) : (setCore s c).nextMsg = s.nextMsg := rfl
@[simp] theorem setCore_seen (s : State) (c : Core) : (setCore s c).seen = s.seen := rfl
@[simp] theorem setCore_replies (s : State) (c : Core) : (setCore s c).replies = s.replies := rfl
@[simp] theorem setCore_routes (s : State) (c : Core) : (setCore s c).routes = s.routes := rfl
@[simp] theorem setCore_transit (s : State) (c : Core) : (setCore s c).transit = s.transit := rfl
@[simp] theorem setCore_images (s : State) (c : Core) : (setCore s c).images = s.images := rfl
@[simp] theorem setCore_mirrors (s : State) (c : Core) : (setCore s c).mirrors = s.mirrors := rfl
@[simp] theorem setCore_retiring (s : State) (c : Core) : (setCore s c).retiring = s.retiring := rfl
@[simp] theorem setCore_errors (s : State) (c : Core) : (setCore s c).errors = s.errors := rfl
@[simp] theorem setCore_faultLog (s : State) (c : Core) : (setCore s c).faultLog = s.faultLog := rfl
@[simp] theorem setCore_replayLog (s : State) (c : Core) : (setCore s c).replayLog = s.replayLog := rfl
@[simp] theorem setCore_violLog (s : State) (c : Core) : (setCore s c).violLog = s.violLog := rfl
@[simp] theorem setCore_trace (s : State) (c : Core) : (setCore s c).trace = s.trace := rfl
@[simp] theorem setCore_apertures (s : State) (c : Core) : (setCore s c).apertures = s.apertures := rfl
@[simp] theorem setCore_msix (s : State) (c : Core) : (setCore s c).msix = s.msix := rfl
@[simp] theorem setCore_msixTable (s : State) (c : Core) : (setCore s c).msixTable = s.msixTable := rfl
@[simp] theorem setCore_readBack (s : State) (c : Core) : (setCore s c).readBack = s.readBack := rfl
@[simp] theorem setCore_ns (s : State) (c : Core) : (setCore s c).ns = s.ns := rfl
@[simp] theorem setCore_cycle (s : State) (c : Core) : (setCore s c).cycle = s.cycle := rfl
@[simp] theorem setCore_interval (s : State) (c : Core) : (setCore s c).interval = s.interval := rfl
@[simp] theorem setCore_epochAt (s : State) (c : Core) : (setCore s c).epochAt = s.epochAt := rfl

/-! ### Fields that `onCore` leaves alone -/

@[simp] theorem onCore_cur (f : Core → Core) (s : State) : (onCore f s).cur = s.cur := rfl
@[simp] theorem onCore_cl (f : Core → Core) (s : State) : (onCore f s).cl = s.cl := rfl
@[simp] theorem onCore_word (f : Core → Core) (s : State) : (onCore f s).word = s.word := rfl
@[simp] theorem onCore_view (f : Core → Core) (s : State) : (onCore f s).view = s.view := rfl
@[simp] theorem onCore_groupAt (f : Core → Core) (s : State) : (onCore f s).groupAt = s.groupAt := rfl
@[simp] theorem onCore_notices (f : Core → Core) (s : State) : (onCore f s).notices = s.notices := rfl
@[simp] theorem onCore_agenda (f : Core → Core) (s : State) : (onCore f s).agenda = s.agenda := rfl
@[simp] theorem onCore_inputs (f : Core → Core) (s : State) : (onCore f s).inputs = s.inputs := rfl
@[simp] theorem onCore_free (f : Core → Core) (s : State) : (onCore f s).free = s.free := rfl
@[simp] theorem onCore_mem (f : Core → Core) (s : State) : (onCore f s).mem = s.mem := rfl
@[simp] theorem onCore_l2 (f : Core → Core) (s : State) : (onCore f s).l2 = s.l2 := rfl
@[simp] theorem onCore_badSectors (f : Core → Core) (s : State) : (onCore f s).badSectors = s.badSectors := rfl
@[simp] theorem onCore_sealed (f : Core → Core) (s : State) : (onCore f s).sealed = s.sealed := rfl
@[simp] theorem onCore_sealedFrames (f : Core → Core) (s : State) : (onCore f s).sealedFrames = s.sealedFrames := rfl
@[simp] theorem onCore_vault (f : Core → Core) (s : State) : (onCore f s).vault = s.vault := rfl
@[simp] theorem onCore_badVault (f : Core → Core) (s : State) : (onCore f s).badVault = s.badVault := rfl
@[simp] theorem onCore_vaultSeed (f : Core → Core) (s : State) : (onCore f s).vaultSeed = s.vaultSeed := rfl
@[simp] theorem onCore_used (f : Core → Core) (s : State) : (onCore f s).used = s.used := rfl
@[simp] theorem onCore_ctxs (f : Core → Core) (s : State) : (onCore f s).ctxs = s.ctxs := rfl
@[simp] theorem onCore_runs (f : Core → Core) (s : State) : (onCore f s).runs = s.runs := rfl
@[simp] theorem onCore_nextRun (f : Core → Core) (s : State) : (onCore f s).nextRun = s.nextRun := rfl
@[simp] theorem onCore_groups (f : Core → Core) (s : State) : (onCore f s).groups = s.groups := rfl
@[simp] theorem onCore_nextGroup (f : Core → Core) (s : State) : (onCore f s).nextGroup = s.nextGroup := rfl
@[simp] theorem onCore_shadows (f : Core → Core) (s : State) : (onCore f s).shadows = s.shadows := rfl
@[simp] theorem onCore_blocks (f : Core → Core) (s : State) : (onCore f s).blocks = s.blocks := rfl
@[simp] theorem onCore_holds (f : Core → Core) (s : State) : (onCore f s).holds = s.holds := rfl
@[simp] theorem onCore_walks (f : Core → Core) (s : State) : (onCore f s).walks = s.walks := rfl
@[simp] theorem onCore_looks (f : Core → Core) (s : State) : (onCore f s).looks = s.looks := rfl
@[simp] theorem onCore_via (f : Core → Core) (s : State) : (onCore f s).via = s.via := rfl
@[simp] theorem onCore_xlates (f : Core → Core) (s : State) : (onCore f s).xlates = s.xlates := rfl
@[simp] theorem onCore_linked (f : Core → Core) (s : State) : (onCore f s).linked = s.linked := rfl
@[simp] theorem onCore_joined (f : Core → Core) (s : State) : (onCore f s).joined = s.joined := rfl
@[simp] theorem onCore_broken (f : Core → Core) (s : State) : (onCore f s).broken = s.broken := rfl
@[simp] theorem onCore_served (f : Core → Core) (s : State) : (onCore f s).served = s.served := rfl
@[simp] theorem onCore_table (f : Core → Core) (s : State) : (onCore f s).table = s.table := rfl
@[simp] theorem onCore_tableBusy (f : Core → Core) (s : State) : (onCore f s).tableBusy = s.tableBusy := rfl
@[simp] theorem onCore_tableNew (f : Core → Core) (s : State) : (onCore f s).tableNew = s.tableNew := rfl
@[simp] theorem onCore_rows (f : Core → Core) (s : State) : (onCore f s).rows = s.rows := rfl
@[simp] theorem onCore_counts (f : Core → Core) (s : State) : (onCore f s).counts = s.counts := rfl
@[simp] theorem onCore_phys (f : Core → Core) (s : State) : (onCore f s).phys = s.phys := rfl
@[simp] theorem onCore_outVaults (f : Core → Core) (s : State) : (onCore f s).outVaults = s.outVaults := rfl
@[simp] theorem onCore_reports (f : Core → Core) (s : State) : (onCore f s).reports = s.reports := rfl
@[simp] theorem onCore_power (f : Core → Core) (s : State) : (onCore f s).power = s.power := rfl
@[simp] theorem onCore_boot (f : Core → Core) (s : State) : (onCore f s).boot = s.boot := rfl
@[simp] theorem onCore_device (f : Core → Core) (s : State) : (onCore f s).device = s.device := rfl
@[simp] theorem onCore_bridge (f : Core → Core) (s : State) : (onCore f s).bridge = s.bridge := rfl
@[simp] theorem onCore_lostDevs (f : Core → Core) (s : State) : (onCore f s).lostDevs = s.lostDevs := rfl
@[simp] theorem onCore_cutOff (f : Core → Core) (s : State) : (onCore f s).cutOff = s.cutOff := rfl
@[simp] theorem onCore_ports (f : Core → Core) (s : State) : (onCore f s).ports = s.ports := rfl
@[simp] theorem onCore_sent (f : Core → Core) (s : State) : (onCore f s).sent = s.sent := rfl
@[simp] theorem onCore_nextMsg (f : Core → Core) (s : State) : (onCore f s).nextMsg = s.nextMsg := rfl
@[simp] theorem onCore_seen (f : Core → Core) (s : State) : (onCore f s).seen = s.seen := rfl
@[simp] theorem onCore_replies (f : Core → Core) (s : State) : (onCore f s).replies = s.replies := rfl
@[simp] theorem onCore_routes (f : Core → Core) (s : State) : (onCore f s).routes = s.routes := rfl
@[simp] theorem onCore_transit (f : Core → Core) (s : State) : (onCore f s).transit = s.transit := rfl
@[simp] theorem onCore_images (f : Core → Core) (s : State) : (onCore f s).images = s.images := rfl
@[simp] theorem onCore_mirrors (f : Core → Core) (s : State) : (onCore f s).mirrors = s.mirrors := rfl
@[simp] theorem onCore_retiring (f : Core → Core) (s : State) : (onCore f s).retiring = s.retiring := rfl
@[simp] theorem onCore_errors (f : Core → Core) (s : State) : (onCore f s).errors = s.errors := rfl
@[simp] theorem onCore_faultLog (f : Core → Core) (s : State) : (onCore f s).faultLog = s.faultLog := rfl
@[simp] theorem onCore_replayLog (f : Core → Core) (s : State) : (onCore f s).replayLog = s.replayLog := rfl
@[simp] theorem onCore_violLog (f : Core → Core) (s : State) : (onCore f s).violLog = s.violLog := rfl
@[simp] theorem onCore_trace (f : Core → Core) (s : State) : (onCore f s).trace = s.trace := rfl
@[simp] theorem onCore_apertures (f : Core → Core) (s : State) : (onCore f s).apertures = s.apertures := rfl
@[simp] theorem onCore_msix (f : Core → Core) (s : State) : (onCore f s).msix = s.msix := rfl
@[simp] theorem onCore_msixTable (f : Core → Core) (s : State) : (onCore f s).msixTable = s.msixTable := rfl
@[simp] theorem onCore_readBack (f : Core → Core) (s : State) : (onCore f s).readBack = s.readBack := rfl
@[simp] theorem onCore_ns (f : Core → Core) (s : State) : (onCore f s).ns = s.ns := rfl
@[simp] theorem onCore_cycle (f : Core → Core) (s : State) : (onCore f s).cycle = s.cycle := rfl
@[simp] theorem onCore_interval (f : Core → Core) (s : State) : (onCore f s).interval = s.interval := rfl
@[simp] theorem onCore_epochAt (f : Core → Core) (s : State) : (onCore f s).epochAt = s.epochAt := rfl

/-! ### Fields that `onClu` leaves alone -/

@[simp] theorem onClu_cur (f : Clu → Clu) (s : State) : (onClu f s).cur = s.cur := rfl
@[simp] theorem onClu_cl (f : Clu → Clu) (s : State) : (onClu f s).cl = s.cl := rfl
@[simp] theorem onClu_word (f : Clu → Clu) (s : State) : (onClu f s).word = s.word := rfl
@[simp] theorem onClu_view (f : Clu → Clu) (s : State) : (onClu f s).view = s.view := rfl
@[simp] theorem onClu_groupAt (f : Clu → Clu) (s : State) : (onClu f s).groupAt = s.groupAt := rfl
@[simp] theorem onClu_notices (f : Clu → Clu) (s : State) : (onClu f s).notices = s.notices := rfl
@[simp] theorem onClu_agenda (f : Clu → Clu) (s : State) : (onClu f s).agenda = s.agenda := rfl
@[simp] theorem onClu_inputs (f : Clu → Clu) (s : State) : (onClu f s).inputs = s.inputs := rfl
@[simp] theorem onClu_free (f : Clu → Clu) (s : State) : (onClu f s).free = s.free := rfl
@[simp] theorem onClu_mem (f : Clu → Clu) (s : State) : (onClu f s).mem = s.mem := rfl
@[simp] theorem onClu_l2 (f : Clu → Clu) (s : State) : (onClu f s).l2 = s.l2 := rfl
@[simp] theorem onClu_badSectors (f : Clu → Clu) (s : State) : (onClu f s).badSectors = s.badSectors := rfl
@[simp] theorem onClu_sealed (f : Clu → Clu) (s : State) : (onClu f s).sealed = s.sealed := rfl
@[simp] theorem onClu_sealedFrames (f : Clu → Clu) (s : State) : (onClu f s).sealedFrames = s.sealedFrames := rfl
@[simp] theorem onClu_vault (f : Clu → Clu) (s : State) : (onClu f s).vault = s.vault := rfl
@[simp] theorem onClu_badVault (f : Clu → Clu) (s : State) : (onClu f s).badVault = s.badVault := rfl
@[simp] theorem onClu_vaultSeed (f : Clu → Clu) (s : State) : (onClu f s).vaultSeed = s.vaultSeed := rfl
@[simp] theorem onClu_used (f : Clu → Clu) (s : State) : (onClu f s).used = s.used := rfl
@[simp] theorem onClu_ctxs (f : Clu → Clu) (s : State) : (onClu f s).ctxs = s.ctxs := rfl
@[simp] theorem onClu_runs (f : Clu → Clu) (s : State) : (onClu f s).runs = s.runs := rfl
@[simp] theorem onClu_nextRun (f : Clu → Clu) (s : State) : (onClu f s).nextRun = s.nextRun := rfl
@[simp] theorem onClu_groups (f : Clu → Clu) (s : State) : (onClu f s).groups = s.groups := rfl
@[simp] theorem onClu_nextGroup (f : Clu → Clu) (s : State) : (onClu f s).nextGroup = s.nextGroup := rfl
@[simp] theorem onClu_shadows (f : Clu → Clu) (s : State) : (onClu f s).shadows = s.shadows := rfl
@[simp] theorem onClu_blocks (f : Clu → Clu) (s : State) : (onClu f s).blocks = s.blocks := rfl
@[simp] theorem onClu_holds (f : Clu → Clu) (s : State) : (onClu f s).holds = s.holds := rfl
@[simp] theorem onClu_walks (f : Clu → Clu) (s : State) : (onClu f s).walks = s.walks := rfl
@[simp] theorem onClu_looks (f : Clu → Clu) (s : State) : (onClu f s).looks = s.looks := rfl
@[simp] theorem onClu_via (f : Clu → Clu) (s : State) : (onClu f s).via = s.via := rfl
@[simp] theorem onClu_xlates (f : Clu → Clu) (s : State) : (onClu f s).xlates = s.xlates := rfl
@[simp] theorem onClu_linked (f : Clu → Clu) (s : State) : (onClu f s).linked = s.linked := rfl
@[simp] theorem onClu_joined (f : Clu → Clu) (s : State) : (onClu f s).joined = s.joined := rfl
@[simp] theorem onClu_broken (f : Clu → Clu) (s : State) : (onClu f s).broken = s.broken := rfl
@[simp] theorem onClu_served (f : Clu → Clu) (s : State) : (onClu f s).served = s.served := rfl
@[simp] theorem onClu_table (f : Clu → Clu) (s : State) : (onClu f s).table = s.table := rfl
@[simp] theorem onClu_tableBusy (f : Clu → Clu) (s : State) : (onClu f s).tableBusy = s.tableBusy := rfl
@[simp] theorem onClu_tableNew (f : Clu → Clu) (s : State) : (onClu f s).tableNew = s.tableNew := rfl
@[simp] theorem onClu_rows (f : Clu → Clu) (s : State) : (onClu f s).rows = s.rows := rfl
@[simp] theorem onClu_counts (f : Clu → Clu) (s : State) : (onClu f s).counts = s.counts := rfl
@[simp] theorem onClu_phys (f : Clu → Clu) (s : State) : (onClu f s).phys = s.phys := rfl
@[simp] theorem onClu_outVaults (f : Clu → Clu) (s : State) : (onClu f s).outVaults = s.outVaults := rfl
@[simp] theorem onClu_reports (f : Clu → Clu) (s : State) : (onClu f s).reports = s.reports := rfl
@[simp] theorem onClu_power (f : Clu → Clu) (s : State) : (onClu f s).power = s.power := rfl
@[simp] theorem onClu_boot (f : Clu → Clu) (s : State) : (onClu f s).boot = s.boot := rfl
@[simp] theorem onClu_device (f : Clu → Clu) (s : State) : (onClu f s).device = s.device := rfl
@[simp] theorem onClu_bridge (f : Clu → Clu) (s : State) : (onClu f s).bridge = s.bridge := rfl
@[simp] theorem onClu_lostDevs (f : Clu → Clu) (s : State) : (onClu f s).lostDevs = s.lostDevs := rfl
@[simp] theorem onClu_cutOff (f : Clu → Clu) (s : State) : (onClu f s).cutOff = s.cutOff := rfl
@[simp] theorem onClu_ports (f : Clu → Clu) (s : State) : (onClu f s).ports = s.ports := rfl
@[simp] theorem onClu_sent (f : Clu → Clu) (s : State) : (onClu f s).sent = s.sent := rfl
@[simp] theorem onClu_nextMsg (f : Clu → Clu) (s : State) : (onClu f s).nextMsg = s.nextMsg := rfl
@[simp] theorem onClu_seen (f : Clu → Clu) (s : State) : (onClu f s).seen = s.seen := rfl
@[simp] theorem onClu_replies (f : Clu → Clu) (s : State) : (onClu f s).replies = s.replies := rfl
@[simp] theorem onClu_routes (f : Clu → Clu) (s : State) : (onClu f s).routes = s.routes := rfl
@[simp] theorem onClu_transit (f : Clu → Clu) (s : State) : (onClu f s).transit = s.transit := rfl
@[simp] theorem onClu_images (f : Clu → Clu) (s : State) : (onClu f s).images = s.images := rfl
@[simp] theorem onClu_mirrors (f : Clu → Clu) (s : State) : (onClu f s).mirrors = s.mirrors := rfl
@[simp] theorem onClu_retiring (f : Clu → Clu) (s : State) : (onClu f s).retiring = s.retiring := rfl
@[simp] theorem onClu_errors (f : Clu → Clu) (s : State) : (onClu f s).errors = s.errors := rfl
@[simp] theorem onClu_faultLog (f : Clu → Clu) (s : State) : (onClu f s).faultLog = s.faultLog := rfl
@[simp] theorem onClu_replayLog (f : Clu → Clu) (s : State) : (onClu f s).replayLog = s.replayLog := rfl
@[simp] theorem onClu_violLog (f : Clu → Clu) (s : State) : (onClu f s).violLog = s.violLog := rfl
@[simp] theorem onClu_trace (f : Clu → Clu) (s : State) : (onClu f s).trace = s.trace := rfl
@[simp] theorem onClu_apertures (f : Clu → Clu) (s : State) : (onClu f s).apertures = s.apertures := rfl
@[simp] theorem onClu_msix (f : Clu → Clu) (s : State) : (onClu f s).msix = s.msix := rfl
@[simp] theorem onClu_msixTable (f : Clu → Clu) (s : State) : (onClu f s).msixTable = s.msixTable := rfl
@[simp] theorem onClu_readBack (f : Clu → Clu) (s : State) : (onClu f s).readBack = s.readBack := rfl
@[simp] theorem onClu_ns (f : Clu → Clu) (s : State) : (onClu f s).ns = s.ns := rfl
@[simp] theorem onClu_cycle (f : Clu → Clu) (s : State) : (onClu f s).cycle = s.cycle := rfl
@[simp] theorem onClu_interval (f : Clu → Clu) (s : State) : (onClu f s).interval = s.interval := rfl
@[simp] theorem onClu_epochAt (f : Clu → Clu) (s : State) : (onClu f s).epochAt = s.epochAt := rfl

/-! ### Fields that `setCtx` leaves alone -/

@[simp] theorem setCtx_cores (s : State) (n : Nat) (c : Context) : (setCtx s n c).cores = s.cores := rfl
@[simp] theorem setCtx_cur (s : State) (n : Nat) (c : Context) : (setCtx s n c).cur = s.cur := rfl
@[simp] theorem setCtx_cl (s : State) (n : Nat) (c : Context) : (setCtx s n c).cl = s.cl := rfl
@[simp] theorem setCtx_word (s : State) (n : Nat) (c : Context) : (setCtx s n c).word = s.word := rfl
@[simp] theorem setCtx_view (s : State) (n : Nat) (c : Context) : (setCtx s n c).view = s.view := rfl
@[simp] theorem setCtx_groupAt (s : State) (n : Nat) (c : Context) : (setCtx s n c).groupAt = s.groupAt := rfl
@[simp] theorem setCtx_notices (s : State) (n : Nat) (c : Context) : (setCtx s n c).notices = s.notices := rfl
@[simp] theorem setCtx_agenda (s : State) (n : Nat) (c : Context) : (setCtx s n c).agenda = s.agenda := rfl
@[simp] theorem setCtx_inputs (s : State) (n : Nat) (c : Context) : (setCtx s n c).inputs = s.inputs := rfl
@[simp] theorem setCtx_free (s : State) (n : Nat) (c : Context) : (setCtx s n c).free = s.free := rfl
@[simp] theorem setCtx_mem (s : State) (n : Nat) (c : Context) : (setCtx s n c).mem = s.mem := rfl
@[simp] theorem setCtx_l2 (s : State) (n : Nat) (c : Context) : (setCtx s n c).l2 = s.l2 := rfl
@[simp] theorem setCtx_badSectors (s : State) (n : Nat) (c : Context) : (setCtx s n c).badSectors = s.badSectors := rfl
@[simp] theorem setCtx_sealed (s : State) (n : Nat) (c : Context) : (setCtx s n c).sealed = s.sealed := rfl
@[simp] theorem setCtx_sealedFrames (s : State) (n : Nat) (c : Context) : (setCtx s n c).sealedFrames = s.sealedFrames := rfl
@[simp] theorem setCtx_vault (s : State) (n : Nat) (c : Context) : (setCtx s n c).vault = s.vault := rfl
@[simp] theorem setCtx_badVault (s : State) (n : Nat) (c : Context) : (setCtx s n c).badVault = s.badVault := rfl
@[simp] theorem setCtx_vaultSeed (s : State) (n : Nat) (c : Context) : (setCtx s n c).vaultSeed = s.vaultSeed := rfl
@[simp] theorem setCtx_used (s : State) (n : Nat) (c : Context) : (setCtx s n c).used = s.used := rfl
@[simp] theorem setCtx_runs (s : State) (n : Nat) (c : Context) : (setCtx s n c).runs = s.runs := rfl
@[simp] theorem setCtx_nextRun (s : State) (n : Nat) (c : Context) : (setCtx s n c).nextRun = s.nextRun := rfl
@[simp] theorem setCtx_groups (s : State) (n : Nat) (c : Context) : (setCtx s n c).groups = s.groups := rfl
@[simp] theorem setCtx_nextGroup (s : State) (n : Nat) (c : Context) : (setCtx s n c).nextGroup = s.nextGroup := rfl
@[simp] theorem setCtx_shadows (s : State) (n : Nat) (c : Context) : (setCtx s n c).shadows = s.shadows := rfl
@[simp] theorem setCtx_blocks (s : State) (n : Nat) (c : Context) : (setCtx s n c).blocks = s.blocks := rfl
@[simp] theorem setCtx_holds (s : State) (n : Nat) (c : Context) : (setCtx s n c).holds = s.holds := rfl
@[simp] theorem setCtx_walks (s : State) (n : Nat) (c : Context) : (setCtx s n c).walks = s.walks := rfl
@[simp] theorem setCtx_looks (s : State) (n : Nat) (c : Context) : (setCtx s n c).looks = s.looks := rfl
@[simp] theorem setCtx_via (s : State) (n : Nat) (c : Context) : (setCtx s n c).via = s.via := rfl
@[simp] theorem setCtx_xlates (s : State) (n : Nat) (c : Context) : (setCtx s n c).xlates = s.xlates := rfl
@[simp] theorem setCtx_linked (s : State) (n : Nat) (c : Context) : (setCtx s n c).linked = s.linked := rfl
@[simp] theorem setCtx_joined (s : State) (n : Nat) (c : Context) : (setCtx s n c).joined = s.joined := rfl
@[simp] theorem setCtx_broken (s : State) (n : Nat) (c : Context) : (setCtx s n c).broken = s.broken := rfl
@[simp] theorem setCtx_served (s : State) (n : Nat) (c : Context) : (setCtx s n c).served = s.served := rfl
@[simp] theorem setCtx_table (s : State) (n : Nat) (c : Context) : (setCtx s n c).table = s.table := rfl
@[simp] theorem setCtx_tableBusy (s : State) (n : Nat) (c : Context) : (setCtx s n c).tableBusy = s.tableBusy := rfl
@[simp] theorem setCtx_tableNew (s : State) (n : Nat) (c : Context) : (setCtx s n c).tableNew = s.tableNew := rfl
@[simp] theorem setCtx_rows (s : State) (n : Nat) (c : Context) : (setCtx s n c).rows = s.rows := rfl
@[simp] theorem setCtx_counts (s : State) (n : Nat) (c : Context) : (setCtx s n c).counts = s.counts := rfl
@[simp] theorem setCtx_phys (s : State) (n : Nat) (c : Context) : (setCtx s n c).phys = s.phys := rfl
@[simp] theorem setCtx_outVaults (s : State) (n : Nat) (c : Context) : (setCtx s n c).outVaults = s.outVaults := rfl
@[simp] theorem setCtx_reports (s : State) (n : Nat) (c : Context) : (setCtx s n c).reports = s.reports := rfl
@[simp] theorem setCtx_power (s : State) (n : Nat) (c : Context) : (setCtx s n c).power = s.power := rfl
@[simp] theorem setCtx_boot (s : State) (n : Nat) (c : Context) : (setCtx s n c).boot = s.boot := rfl
@[simp] theorem setCtx_device (s : State) (n : Nat) (c : Context) : (setCtx s n c).device = s.device := rfl
@[simp] theorem setCtx_bridge (s : State) (n : Nat) (c : Context) : (setCtx s n c).bridge = s.bridge := rfl
@[simp] theorem setCtx_lostDevs (s : State) (n : Nat) (c : Context) : (setCtx s n c).lostDevs = s.lostDevs := rfl
@[simp] theorem setCtx_cutOff (s : State) (n : Nat) (c : Context) : (setCtx s n c).cutOff = s.cutOff := rfl
@[simp] theorem setCtx_ports (s : State) (n : Nat) (c : Context) : (setCtx s n c).ports = s.ports := rfl
@[simp] theorem setCtx_sent (s : State) (n : Nat) (c : Context) : (setCtx s n c).sent = s.sent := rfl
@[simp] theorem setCtx_nextMsg (s : State) (n : Nat) (c : Context) : (setCtx s n c).nextMsg = s.nextMsg := rfl
@[simp] theorem setCtx_seen (s : State) (n : Nat) (c : Context) : (setCtx s n c).seen = s.seen := rfl
@[simp] theorem setCtx_replies (s : State) (n : Nat) (c : Context) : (setCtx s n c).replies = s.replies := rfl
@[simp] theorem setCtx_routes (s : State) (n : Nat) (c : Context) : (setCtx s n c).routes = s.routes := rfl
@[simp] theorem setCtx_transit (s : State) (n : Nat) (c : Context) : (setCtx s n c).transit = s.transit := rfl
@[simp] theorem setCtx_images (s : State) (n : Nat) (c : Context) : (setCtx s n c).images = s.images := rfl
@[simp] theorem setCtx_mirrors (s : State) (n : Nat) (c : Context) : (setCtx s n c).mirrors = s.mirrors := rfl
@[simp] theorem setCtx_retiring (s : State) (n : Nat) (c : Context) : (setCtx s n c).retiring = s.retiring := rfl
@[simp] theorem setCtx_errors (s : State) (n : Nat) (c : Context) : (setCtx s n c).errors = s.errors := rfl
@[simp] theorem setCtx_faultLog (s : State) (n : Nat) (c : Context) : (setCtx s n c).faultLog = s.faultLog := rfl
@[simp] theorem setCtx_replayLog (s : State) (n : Nat) (c : Context) : (setCtx s n c).replayLog = s.replayLog := rfl
@[simp] theorem setCtx_violLog (s : State) (n : Nat) (c : Context) : (setCtx s n c).violLog = s.violLog := rfl
@[simp] theorem setCtx_trace (s : State) (n : Nat) (c : Context) : (setCtx s n c).trace = s.trace := rfl
@[simp] theorem setCtx_apertures (s : State) (n : Nat) (c : Context) : (setCtx s n c).apertures = s.apertures := rfl
@[simp] theorem setCtx_msix (s : State) (n : Nat) (c : Context) : (setCtx s n c).msix = s.msix := rfl
@[simp] theorem setCtx_msixTable (s : State) (n : Nat) (c : Context) : (setCtx s n c).msixTable = s.msixTable := rfl
@[simp] theorem setCtx_readBack (s : State) (n : Nat) (c : Context) : (setCtx s n c).readBack = s.readBack := rfl
@[simp] theorem setCtx_ns (s : State) (n : Nat) (c : Context) : (setCtx s n c).ns = s.ns := rfl
@[simp] theorem setCtx_cycle (s : State) (n : Nat) (c : Context) : (setCtx s n c).cycle = s.cycle := rfl
@[simp] theorem setCtx_interval (s : State) (n : Nat) (c : Context) : (setCtx s n c).interval = s.interval := rfl
@[simp] theorem setCtx_epochAt (s : State) (n : Nat) (c : Context) : (setCtx s n c).epochAt = s.epochAt := rfl

/-! ### Fields that `setBlock` leaves alone -/

@[simp] theorem setBlock_cores (s : State) (n : Nat) (b : Block) : (setBlock s n b).cores = s.cores := rfl
@[simp] theorem setBlock_cur (s : State) (n : Nat) (b : Block) : (setBlock s n b).cur = s.cur := rfl
@[simp] theorem setBlock_cl (s : State) (n : Nat) (b : Block) : (setBlock s n b).cl = s.cl := rfl
@[simp] theorem setBlock_word (s : State) (n : Nat) (b : Block) : (setBlock s n b).word = s.word := rfl
@[simp] theorem setBlock_view (s : State) (n : Nat) (b : Block) : (setBlock s n b).view = s.view := rfl
@[simp] theorem setBlock_groupAt (s : State) (n : Nat) (b : Block) : (setBlock s n b).groupAt = s.groupAt := rfl
@[simp] theorem setBlock_notices (s : State) (n : Nat) (b : Block) : (setBlock s n b).notices = s.notices := rfl
@[simp] theorem setBlock_agenda (s : State) (n : Nat) (b : Block) : (setBlock s n b).agenda = s.agenda := rfl
@[simp] theorem setBlock_inputs (s : State) (n : Nat) (b : Block) : (setBlock s n b).inputs = s.inputs := rfl
@[simp] theorem setBlock_free (s : State) (n : Nat) (b : Block) : (setBlock s n b).free = s.free := rfl
@[simp] theorem setBlock_mem (s : State) (n : Nat) (b : Block) : (setBlock s n b).mem = s.mem := rfl
@[simp] theorem setBlock_l2 (s : State) (n : Nat) (b : Block) : (setBlock s n b).l2 = s.l2 := rfl
@[simp] theorem setBlock_badSectors (s : State) (n : Nat) (b : Block) : (setBlock s n b).badSectors = s.badSectors := rfl
@[simp] theorem setBlock_sealed (s : State) (n : Nat) (b : Block) : (setBlock s n b).sealed = s.sealed := rfl
@[simp] theorem setBlock_sealedFrames (s : State) (n : Nat) (b : Block) : (setBlock s n b).sealedFrames = s.sealedFrames := rfl
@[simp] theorem setBlock_vault (s : State) (n : Nat) (b : Block) : (setBlock s n b).vault = s.vault := rfl
@[simp] theorem setBlock_badVault (s : State) (n : Nat) (b : Block) : (setBlock s n b).badVault = s.badVault := rfl
@[simp] theorem setBlock_vaultSeed (s : State) (n : Nat) (b : Block) : (setBlock s n b).vaultSeed = s.vaultSeed := rfl
@[simp] theorem setBlock_used (s : State) (n : Nat) (b : Block) : (setBlock s n b).used = s.used := rfl
@[simp] theorem setBlock_ctxs (s : State) (n : Nat) (b : Block) : (setBlock s n b).ctxs = s.ctxs := rfl
@[simp] theorem setBlock_runs (s : State) (n : Nat) (b : Block) : (setBlock s n b).runs = s.runs := rfl
@[simp] theorem setBlock_nextRun (s : State) (n : Nat) (b : Block) : (setBlock s n b).nextRun = s.nextRun := rfl
@[simp] theorem setBlock_groups (s : State) (n : Nat) (b : Block) : (setBlock s n b).groups = s.groups := rfl
@[simp] theorem setBlock_nextGroup (s : State) (n : Nat) (b : Block) : (setBlock s n b).nextGroup = s.nextGroup := rfl
@[simp] theorem setBlock_shadows (s : State) (n : Nat) (b : Block) : (setBlock s n b).shadows = s.shadows := rfl
@[simp] theorem setBlock_holds (s : State) (n : Nat) (b : Block) : (setBlock s n b).holds = s.holds := rfl
@[simp] theorem setBlock_walks (s : State) (n : Nat) (b : Block) : (setBlock s n b).walks = s.walks := rfl
@[simp] theorem setBlock_looks (s : State) (n : Nat) (b : Block) : (setBlock s n b).looks = s.looks := rfl
@[simp] theorem setBlock_via (s : State) (n : Nat) (b : Block) : (setBlock s n b).via = s.via := rfl
@[simp] theorem setBlock_xlates (s : State) (n : Nat) (b : Block) : (setBlock s n b).xlates = s.xlates := rfl
@[simp] theorem setBlock_linked (s : State) (n : Nat) (b : Block) : (setBlock s n b).linked = s.linked := rfl
@[simp] theorem setBlock_joined (s : State) (n : Nat) (b : Block) : (setBlock s n b).joined = s.joined := rfl
@[simp] theorem setBlock_broken (s : State) (n : Nat) (b : Block) : (setBlock s n b).broken = s.broken := rfl
@[simp] theorem setBlock_served (s : State) (n : Nat) (b : Block) : (setBlock s n b).served = s.served := rfl
@[simp] theorem setBlock_table (s : State) (n : Nat) (b : Block) : (setBlock s n b).table = s.table := rfl
@[simp] theorem setBlock_tableBusy (s : State) (n : Nat) (b : Block) : (setBlock s n b).tableBusy = s.tableBusy := rfl
@[simp] theorem setBlock_tableNew (s : State) (n : Nat) (b : Block) : (setBlock s n b).tableNew = s.tableNew := rfl
@[simp] theorem setBlock_rows (s : State) (n : Nat) (b : Block) : (setBlock s n b).rows = s.rows := rfl
@[simp] theorem setBlock_counts (s : State) (n : Nat) (b : Block) : (setBlock s n b).counts = s.counts := rfl
@[simp] theorem setBlock_phys (s : State) (n : Nat) (b : Block) : (setBlock s n b).phys = s.phys := rfl
@[simp] theorem setBlock_outVaults (s : State) (n : Nat) (b : Block) : (setBlock s n b).outVaults = s.outVaults := rfl
@[simp] theorem setBlock_reports (s : State) (n : Nat) (b : Block) : (setBlock s n b).reports = s.reports := rfl
@[simp] theorem setBlock_power (s : State) (n : Nat) (b : Block) : (setBlock s n b).power = s.power := rfl
@[simp] theorem setBlock_boot (s : State) (n : Nat) (b : Block) : (setBlock s n b).boot = s.boot := rfl
@[simp] theorem setBlock_device (s : State) (n : Nat) (b : Block) : (setBlock s n b).device = s.device := rfl
@[simp] theorem setBlock_bridge (s : State) (n : Nat) (b : Block) : (setBlock s n b).bridge = s.bridge := rfl
@[simp] theorem setBlock_lostDevs (s : State) (n : Nat) (b : Block) : (setBlock s n b).lostDevs = s.lostDevs := rfl
@[simp] theorem setBlock_cutOff (s : State) (n : Nat) (b : Block) : (setBlock s n b).cutOff = s.cutOff := rfl
@[simp] theorem setBlock_ports (s : State) (n : Nat) (b : Block) : (setBlock s n b).ports = s.ports := rfl
@[simp] theorem setBlock_sent (s : State) (n : Nat) (b : Block) : (setBlock s n b).sent = s.sent := rfl
@[simp] theorem setBlock_nextMsg (s : State) (n : Nat) (b : Block) : (setBlock s n b).nextMsg = s.nextMsg := rfl
@[simp] theorem setBlock_seen (s : State) (n : Nat) (b : Block) : (setBlock s n b).seen = s.seen := rfl
@[simp] theorem setBlock_replies (s : State) (n : Nat) (b : Block) : (setBlock s n b).replies = s.replies := rfl
@[simp] theorem setBlock_routes (s : State) (n : Nat) (b : Block) : (setBlock s n b).routes = s.routes := rfl
@[simp] theorem setBlock_transit (s : State) (n : Nat) (b : Block) : (setBlock s n b).transit = s.transit := rfl
@[simp] theorem setBlock_images (s : State) (n : Nat) (b : Block) : (setBlock s n b).images = s.images := rfl
@[simp] theorem setBlock_mirrors (s : State) (n : Nat) (b : Block) : (setBlock s n b).mirrors = s.mirrors := rfl
@[simp] theorem setBlock_retiring (s : State) (n : Nat) (b : Block) : (setBlock s n b).retiring = s.retiring := rfl
@[simp] theorem setBlock_errors (s : State) (n : Nat) (b : Block) : (setBlock s n b).errors = s.errors := rfl
@[simp] theorem setBlock_faultLog (s : State) (n : Nat) (b : Block) : (setBlock s n b).faultLog = s.faultLog := rfl
@[simp] theorem setBlock_replayLog (s : State) (n : Nat) (b : Block) : (setBlock s n b).replayLog = s.replayLog := rfl
@[simp] theorem setBlock_violLog (s : State) (n : Nat) (b : Block) : (setBlock s n b).violLog = s.violLog := rfl
@[simp] theorem setBlock_trace (s : State) (n : Nat) (b : Block) : (setBlock s n b).trace = s.trace := rfl
@[simp] theorem setBlock_apertures (s : State) (n : Nat) (b : Block) : (setBlock s n b).apertures = s.apertures := rfl
@[simp] theorem setBlock_msix (s : State) (n : Nat) (b : Block) : (setBlock s n b).msix = s.msix := rfl
@[simp] theorem setBlock_msixTable (s : State) (n : Nat) (b : Block) : (setBlock s n b).msixTable = s.msixTable := rfl
@[simp] theorem setBlock_readBack (s : State) (n : Nat) (b : Block) : (setBlock s n b).readBack = s.readBack := rfl
@[simp] theorem setBlock_ns (s : State) (n : Nat) (b : Block) : (setBlock s n b).ns = s.ns := rfl
@[simp] theorem setBlock_cycle (s : State) (n : Nat) (b : Block) : (setBlock s n b).cycle = s.cycle := rfl
@[simp] theorem setBlock_interval (s : State) (n : Nat) (b : Block) : (setBlock s n b).interval = s.interval := rfl
@[simp] theorem setBlock_epochAt (s : State) (n : Nat) (b : Block) : (setBlock s n b).epochAt = s.epochAt := rfl

/-! ### Fields that `devPut` leaves alone -/

@[simp] theorem devPut_cores (s : State) (k : Nat) (b : Byte) : (devPut s k b).cores = s.cores := rfl
@[simp] theorem devPut_cur (s : State) (k : Nat) (b : Byte) : (devPut s k b).cur = s.cur := rfl
@[simp] theorem devPut_cl (s : State) (k : Nat) (b : Byte) : (devPut s k b).cl = s.cl := rfl
@[simp] theorem devPut_word (s : State) (k : Nat) (b : Byte) : (devPut s k b).word = s.word := rfl
@[simp] theorem devPut_view (s : State) (k : Nat) (b : Byte) : (devPut s k b).view = s.view := rfl
@[simp] theorem devPut_groupAt (s : State) (k : Nat) (b : Byte) : (devPut s k b).groupAt = s.groupAt := rfl
@[simp] theorem devPut_notices (s : State) (k : Nat) (b : Byte) : (devPut s k b).notices = s.notices := rfl
@[simp] theorem devPut_agenda (s : State) (k : Nat) (b : Byte) : (devPut s k b).agenda = s.agenda := rfl
@[simp] theorem devPut_inputs (s : State) (k : Nat) (b : Byte) : (devPut s k b).inputs = s.inputs := rfl
@[simp] theorem devPut_free (s : State) (k : Nat) (b : Byte) : (devPut s k b).free = s.free := rfl
@[simp] theorem devPut_mem (s : State) (k : Nat) (b : Byte) : (devPut s k b).mem = s.mem := rfl
@[simp] theorem devPut_badSectors (s : State) (k : Nat) (b : Byte) : (devPut s k b).badSectors = s.badSectors := rfl
@[simp] theorem devPut_sealed (s : State) (k : Nat) (b : Byte) : (devPut s k b).sealed = s.sealed := rfl
@[simp] theorem devPut_sealedFrames (s : State) (k : Nat) (b : Byte) : (devPut s k b).sealedFrames = s.sealedFrames := rfl
@[simp] theorem devPut_vault (s : State) (k : Nat) (b : Byte) : (devPut s k b).vault = s.vault := rfl
@[simp] theorem devPut_badVault (s : State) (k : Nat) (b : Byte) : (devPut s k b).badVault = s.badVault := rfl
@[simp] theorem devPut_vaultSeed (s : State) (k : Nat) (b : Byte) : (devPut s k b).vaultSeed = s.vaultSeed := rfl
@[simp] theorem devPut_used (s : State) (k : Nat) (b : Byte) : (devPut s k b).used = s.used := rfl
@[simp] theorem devPut_ctxs (s : State) (k : Nat) (b : Byte) : (devPut s k b).ctxs = s.ctxs := rfl
@[simp] theorem devPut_runs (s : State) (k : Nat) (b : Byte) : (devPut s k b).runs = s.runs := rfl
@[simp] theorem devPut_nextRun (s : State) (k : Nat) (b : Byte) : (devPut s k b).nextRun = s.nextRun := rfl
@[simp] theorem devPut_groups (s : State) (k : Nat) (b : Byte) : (devPut s k b).groups = s.groups := rfl
@[simp] theorem devPut_nextGroup (s : State) (k : Nat) (b : Byte) : (devPut s k b).nextGroup = s.nextGroup := rfl
@[simp] theorem devPut_shadows (s : State) (k : Nat) (b : Byte) : (devPut s k b).shadows = s.shadows := rfl
@[simp] theorem devPut_blocks (s : State) (k : Nat) (b : Byte) : (devPut s k b).blocks = s.blocks := rfl
@[simp] theorem devPut_holds (s : State) (k : Nat) (b : Byte) : (devPut s k b).holds = s.holds := rfl
@[simp] theorem devPut_walks (s : State) (k : Nat) (b : Byte) : (devPut s k b).walks = s.walks := rfl
@[simp] theorem devPut_looks (s : State) (k : Nat) (b : Byte) : (devPut s k b).looks = s.looks := rfl
@[simp] theorem devPut_via (s : State) (k : Nat) (b : Byte) : (devPut s k b).via = s.via := rfl
@[simp] theorem devPut_linked (s : State) (k : Nat) (b : Byte) : (devPut s k b).linked = s.linked := rfl
@[simp] theorem devPut_joined (s : State) (k : Nat) (b : Byte) : (devPut s k b).joined = s.joined := rfl
@[simp] theorem devPut_broken (s : State) (k : Nat) (b : Byte) : (devPut s k b).broken = s.broken := rfl
@[simp] theorem devPut_served (s : State) (k : Nat) (b : Byte) : (devPut s k b).served = s.served := rfl
@[simp] theorem devPut_table (s : State) (k : Nat) (b : Byte) : (devPut s k b).table = s.table := rfl
@[simp] theorem devPut_tableBusy (s : State) (k : Nat) (b : Byte) : (devPut s k b).tableBusy = s.tableBusy := rfl
@[simp] theorem devPut_tableNew (s : State) (k : Nat) (b : Byte) : (devPut s k b).tableNew = s.tableNew := rfl
@[simp] theorem devPut_rows (s : State) (k : Nat) (b : Byte) : (devPut s k b).rows = s.rows := rfl
@[simp] theorem devPut_counts (s : State) (k : Nat) (b : Byte) : (devPut s k b).counts = s.counts := rfl
@[simp] theorem devPut_phys (s : State) (k : Nat) (b : Byte) : (devPut s k b).phys = s.phys := rfl
@[simp] theorem devPut_outVaults (s : State) (k : Nat) (b : Byte) : (devPut s k b).outVaults = s.outVaults := rfl
@[simp] theorem devPut_reports (s : State) (k : Nat) (b : Byte) : (devPut s k b).reports = s.reports := rfl
@[simp] theorem devPut_power (s : State) (k : Nat) (b : Byte) : (devPut s k b).power = s.power := rfl
@[simp] theorem devPut_boot (s : State) (k : Nat) (b : Byte) : (devPut s k b).boot = s.boot := rfl
@[simp] theorem devPut_device (s : State) (k : Nat) (b : Byte) : (devPut s k b).device = s.device := rfl
@[simp] theorem devPut_bridge (s : State) (k : Nat) (b : Byte) : (devPut s k b).bridge = s.bridge := rfl
@[simp] theorem devPut_lostDevs (s : State) (k : Nat) (b : Byte) : (devPut s k b).lostDevs = s.lostDevs := rfl
@[simp] theorem devPut_cutOff (s : State) (k : Nat) (b : Byte) : (devPut s k b).cutOff = s.cutOff := rfl
@[simp] theorem devPut_ports (s : State) (k : Nat) (b : Byte) : (devPut s k b).ports = s.ports := rfl
@[simp] theorem devPut_sent (s : State) (k : Nat) (b : Byte) : (devPut s k b).sent = s.sent := rfl
@[simp] theorem devPut_nextMsg (s : State) (k : Nat) (b : Byte) : (devPut s k b).nextMsg = s.nextMsg := rfl
@[simp] theorem devPut_seen (s : State) (k : Nat) (b : Byte) : (devPut s k b).seen = s.seen := rfl
@[simp] theorem devPut_replies (s : State) (k : Nat) (b : Byte) : (devPut s k b).replies = s.replies := rfl
@[simp] theorem devPut_routes (s : State) (k : Nat) (b : Byte) : (devPut s k b).routes = s.routes := rfl
@[simp] theorem devPut_transit (s : State) (k : Nat) (b : Byte) : (devPut s k b).transit = s.transit := rfl
@[simp] theorem devPut_images (s : State) (k : Nat) (b : Byte) : (devPut s k b).images = s.images := rfl
@[simp] theorem devPut_mirrors (s : State) (k : Nat) (b : Byte) : (devPut s k b).mirrors = s.mirrors := rfl
@[simp] theorem devPut_retiring (s : State) (k : Nat) (b : Byte) : (devPut s k b).retiring = s.retiring := rfl
@[simp] theorem devPut_errors (s : State) (k : Nat) (b : Byte) : (devPut s k b).errors = s.errors := rfl
@[simp] theorem devPut_faultLog (s : State) (k : Nat) (b : Byte) : (devPut s k b).faultLog = s.faultLog := rfl
@[simp] theorem devPut_replayLog (s : State) (k : Nat) (b : Byte) : (devPut s k b).replayLog = s.replayLog := rfl
@[simp] theorem devPut_violLog (s : State) (k : Nat) (b : Byte) : (devPut s k b).violLog = s.violLog := rfl
@[simp] theorem devPut_trace (s : State) (k : Nat) (b : Byte) : (devPut s k b).trace = s.trace := rfl
@[simp] theorem devPut_apertures (s : State) (k : Nat) (b : Byte) : (devPut s k b).apertures = s.apertures := rfl
@[simp] theorem devPut_msix (s : State) (k : Nat) (b : Byte) : (devPut s k b).msix = s.msix := rfl
@[simp] theorem devPut_msixTable (s : State) (k : Nat) (b : Byte) : (devPut s k b).msixTable = s.msixTable := rfl
@[simp] theorem devPut_readBack (s : State) (k : Nat) (b : Byte) : (devPut s k b).readBack = s.readBack := rfl
@[simp] theorem devPut_ns (s : State) (k : Nat) (b : Byte) : (devPut s k b).ns = s.ns := rfl
@[simp] theorem devPut_cycle (s : State) (k : Nat) (b : Byte) : (devPut s k b).cycle = s.cycle := rfl
@[simp] theorem devPut_interval (s : State) (k : Nat) (b : Byte) : (devPut s k b).interval = s.interval := rfl
@[simp] theorem devPut_epochAt (s : State) (k : Nat) (b : Byte) : (devPut s k b).epochAt = s.epochAt := rfl

/-! ### Fields that `putClu` leaves alone -/

@[simp] theorem putClu_busy (c : Core) (i : Nat) (k : Clu) : (putClu c i k).busy = c.busy := rfl
@[simp] theorem putClu_task (c : Core) (i : Nat) (k : Clu) : (putClu c i k).task = c.task := rfl
@[simp] theorem putClu_stores (c : Core) (i : Nat) (k : Clu) : (putClu c i k).stores = c.stores := rfl
@[simp] theorem putClu_kctl (c : Core) (i : Nat) (k : Clu) : (putClu c i k).kctl = c.kctl := rfl
@[simp] theorem putClu_trctl (c : Core) (i : Nat) (k : Clu) : (putClu c i k).trctl = c.trctl := rfl
@[simp] theorem putClu_q (c : Core) (i : Nat) (k : Clu) : (putClu c i k).q = c.q := rfl
@[simp] theorem putClu_h (c : Core) (i : Nat) (k : Clu) : (putClu c i k).h = c.h := rfl
@[simp] theorem putClu_v (c : Core) (i : Nat) (k : Clu) : (putClu c i k).v = c.v := rfl
@[simp] theorem putClu_p (c : Core) (i : Nat) (k : Clu) : (putClu c i k).p = c.p := rfl
@[simp] theorem putClu_rotb (c : Core) (i : Nat) (k : Clu) : (putClu c i k).rotb = c.rotb := rfl
@[simp] theorem putClu_t (c : Core) (i : Nat) (k : Clu) : (putClu c i k).t = c.t := rfl
@[simp] theorem putClu_c (c : Core) (i : Nat) (k : Clu) : (putClu c i k).c = c.c := rfl
@[simp] theorem putClu_w (c : Core) (i : Nat) (k : Clu) : (putClu c i k).w = c.w := rfl
@[simp] theorem putClu_fmt (c : Core) (i : Nat) (k : Clu) : (putClu c i k).fmt = c.fmt := rfl
@[simp] theorem putClu_mma (c : Core) (i : Nat) (k : Clu) : (putClu c i k).mma = c.mma := rfl
@[simp] theorem putClu_issued (c : Core) (i : Nat) (k : Clu) : (putClu c i k).issued = c.issued := rfl
@[simp] theorem putClu_winTag (c : Core) (i : Nat) (k : Clu) : (putClu c i k).winTag = c.winTag := rfl
@[simp] theorem putClu_late (c : Core) (i : Nat) (k : Clu) : (putClu c i k).late = c.late := rfl
@[simp] theorem putClu_win (c : Core) (i : Nat) (k : Clu) : (putClu c i k).win = c.win := rfl
@[simp] theorem putClu_winOver (c : Core) (i : Nat) (k : Clu) : (putClu c i k).winOver = c.winOver := rfl
@[simp] theorem putClu_winSave (c : Core) (i : Nat) (k : Clu) : (putClu c i k).winSave = c.winSave := rfl
@[simp] theorem putClu_badAcc (c : Core) (i : Nat) (k : Clu) : (putClu c i k).badAcc = c.badAcc := rfl
@[simp] theorem putClu_d (c : Core) (i : Nat) (k : Clu) : (putClu c i k).d = c.d := rfl
@[simp] theorem putClu_cmds (c : Core) (i : Nat) (k : Clu) : (putClu c i k).cmds = c.cmds := rfl
@[simp] theorem putClu_nextCmd (c : Core) (i : Nat) (k : Clu) : (putClu c i k).nextCmd = c.nextCmd := rfl
@[simp] theorem putClu_nextOrder (c : Core) (i : Nat) (k : Clu) : (putClu c i k).nextOrder = c.nextOrder := rfl
@[simp] theorem putClu_level (c : Core) (i : Nat) (k : Clu) : (putClu c i k).level = c.level := rfl
@[simp] theorem putClu_frames (c : Core) (i : Nat) (k : Clu) : (putClu c i k).frames = c.frames := rfl
@[simp] theorem putClu_treq (c : Core) (i : Nat) (k : Clu) : (putClu c i k).treq = c.treq := rfl
@[simp] theorem putClu_tacked (c : Core) (i : Nat) (k : Clu) : (putClu c i k).tacked = c.tacked := rfl
@[simp] theorem putClu_tackOk (c : Core) (i : Nat) (k : Clu) : (putClu c i k).tackOk = c.tackOk := rfl
@[simp] theorem putClu_l1 (c : Core) (i : Nat) (k : Clu) : (putClu c i k).l1 = c.l1 := rfl
@[simp] theorem putClu_look (c : Core) (i : Nat) (k : Clu) : (putClu c i k).look = c.look := rfl
@[simp] theorem putClu_walkBad (c : Core) (i : Nat) (k : Clu) : (putClu c i k).walkBad = c.walkBad := rfl
@[simp] theorem putClu_lentOk (c : Core) (i : Nat) (k : Clu) : (putClu c i k).lentOk = c.lentOk := rfl
@[simp] theorem putClu_qdead (c : Core) (i : Nat) (k : Clu) : (putClu c i k).qdead = c.qdead := rfl
@[simp] theorem putClu_budget (c : Core) (i : Nat) (k : Clu) : (putClu c i k).budget = c.budget := rfl
@[simp] theorem putClu_energy (c : Core) (i : Nat) (k : Clu) : (putClu c i k).energy = c.energy := rfl
@[simp] theorem putClu_soft (c : Core) (i : Nat) (k : Clu) : (putClu c i k).soft = c.soft := rfl
@[simp] theorem putClu_sleep (c : Core) (i : Nat) (k : Clu) : (putClu c i k).sleep = c.sleep := rfl
@[simp] theorem putClu_sysc (c : Core) (i : Nat) (k : Clu) : (putClu c i k).sysc = c.sysc := rfl
@[simp] theorem putClu_syncTime (c : Core) (i : Nat) (k : Clu) : (putClu c i k).syncTime = c.syncTime := rfl
@[simp] theorem putClu_traced (c : Core) (i : Nat) (k : Clu) : (putClu c i k).traced = c.traced := rfl
@[simp] theorem putClu_lost (c : Core) (i : Nat) (k : Clu) : (putClu c i k).lost = c.lost := rfl
@[simp] theorem putClu_lostTime (c : Core) (i : Nat) (k : Clu) : (putClu c i k).lostTime = c.lostTime := rfl
@[simp] theorem putClu_sampleAt (c : Core) (i : Nat) (k : Clu) : (putClu c i k).sampleAt = c.sampleAt := rfl

end Sys2Proof.Machine
end

