-- ==== Sys2Proof/Laws/Memory.lean ====
section
/-! SUPPORT. Laws of the byte memory: reads after writes, and that every memory operation keeps the canonical form. -/

namespace Sys2Proof.Machine

/-! ### The canonical form -/

theorem memWfFrom_mono {m : List Host.Cell} {a b : Nat} (h : memWfFrom b m = true) (hab : a ≤ b) : memWfFrom a m = true := by
  cases m with
  | nil => rfl
  | cons p r =>
    obtain ⟨k, v⟩ := p
    simp only [memWfFrom, Bool.and_eq_true, decide_eq_true_eq] at h ⊢
    exact ⟨⟨by omega, h.1.2⟩, h.2⟩

theorem memWfFrom_filter {m : List Host.Cell} {a : Nat} (p : Host.Cell → Bool) (h : memWfFrom a m = true) :
    memWfFrom a (m.filter p) = true := by
  induction m generalizing a with
  | nil => rfl
  | cons x r ih =>
    obtain ⟨k, v⟩ := x
    simp only [memWfFrom, Bool.and_eq_true, decide_eq_true_eq] at h
    simp only [List.filter]
    split
    · simp only [memWfFrom, Bool.and_eq_true, decide_eq_true_eq]
      exact ⟨h.1, ih h.2⟩
    · exact memWfFrom_mono (ih h.2) (by omega)

theorem memWfFrom_mdel {m : List Host.Cell} {a : Nat} (n : Nat) (h : memWfFrom a m = true) : memWfFrom a (mdel m n) = true := by
  induction m generalizing a with
  | nil => rfl
  | cons x r ih =>
    obtain ⟨k, v⟩ := x
    simp only [mdel]
    split
    · exact h
    · simp only [memWfFrom, Bool.and_eq_true, decide_eq_true_eq] at h
      split
      · exact memWfFrom_mono h.2 (by omega)
      · simp only [memWfFrom, Bool.and_eq_true, decide_eq_true_eq]
        exact ⟨h.1, ih h.2⟩

theorem memWfFrom_mins {m : List Host.Cell} {a n : Nat} {x : Byte} (hx : x ≠ 0) (hn : a ≤ n) (h : memWfFrom a m = true) :
    memWfFrom a (mins m n x) = true := by
  induction m generalizing a with
  | nil => simp only [mins, memWfFrom, Bool.and_eq_true, decide_eq_true_eq, bne_iff_ne]; exact ⟨⟨hn, hx⟩, trivial⟩
  | cons y r ih =>
    obtain ⟨k, v⟩ := y
    simp only [memWfFrom, Bool.and_eq_true, decide_eq_true_eq, bne_iff_ne] at h
    simp only [mins]
    split
    · simp only [memWfFrom, Bool.and_eq_true, decide_eq_true_eq, bne_iff_ne]
      exact ⟨⟨hn, hx⟩, ⟨by omega, h.1.2⟩, h.2⟩
    · split
      · subst_vars
        simp only [memWfFrom, Bool.and_eq_true, decide_eq_true_eq, bne_iff_ne]
        exact ⟨⟨h.1.1, hx⟩, h.2⟩
      · simp only [memWfFrom, Bool.and_eq_true, decide_eq_true_eq, bne_iff_ne]
        exact ⟨h.1, ih (by omega) h.2⟩

theorem memWf_mput {m : List Host.Cell} (n : Nat) (x : Byte) (h : memWf m = true) : memWf (mput m n x) = true := by
  simp only [memWf, mput] at h ⊢
  split
  · exact memWfFrom_mdel n h
  · exact memWfFrom_mins ‹_› (Nat.zero_le n) h

theorem memWf_filter {m : List Host.Cell} (p : Host.Cell → Bool) (h : memWf m = true) : memWf (m.filter p) = true :=
  memWfFrom_filter p h

theorem memWf_foldl_mput (l : List (Nat × Byte)) {m : List Host.Cell} (h : memWf m = true) :
    memWf (l.foldl (fun m x => mput m x.1 x.2) m) = true := by
  induction l generalizing m with
  | nil => exact h
  | cons x r ih => exact ih (memWf_mput x.1 x.2 h)

/-! ### Reads after writes -/

theorem mget_below {m : List Host.Cell} {a n : Nat} (h : memWfFrom a m = true) (hn : n < a) : mget m n = 0 := by
  induction m generalizing a with
  | nil => rfl
  | cons x r ih =>
    obtain ⟨k, v⟩ := x
    simp only [memWfFrom, Bool.and_eq_true, decide_eq_true_eq] at h
    have : ¬ k = n := by omega
    simp [mget, this, ih h.2 (by omega)]

theorem mget_mins_same (m : List Host.Cell) (n : Nat) (x : Byte) : mget (mins m n x) n = x := by
  induction m with
  | nil => simp [mins, mget]
  | cons y r ih =>
    obtain ⟨k, v⟩ := y
    simp only [mins]
    split
    · simp [mget]
    · split
      · simp [mget]
      · have : ¬ k = n := by omega
        simp [mget, this, ih]

theorem mget_mins_ne (m : List Host.Cell) (n j : Nat) (x : Byte) (h : j ≠ n) : mget (mins m n x) j = mget m j := by
  induction m with
  | nil => simp [mins, mget, Ne.symm h]
  | cons y r ih =>
    obtain ⟨k, v⟩ := y
    simp only [mins]
    split
    · simp [mget, Ne.symm h]
    · split
      · rename_i _ hk
        subst hk
        simp [mget, Ne.symm h]
      · simp [mget, ih]

theorem mget_mdel_same {m : List Host.Cell} {a : Nat} (n : Nat) (h : memWfFrom a m = true) : mget (mdel m n) n = 0 := by
  induction m generalizing a with
  | nil => rfl
  | cons y r ih =>
    obtain ⟨k, v⟩ := y
    have h' := h
    simp only [memWfFrom, Bool.and_eq_true, decide_eq_true_eq] at h
    simp only [mdel]
    split
    · exact mget_below (a := k) (by simp only [memWfFrom, Bool.and_eq_true, decide_eq_true_eq]; exact ⟨⟨Nat.le_refl k, h.1.2⟩, h.2⟩) ‹_›
    · split
      · subst_vars; exact mget_below h.2 (by omega)
      · have : ¬ k = n := by omega
        simp [mget, this, ih h.2]

theorem mget_mdel_ne (m : List Host.Cell) (n j : Nat) (h : j ≠ n) : mget (mdel m n) j = mget m j := by
  induction m with
  | nil => rfl
  | cons y r ih =>
    obtain ⟨k, v⟩ := y
    simp only [mdel]
    split
    · rfl
    · split
      · subst_vars; simp [mget, Ne.symm h]
      · simp [mget, ih]

/-- A byte reads as it was written. -/
theorem mget_mput_same {m : List Host.Cell} (n : Nat) (x : Byte) (h : memWf m = true) : mget (mput m n x) n = x := by
  simp only [mput]
  split
  · subst_vars; exact mget_mdel_same n h
  · exact mget_mins_same m n x

/-- Every other byte reads as before. -/
theorem mget_mput_ne (m : List Host.Cell) (n j : Nat) (x : Byte) (h : j ≠ n) : mget (mput m n x) j = mget m j := by
  simp only [mput]
  split
  · exact mget_mdel_ne m n j h
  · exact mget_mins_ne m n j x h

/-! ### Operations on the machine's memory -/

/-- The backing memory keeps its form in a write-back of the L2. -/
theorem memWf_l2Clean (s : State) (lo n : Nat) (h : memWf s.mem = true) : memWf (l2Clean s lo n).mem = true :=
  memWf_foldl_mput _ h

@[simp] theorem l2Drop_mem (s : State) (lo n : Nat) : (l2Drop s lo n).mem = s.mem := rfl

/-- The backing memory keeps its form when a frame is freed. -/
theorem memWf_freeFrame (s : State) (tier f : Nat) (h : memWf s.mem = true) : memWf (freeFrame s tier f).mem = true := by
  simp only [freeFrame]
  repeat' split
  all_goals first | exact h | exact memWf_filter _ h

/-- A byte of the device scope reads as it was written. -/
theorem devByte_devPut_same (s : State) (k : Nat) (b : Byte) (h : k < windowKey) : devByte (devPut s k b) k = b := by
  have : ¬ windowKey ≤ k := by omega
  simp [devByte, devPut, this]

/-- A write at device scope leaves every other byte alone. -/
theorem devByte_devPut_ne (s : State) (k j : Nat) (b : Byte) (h : j ≠ k) : devByte (devPut s k b) j = devByte s j := by
  simp only [devByte, devPut, fhas_fput_ne _ _ _ _ h, fget_fput_ne _ _ _ _ _ h]
  split
  · rfl
  · rfl

@[simp] theorem devPuts_mem (l : List Byte) (s : State) (k : Nat) : (devPuts s k l).mem = s.mem := by
  induction l generalizing s k with
  | nil => rfl
  | cons b r ih => simp [devPuts, ih]

@[simp] theorem strongPuts_mem (l : List Byte) (s : State) (k : Nat) : (strongPuts s k l).mem = s.mem := by
  induction l generalizing s k with
  | nil => rfl
  | cons b r ih => simp [strongPuts, ih, strongPut, allL1]

end Sys2Proof.Machine
end

