-- ==== Sys2Proof/Laws/Access.lean ====
section
/-! SUPPORT. Reading memory, said once: a word's bytes where the core's L1 holds nothing, a walk of a context's table, and
what the device reads of a context's page. -/

namespace Sys2Proof.Machine

/-- A byte that a core reads of a page it can translate, where its L1 holds nothing: what the L2 or memory lists. -/
theorem readByte_plain {s : State} {c : Core} {l : BitVec 64} {ea : Nat} (hc : s.cores = [(s.cur, c)]) (h1 : c.l1 = [])
    (hl : lookLeaf c (ea / 65536) = some l) (hF : leafF l = false) (hS : s.sealed = [] ∧ s.sealedFrames = []) :
    readByte true false ea s = (devByte s (frameKey (leafTier l) (leafPfn l) (ea % 65536)), s) := by
  have hcore : core s = c := by simp [core, coreAt, hc, fget]
  have hset : ∀ d : Core, d = c → setCoreAt s s.cur d = s := by
    intro d hd; subst hd; simp [setCoreAt, hc, fput]; rw [← hc]
  have hfl : ∀ k, flushSector s s.cur k = s := by
    intro k
    have hco : coreAt s s.cur = c := hcore
    have hw : writeUnheld (fun x => x.key == k / 64) s.cur s = s := by
      simp only [writeUnheld, hco, h1, List.filter_nil, List.foldl_nil]
      exact hset _ (by simp [lmap]; cases c; simp_all)
    rw [flushSector, hw]
    simp only [dropClean, hco, h1, List.filter_nil]
    exact hset _ (by simp [lmap]; cases c; simp_all)
  have hown : ∀ km k, ownByte s.cur s km k = devByte s k := by
    intro km k
    have hco : coreAt s s.cur = c := hcore
    simp [ownByte, hco, h1, sectorOf, plainByte, otherSeal, sealOf, hS.1, hS.2, fhas]
  simp [readByte, hcore, hl, readKey, hF, hfl, hown]

theorem readBytes_plain {s : State} {c : Core} {l : BitVec 64} (hc : s.cores = [(s.cur, c)]) (h1 : c.l1 = []) (hF : leafF l = false)
    (hl : lookLeaf c 0 = some l) (hS : s.sealed = [] ∧ s.sealedFrames = []) : ∀ n ea, ea + n ≤ 65536 →
    readBytes true false n ea s = (devBytes s (frameKey (leafTier l) (leafPfn l) ea) n, s)
  | 0, _, _ => rfl
  | n + 1, ea, h => by
    have h0 : ea / 65536 = 0 := by omega
    have hm : ea % 65536 = ea := by omega
    rw [readBytes, readByte_plain hc h1 (by rw [h0]; exact hl) hF hS, hm]
    simp only [readBytes_plain hc h1 hF hl hS n (ea + 1) (by omega), devBytes, frameKey, Nat.add_assoc]

/-- What the words of an object read: a number of `n` bytes, and the state as it was. -/
theorem objNat_plain {s : State} {c : Core} {l : BitVec 64} (n ea : Nat) (hc : s.cores = [(s.cur, c)]) (h1 : c.l1 = []) (hF : leafF l = false)
    (hl : lookLeaf c 0 = some l) (hS : s.sealed = [] ∧ s.sealedFrames = []) (h : ea + n ≤ 65536) :
    objNat false n ea s = (devNat s (frameKey (leafTier l) (leafPfn l) ea) n, s) := by
  rw [objNat, readBytes_plain hc h1 hF hl hS n ea h]; rfl

/-! ### Walks -/

theorem fget_of_not_fhas {α : Type} (d : α) (k : Nat) : ∀ l : List (Nat × α), fhas l k = false → fget d l k = d
  | [], _ => rfl
  | (a, x) :: l, h => by
    by_cases he : a = k
    · simp [fhas, he] at h
    · simp only [fhas, he, if_false] at h; simp [fget, he, fget_of_not_fhas d k l h]

theorem walkTable_of {s : State} {r p e0 e1 e2 a0 a1 a2 : Nat} (h0 : r * 65536 + 8 * (p / 4194304) = a0) (d0 : devNat s a0 8 = e0)
    (p0 : ptrBad 0 e0 = false) (h1 : fld e0 51 12 * 4096 + 8 * (p / 512 % 8192) = a1) (d1 : devNat s a1 8 = e1) (b1 : bitAt e1 3 = false)
    (p1 : ptrBad 1 e1 = false) (h2 : fld e1 51 12 * 4096 + 8 * (p % 512) = a2) (d2 : devNat s a2 8 = e2) (c2 : leafCause 2 e2 = 0) :
    walkTable s r p = .leaf (BitVec.ofNat 64 e2) a2 2 := by
  simp [walkTable, h0, d0, p0, h1, d1, b1, p1, h2, d2, c2]

theorem walkKey_of {s : State} {ctx page p v : Nat} {l : BitVec 64} (h : walkTable s (ctxAt s ctx).ptroot page = .leaf l p v)
    (ht : leafTier l = 0) (hk : fhas (ctxAt s ctx).keys (leafKey l) = true) : walkKey s ctx page = .leaf l p v := by
  simp [walkKey, h, hk, lenderLost, ht]

/-- A frame of the device's own HBM4E is lent by nobody (R370). -/
theorem lenderLost_own {s : State} {l : BitVec 64} (h : leafTier l = 0) : lenderLost s l = false := by simp [lenderLost, h]

/-- A range in page 0 of a context whose leaf names a frame with this key is read from there. -/
theorem devRead_of {s : State} {ctx p v k : Nat} {l : BitVec 64} (hk : walkKey s ctx 0 = .leaf l p v) (hl : lenderLost s l = false)
    (hF : leafF l = false) (hK : ∀ o, frameKey (leafTier l) (leafPfn l) o = k + o)
    (hs : s.badSectors = []) (hS : s.sealed = [] ∧ s.sealedFrames = []) (hvia : s.via = none) (va n : Nat) (hn : 0 < n) (hv : va + n ≤ 65536) : devRead s ctx va n = .ok (devNat s (k + va) n) := by
  have hf : findLeaf s ctx 0 = .leaf l p v := by simp [findLeaf, hvia, hk]
  have page : ∀ i, i < n → (va + i) / 65536 = 0 := fun i hi => by omega
  have pages : pagesOf va n = [(0, va)] := by
    have z : (if n = 0 then 0 else (va + n - 1) / 65536 - va / 65536 + 1) = 1 := by rw [if_neg (by omega)]; omega
    simp only [pagesOf, z, List.range_one, List.map_cons, List.map_nil]
    have : va / 65536 = 0 := by omega
    simp [this]
  have all : ∀ l : List Nat, firstBad (l.map fun _ => Chk.ok) = .ok := by
    intro l; induction l with
    | nil => rfl
    | cons _ _ ih => simpa [firstBad] using ih
  have chk : chkSpace s ctx [] va n false = .ok := by
    have : ¬2 ^ 48 ≤ va := by omega
    simp only [chkSpace, chkMapped, pages, List.map_cons, List.map_nil, hf, hl, this, if_false, firstBad, Bool.false_and, Bool.and_false, Bool.false_eq_true, hs,
      List.contains_nil]
    refine (congrArg firstBad (List.map_congr_left fun i hi => ?_)).trans (all (List.range n))
    simp only [page i (by simpa using hi), hf]
  have bytes : ∀ n va, va + n ≤ 65536 → spaceBytes s ctx [] va n = devBytes s (k + va) n := by
    intro n; induction n with
    | zero => intros; rfl
    | succ n ih =>
      intro va hv
      have z : va / 65536 = 0 := by omega
      have m : va % 65536 = va := by omega
      rw [spaceBytes, devBytes, ih (va + 1) (by omega), spaceByte, z, hf]
      simp [readKey, hF, m, hK, Nat.add_assoc, plainByte, otherSeal, sealOf, hS.1, hS.2, fhas]
  rw [devRead, chk]
  simp only [spaceNat, bytes n va hv, devNat]

/-- A read that has its value goes on with it. -/
theorem ok_bind {α β : Type} (a : α) (f : α → Except LErr β) : (Except.ok a >>= f) = f a := rfl

end Sys2Proof.Machine
end

