-- ==== Sys2Proof/Laws/Engine.lean ====
section
/-! SUPPORT. What the turn of an engine does: the next command of a block, and the rows of the bench and die engines
(spec/06_isa_access.md R162-R165, spec/12_queue.md R325, R332). -/

namespace Sys2Proof.Machine

/-- With no operating-point step under way and no UPD in the update engine, a block's next command is the first that its engine has not
accepted. -/
theorem nextFor_noStep (s : State) (n : Nat) (p : QCmd → Bool) (h : s.power.pend = false) (hu : firstUpd (blockAt s n) = none) :
    nextFor s n p = (nextCmd? (blockAt s n)).filter p := by
  have hh : ∀ c, stepHolds s n c = false := by intro c; cases c <;> simp [stepHolds, h]
  have hb : ∀ c, behindUpd s n c = false := by intro c; simp [behindUpd, hu]
  simp [nextFor, nextCmd?, hh, hb]

/-- Without a lender to ask, a command of a context acts at once. -/
theorem lentFirst_none {n ctx : Nat} {go : State → State} {s : State} (h : lendersOf s ctx = []) : lentFirst n ctx go s = go s := by
  simp [lentFirst, h]

/-- A block takes its next command, when it is of the right kind, no walk of its context runs on the die and no lender has to be asked. -/
theorem takeNext_free {p : QCmd → Bool} {n : Nat} {f : QCmd → State → State} {s : State} {c : QCmd} (h : s.power.pend = false)
    (hu : firstUpd (blockAt s n) = none) (hc : nextCmd? (blockAt s n) = some c) (hp : p c = true) (hw : walkAhead s n c = false)
    (hl : lendersOf s (cmdSpace s n c) = []) : takeNext p n f s = actAs n (f c) s := by
  simp [takeNext, nextFor_noStep s n p h hu, hc, Option.filter, hp, hw, h, lentFirst_none hl]

/-- A command that a walk of its context holds stays in the queue. -/
theorem takeNext_held {p : QCmd → Bool} {n : Nat} {f : QCmd → State → State} {s : State} {c : QCmd} (h : s.power.pend = false)
    (hu : firstUpd (blockAt s n) = none) (hc : nextCmd? (blockAt s n) = some c) (hw : walkAhead s n c = true) : takeNext p n f s = s := by
  simp only [takeNext, nextFor_noStep s n p h hu, hc]
  cases hp : p c <;> simp [Option.filter, hp, hw]

/-- A row for packets takes the one at the head. -/
theorem rawTurn_free {op : Nat} {s : State} {q : Packet} (h : s.power.pend = false) (hu : firstUpd (blockAt s s.cur) = none)
    (hc : nextCmd? (blockAt s s.cur) = some (.raw q)) (ho : fld q.w2.toNat 18 16 = op) (hw : walkAhead s s.cur (.raw q) = false)
    (hl : lendersOf s (cmdSpace s s.cur (.raw q)) = []) :
    rawTurn op s = actAs s.cur (fun g => runCopy (dropCmd g s.cur (.raw q)) s.cur (acceptRaw g s.cur q) op) s := by
  rw [rawTurn, acceptNext, takeNext_free h hu hc (by simp [ho]) hw hl]
  simp [actAs, acceptCmd, ho]

/-- A die engine takes a packet by `f`. -/
theorem dieTurn_raw {p : QCmd → Bool} {f : State → Nat → EngCmd → State} {s : State} {q : Packet} (h : s.power.pend = false)
    (hu : firstUpd (blockAt s s.cur) = none) (hc : nextCmd? (blockAt s s.cur) = some (.raw q)) (hp : p (.raw q) = true)
    (hw : walkAhead s s.cur (.raw q) = false) (hl : lendersOf s (cmdSpace s s.cur (.raw q)) = []) :
    dieTurn p f s = actAs s.cur (fun g => f (dropCmd g s.cur (.raw q)) s.cur (acceptDie g s.cur q)) s := by
  rw [dieTurn, takeNext_free h hu hc hp hw hl]
  rfl

/-- A die engine takes a word's command by `f`. -/
theorem dieTurn_cmd {p : QCmd → Bool} {f : State → Nat → EngCmd → State} {s : State} {e : EngCmd} (h : s.power.pend = false)
    (hu : firstUpd (blockAt s s.cur) = none) (hc : nextCmd? (blockAt s s.cur) = some (.cmd e)) (hp : p (.cmd e) = true)
    (hw : walkAhead s s.cur (.cmd e) = false) (hl : lendersOf s (cmdSpace s s.cur (.cmd e)) = []) :
    dieTurn p f s = actAs s.cur (fun g => f (dropCmd g s.cur (.cmd e)) s.cur e) s := by
  rw [dieTurn, takeNext_free h hu hc hp hw hl]
  rfl

end Sys2Proof.Machine
end

