-- ==== Sys2Proof/Laws/Issue.lean ====
section
/-! SUPPORT. What issuing and retiring a word do, said once: the landing of results, the frame of a word, and the outcome
of `issue` in a state that is clear for the word. -/

namespace Sys2Proof.Machine

/-! ### `issue` -/

/-- In a clear state a word does its work, with its tokens marked as read, whatever it would do with a damaged register. -/
theorem issueSoft_of_clear {u : Use} {s : State} (h : Clear u s) (struck body : State → State) :
    issueSoft struck u false body s = body (markRead u s) := by
  obtain ⟨h1, h2, h3, h4⟩ := h
  have e2 : (if latchk (coreSeen s) then latwinAt (core s) s.cl u else none) = none := by
    split
    · exact h2 ‹_›
    · rfl
  have e3 : (if errmode (coreSeen s) then none else errToken (core s) s.cl u) = none := by
    split
    · rfl
    · exact h3 (by simp_all)
  simp only [clu] at h1
  simp only [issueSoft, h1, e2, e3, h4, Bool.false_eq_true, if_false]

/-- In a clear state a word does its work, with its tokens marked as read. -/
theorem issue_of_clear {u : Use} {s : State} (h : Clear u s) (body : State → State) :
    issue u false body s = body (markRead u s) := issueSoft_of_clear h _ body

/-- In a clear state a word whose faults come before MEMERR does its work. -/
theorem issueLate_of_clear {u : Use} {s : State} (h : Clear u s) (body : Bool → State → State) :
    issueLate u body s = body false (markRead u s) := issueSoft_of_clear h _ (body false)

@[simp] theorem clu_markRead (u : Use) (s : State) : clu (markRead u s) = clu s := by
  simp [markRead, clu, cluAt, onCore, core, setCore, setCoreAt, coreAt]

theorem core_markRead (u : Use) (s : State) : core (markRead u s) = { core s with cmds := (core (markRead u s)).cmds } := by
  simp only [markRead, core_onCore]

/-- Reading tokens changes nothing outside the core. -/
theorem markRead_frame (u : Use) (s : State) :
    markRead u s = { s with cores := (markRead u s).cores } ∧ ∀ n, n ≠ s.cur → coreAt (markRead u s) n = coreAt s n :=
  ⟨rfl, fun n hn => coreAt_setCoreAt_ne s s.cur n _ hn⟩

@[simp] theorem markRead_cl (u : Use) (s : State) : (markRead u s).cl = s.cl := rfl
@[simp] theorem markRead_cur (u : Use) (s : State) : (markRead u s).cur = s.cur := rfl
@[simp] theorem markRead_word (u : Use) (s : State) : (markRead u s).word = s.word := rfl
@[simp] theorem markRead_view (u : Use) (s : State) : (markRead u s).view = s.view := rfl

/-! ### Landing -/

/-- A result for another register of the same kind. -/
def elsewhere (kd : RegKind) (r : Nat) (l : Land) : Prop := (l.kind == kd && l.reg == r) = false

theorem commitLand_frame (cl : Nat) (c : Core) (l : Land) :
    commitLand cl c l = { c with clu := (commitLand cl c l).clu, v := (commitLand cl c l).v, p := (commitLand cl c l).p,
                                 soft := (commitLand cl c l).soft }
      ∧ (∀ i, i ≠ cl → cluAt (commitLand cl c l) i = cluAt c i)
      ∧ cluAt (commitLand cl c l) cl = { cluAt c cl with s := (cluAt (commitLand cl c l) cl).s, a := (cluAt (commitLand cl c l) cl).a,
                                                         tokHeld := (cluAt (commitLand cl c l) cl).tokHeld } := by
  unfold commitLand
  cases h : l.kind
  · refine ⟨rfl, fun i hi => ?_, ?_⟩
    · simp [putClu, cluAt, fget_fput_ne _ _ _ _ _ hi]
    · simp [putClu, cluAt]
  · refine ⟨rfl, fun i hi => ?_, ?_⟩
    · simp [putClu, cluAt, fget_fput_ne _ _ _ _ _ hi]
    · simp [putClu, cluAt]
  · exact ⟨rfl, fun i _ => rfl, rfl⟩
  · dsimp only
    split
    · exact ⟨rfl, fun i _ => rfl, rfl⟩
    · exact ⟨rfl, fun i _ => rfl, rfl⟩

theorem commitLand_s (cl : Nat) (c : Core) (l : Land) (r : Nat) (h : elsewhere .s r l) :
    fget {} (cluAt (commitLand cl c l) cl).s r = fget {} (cluAt c cl).s r := by
  unfold commitLand
  cases hk : l.kind
  · have : r ≠ l.reg := by
      intro e; simp [elsewhere, hk, e] at h
    simp [putClu, cluAt, fget_fput_ne _ _ _ _ _ this]
  · simp [putClu, cluAt]
  · rfl
  · dsimp only; split <;> rfl

theorem commitLand_a (cl : Nat) (c : Core) (l : Land) (r : Nat) (h : elsewhere .a r l) :
    fget 0 (cluAt (commitLand cl c l) cl).a r = fget 0 (cluAt c cl).a r := by
  unfold commitLand
  cases hk : l.kind
  · simp [putClu, cluAt]
  · have : r ≠ l.reg := by
      intro e; simp [elsewhere, hk, e] at h
    simp [putClu, cluAt, fget_fput_ne _ _ _ _ _ this]
  · rfl
  · dsimp only; split <;> rfl

theorem commitLand_v (cl : Nat) (c : Core) (l : Land) (r : Nat) (h : elsewhere .v r l) :
    fget {} (commitLand cl c l).v r = fget {} c.v r := by
  unfold commitLand
  cases hk : l.kind
  · rfl
  · rfl
  · have : r ≠ l.reg := by
      intro e; simp [elsewhere, hk, e] at h
    simp [fget_fput_ne _ _ _ _ _ this]
  · dsimp only; split <;> rfl

theorem commitLand_p (cl : Nat) (c : Core) (l : Land) (r : Nat) (h : elsewhere .p r l) :
    fget 0 (commitLand cl c l).p r = fget 0 c.p r := by
  unfold commitLand
  cases hk : l.kind
  · rfl
  · rfl
  · rfl
  · have : r ≠ l.reg := by
      intro e; simp [elsewhere, hk, e] at h
    dsimp only
    split
    · rfl
    · simp [fget_fput_ne _ _ _ _ _ this]

/-- Landing results one after the other: the frame. -/
theorem landAll_frame (cl : Nat) (ls : List Land) (c : Core) :
    ls.foldl (commitLand cl) c
        = { c with clu := (ls.foldl (commitLand cl) c).clu, v := (ls.foldl (commitLand cl) c).v,
                   p := (ls.foldl (commitLand cl) c).p, soft := (ls.foldl (commitLand cl) c).soft }
      ∧ (∀ i, i ≠ cl → cluAt (ls.foldl (commitLand cl) c) i = cluAt c i)
      ∧ cluAt (ls.foldl (commitLand cl) c) cl
          = { cluAt c cl with s := (cluAt (ls.foldl (commitLand cl) c) cl).s, a := (cluAt (ls.foldl (commitLand cl) c) cl).a,
                              tokHeld := (cluAt (ls.foldl (commitLand cl) c) cl).tokHeld } := by
  induction ls generalizing c with
  | nil => exact ⟨rfl, fun _ _ => rfl, rfl⟩
  | cons l r ih =>
    obtain ⟨h1, h2, h3⟩ := ih (commitLand cl c l)
    obtain ⟨g1, g2, g3⟩ := commitLand_frame cl c l
    simp only [List.foldl_cons]
    refine ⟨?_, fun i hi => (h2 i hi).trans (g2 i hi), ?_⟩
    · rw [h1]; rw [g1]
    · rw [h3]; rw [g3]

theorem landAll_s (cl : Nat) (ls : List Land) (c : Core) (r : Nat) (h : ∀ l ∈ ls, elsewhere .s r l) :
    fget {} (cluAt (ls.foldl (commitLand cl) c) cl).s r = fget {} (cluAt c cl).s r := by
  induction ls generalizing c with
  | nil => rfl
  | cons l t ih =>
    simp only [List.foldl_cons]
    rw [ih _ fun x hx => h x (List.mem_cons_of_mem _ hx), commitLand_s _ _ _ _ (h l List.mem_cons_self)]

theorem landAll_a (cl : Nat) (ls : List Land) (c : Core) (r : Nat) (h : ∀ l ∈ ls, elsewhere .a r l) :
    fget 0 (cluAt (ls.foldl (commitLand cl) c) cl).a r = fget 0 (cluAt c cl).a r := by
  induction ls generalizing c with
  | nil => rfl
  | cons l t ih =>
    simp only [List.foldl_cons]
    rw [ih _ fun x hx => h x (List.mem_cons_of_mem _ hx), commitLand_a _ _ _ _ (h l List.mem_cons_self)]

theorem landAll_v (cl : Nat) (ls : List Land) (c : Core) (r : Nat) (h : ∀ l ∈ ls, elsewhere .v r l) :
    fget {} (ls.foldl (commitLand cl) c).v r = fget {} c.v r := by
  induction ls generalizing c with
  | nil => rfl
  | cons l t ih =>
    simp only [List.foldl_cons]
    rw [ih _ fun x hx => h x (List.mem_cons_of_mem _ hx), commitLand_v _ _ _ _ (h l List.mem_cons_self)]

theorem landAll_p (cl : Nat) (ls : List Land) (c : Core) (r : Nat) (h : ∀ l ∈ ls, elsewhere .p r l) :
    fget 0 (ls.foldl (commitLand cl) c).p r = fget 0 c.p r := by
  induction ls generalizing c with
  | nil => rfl
  | cons l t ih =>
    simp only [List.foldl_cons]
    rw [ih _ fun x hx => h x (List.mem_cons_of_mem _ hx), commitLand_p _ _ _ _ (h l List.mem_cons_self)]

/-! ### Results on their way -/

/-- A result that is still on its way after a word was on its way before it, for the same register. -/
theorem mem_agePend {ls : List Land} {x : Land} (h : x ∈ agePend ls) :
    ∃ l ∈ ls, 1 < l.remain ∧ x.kind = l.kind ∧ x.reg = l.reg ∧ x.remain = l.remain - 1 ∧ x.bits = l.bits ∧ x.pois = l.pois := by
  induction ls with
  | nil => simp [agePend] at h
  | cons l r ih =>
    have older (k : x ∈ agePend r) := (ih k).imp fun _ p => p.imp_left (List.mem_cons_of_mem l)
    simp only [agePend] at h
    split at h
    next => exact older h
    next closed =>
      split at h
      next => exact older h
      next => exact (List.mem_cons.mp h).elim (fun e => ⟨l, List.mem_cons_self, Nat.lt_of_not_le closed, by rw [e]; simp [shadowLand]⟩) older

theorem agePend_append_open (ls : List Land) (l : Land) (hl : 1 < l.remain) (hm : l.mask ≠ 0) :
    agePend (ls ++ [l]) = agePend ls ++ [{ l with remain := l.remain - 1 }] := by
  induction ls with
  | nil =>
    have : ¬ l.remain ≤ 1 := by omega
    simp [agePend, this, shadowLand]
    exact hm
  | cons x r ih =>
    have hn : ¬ l.remain ≤ 1 := by omega
    have e : (r ++ [l]).filter (fun x => decide (x.remain ≤ 1)) = r.filter fun x => decide (x.remain ≤ 1) := by
      simp [List.filter_append, List.filter, hn]
    simp only [List.cons_append, agePend, e, ih]
    split
    · rfl
    · split
      · rfl
      · rfl

/-- A result of all lanes that lands at once leaves no older result of its register on its way. -/
theorem agePend_closed {ls : List Land} {l x : Land} (hl : l.remain ≤ 1) (hm : l.mask = BitVec.allOnes 512)
    (h : x ∈ agePend (ls ++ [l])) : (x.kind == l.kind && x.reg == l.reg) = false := by
  induction ls with
  | nil => simp [agePend, hl] at h
  | cons y r ih =>
    simp only [List.cons_append, agePend] at h
    split at h
    · exact ih h
    · split at h
      · exact ih h
      · rename_i hr hmask
        rcases List.mem_cons.mp h with rfl | h
        · cases hb : (y.kind == l.kind && y.reg == l.reg) with
          | false => simpa [shadowLand] using hb
          | true =>
            exfalso
            apply hmask
            simp only [Bool.and_eq_true, beq_iff_eq] at hb
            simp [shadowLand, List.filter_append, List.filter, hl, List.foldl_append, hb.1, hb.2, hm]
        · exact ih h

/-! ### Retirement -/

theorem not_elsewhere_filter {ls : List Land} {kd : RegKind} {r : Nat} (h : ∀ l ∈ ls, elsewhere kd r l) (p : Land → Bool) :
    ∀ l ∈ ls.filter p, elsewhere kd r l := fun l hl => h l (List.mem_filter.mp hl).1

theorem closedFor_eq_nil {ls : List Land} {kd : RegKind} {r : Nat} (h : ∀ l ∈ ls, elsewhere kd r l) : closedFor ls kd r = [] := by
  simp only [closedFor, List.filter_eq_nil_iff]
  intro l hl
  have := h l hl
  simp only [elsewhere] at this
  simp [this]

theorem readS_of_quiet {k : Clu} {r : Nat} (h : Quiet k .s r) : readS k r = fget {} k.s r := by
  simp [readS, closedFor_eq_nil h]
theorem readA_of_quiet {k : Clu} {r : Nat} (h : Quiet k .a r) : readA k r = fget 0 k.a r := by
  simp [readA, closedFor_eq_nil h]

/-- The results on their way once a word with the results `new` has issued. -/
def allOf (new : List Land) (k : Clu) : List Land :=
  k.pend ++ (new.map fun l => if l.remain ≤ 1 then l else { l with remain := l.remain + 1 })

/-- The results that land when a word issues. -/
def dueOf (new : List Land) (k : Clu) : List Land := (allOf new k).filter fun l => decide (l.remain ≤ 1)

theorem core_commitWord (new : List Land) (s : State) :
    core (commitWord new s)
      = { putClu ((dueOf new (clu s)).foldl (commitLand s.cl) (core s)) s.cl
            { cluAt ((dueOf new (clu s)).foldl (commitLand s.cl) (core s)) s.cl with pend := agePend (allOf new (clu s)) } with qdead := 0 } := by
  simp only [commitWord, core_onCore, dueOf, allOf, clu]

/-- The pending results of a cluster after a word: `new` on the old ones, one word nearer. -/
theorem clu_retire (new : List Land) (s : State) :
    clu (retire new s) = passWord (clu s).pc { clu s with
      s := (cluAt ((dueOf new (clu s)).foldl (commitLand s.cl) (core s)) s.cl).s
      a := (cluAt ((dueOf new (clu s)).foldl (commitLand s.cl) (core s)) s.cl).a
      tokHeld := (cluAt ((dueOf new (clu s)).foldl (commitLand s.cl) (core s)) s.cl).tokHeld
      pend := agePend (allOf new (clu s)) } := by
  obtain ⟨-, -, h3⟩ := landAll_frame s.cl (dueOf new (clu s)) (core s)
  have e : clu (commitWord new s) = { clu s with
      s := (cluAt ((dueOf new (clu s)).foldl (commitLand s.cl) (core s)) s.cl).s
      a := (cluAt ((dueOf new (clu s)).foldl (commitLand s.cl) (core s)) s.cl).a
      tokHeld := (cluAt ((dueOf new (clu s)).foldl (commitLand s.cl) (core s)) s.cl).tokHeld
      pend := agePend (allOf new (clu s)) } := by
    have h : clu (commitWord new s) = { cluAt ((dueOf new (clu s)).foldl (commitLand s.cl) (core s)) s.cl with
        pend := agePend (allOf new (clu s)) } := by
      have : clu (commitWord new s) = cluAt (core (commitWord new s)) s.cl := rfl
      rw [this, core_commitWord]
      simp [cluAt, putClu]
    rw [h]
    rw [h3]
    rfl
  simp only [retire, clu_onClu, e]

theorem core_retire (new : List Land) (s : State) :
    core (retire new s) = { core (retire new s) with clu := (core (retire new s)).clu } := rfl

/-- What retiring a word does to its core. -/
theorem retire_core (new : List Land) (s : State) :
    core (retire new s) = { core s with
        clu := (core (retire new s)).clu, v := ((dueOf new (clu s)).foldl (commitLand s.cl) (core s)).v,
        p := ((dueOf new (clu s)).foldl (commitLand s.cl) (core s)).p, soft := (core (retire new s)).soft, qdead := 0 }
      ∧ ∀ i, i ≠ s.cl → cluAt (core (retire new s)) i = cluAt (core s) i := by
  obtain ⟨h1, h2, -⟩ := landAll_frame s.cl (dueOf new (clu s)) (core s)
  have e : core (retire new s) = putClu (core (commitWord new s)) s.cl (passWord (clu (commitWord new s)).pc (clu (commitWord new s))) := by
    simp only [retire, core_onClu]
    rfl
  have w := core_commitWord new s
  constructor
  · rw [e, w, h1]; rfl
  · intro i hi
    rw [e, cluAt_putClu_ne _ _ _ _ hi, w]
    show cluAt (putClu _ s.cl _) i = _
    rw [cluAt_putClu_ne _ _ _ _ hi, h2 i hi]

theorem retire_onlyCore (new : List Land) (s : State) : OnlyCore s (retire new s) := by
  refine ⟨rfl, fun n hn => ?_⟩
  rw [retire, coreAt_onClu_ne _ _ _ (show n ≠ (commitWord new s).cur from hn), commitWord, coreAt_onCore_ne _ _ _ hn]

theorem dueOf_elsewhere {new : List Land} {k : Clu} {kd : RegKind} {r : Nat} (hq : Quiet k kd r)
    (hn : ∀ l ∈ new, elsewhere kd r l) : ∀ l ∈ allOf new k, elsewhere kd r l := by
  intro l hl
  rcases List.mem_append.mp hl with h | h
  · exact hq l h
  · obtain ⟨x, hx, rfl⟩ := List.mem_map.mp h
    have := hn x hx
    split <;> exact this

theorem agePend_elsewhere {ls : List Land} {kd : RegKind} {r : Nat} (h : ∀ l ∈ ls, elsewhere kd r l) :
    ∀ l ∈ agePend ls, elsewhere kd r l := by
  intro x hx
  obtain ⟨l, hl, -, e1, e2, -⟩ := mem_agePend hx
  have := h l hl
  simp only [elsewhere, e1, e2] at this ⊢
  exact this

/-- A word whose results are scalars and addresses changes its cluster alone. -/
theorem retire_onlyClu {new : List Land} {s : State} (hn : ∀ l ∈ new, l.kind = .s ∨ l.kind = .a) :
    OnlyClu s.cl (core s) (core (retire new s)) := by
  obtain ⟨h1, h2⟩ := retire_core new s
  have hv : ∀ kd r, kd = .v ∨ kd = .p → ∀ l ∈ new, elsewhere kd r l := by
    intro kd r hk l hl
    rcases hk with rfl | rfl <;> rcases hn l hl with h | h <;> simp [elsewhere, h]
  have hc : (core (retire new s)).cmds = (core s).cmds := by rw [h1]
  have hv' : (core (retire new s)).v = ((dueOf new (clu s)).foldl (commitLand s.cl) (core s)).v := by rw [h1]
  have hp' : (core (retire new s)).p = ((dueOf new (clu s)).foldl (commitLand s.cl) (core s)).p := by rw [h1]
  refine ⟨?_, h2, fun r hr => ?_, fun r hr => ?_⟩
  · rw [hc, hv', hp']; exact h1
  · rw [h1]
    exact landAll_v _ _ _ _ (not_elsewhere_filter (dueOf_elsewhere hr (hv _ r (.inl rfl))) _)
  · rw [h1]
    exact landAll_p _ _ _ _ (not_elsewhere_filter (dueOf_elsewhere hr (hv _ r (.inr rfl))) _)

theorem retire_onlyRegs (new : List Land) (s : State) : OnlyRegs (clu s) (clu (retire new s)) ∧ Advanced (clu s) (clu (retire new s)) := by
  rw [clu_retire]
  exact ⟨rfl, rfl, rfl⟩

/-- A register without a result on its way, and that the word does not write, reads as before. -/
theorem readS_retire {new : List Land} {s : State} {r : Nat} (hq : Quiet (clu s) .s r) (hn : ∀ l ∈ new, elsewhere .s r l) :
    readS (clu (retire new s)) r = readS (clu s) r := by
  have ha := dueOf_elsewhere hq hn
  have h2 : Quiet (clu (retire new s)) .s r := by
    rw [clu_retire]
    exact agePend_elsewhere ha
  rw [readS_of_quiet h2, readS_of_quiet hq, clu_retire]
  exact landAll_s _ _ _ _ (not_elsewhere_filter ha _)

theorem readA_retire {new : List Land} {s : State} {r : Nat} (hq : Quiet (clu s) .a r) (hn : ∀ l ∈ new, elsewhere .a r l) :
    readA (clu (retire new s)) r = readA (clu s) r := by
  have ha := dueOf_elsewhere hq hn
  have h2 : Quiet (clu (retire new s)) .a r := by
    rw [clu_retire]
    exact agePend_elsewhere ha
  rw [readA_of_quiet h2, readA_of_quiet hq, clu_retire]
  exact landAll_a _ _ _ _ (not_elsewhere_filter ha _)

theorem ones_ne_zero : BitVec.allOnes 512 ≠ 0 := by
  intro h
  have := congrArg (fun b => b.getLsbD 0) h
  simp at this

theorem landS_val (n r : Nat) (v : Scalar) :
    ({ val := (landS n r v).bits.setWidth 32, pois := (landS n r v).pois.getLsbD 0 } : Scalar) = v := by
  obtain ⟨w, p⟩ := v
  simp only [landS]
  congr 1
  · exact BitVec.setWidth_setWidth_of_le w (by decide)
  · cases p
    · exact BitVec.getLsbD_zero
    · rw [if_pos rfl]
      exact BitVec.getLsbD_one.trans (by simp)

theorem landA_val (r : Nat) (v : Addr) : (landA r v).bits.setWidth 64 = v := by
  simp only [landA]
  exact BitVec.setWidth_setWidth_of_le v (by decide)

/-- A scalar written with latency 1 is what the next word reads. -/
theorem readS_retire_same (s : State) (d : Nat) (v : Scalar) : readS (clu (retire [landS 1 d v] s)) d = v := by
  have h2 : Quiet (clu (retire [landS 1 d v] s)) .s d := by
    rw [clu_retire]
    exact fun x hx => agePend_closed (l := landS 1 d v) (Nat.le_refl 1) rfl hx
  rw [readS_of_quiet h2, clu_retire]
  show fget {} (cluAt ((dueOf [landS 1 d v] (clu s)).foldl (commitLand s.cl) (core s)) s.cl).s d = v
  have e : dueOf [landS 1 d v] (clu s) = ((clu s).pend.filter fun l => decide (l.remain ≤ 1)) ++ [landS 1 d v] := by
    simp [dueOf, allOf, landS, List.filter_append, List.filter]
  rw [e, List.foldl_append]
  simp only [List.foldl_cons, List.foldl_nil]
  generalize ((clu s).pend.filter fun l => decide (l.remain ≤ 1)).foldl (commitLand s.cl) (core s) = c
  have hv := landS_val 1 d v
  simp only [landS] at hv
  simp only [commitLand, landS, cluAt_putClu, fget_fput_same]
  exact hv

/-- An address register written is what the next word reads. -/
theorem readA_retire_same (s : State) (d : Nat) (v : Addr) : readA (clu (retire [landA d v] s)) d = v := by
  have h2 : Quiet (clu (retire [landA d v] s)) .a d := by
    rw [clu_retire]
    exact fun x hx => agePend_closed (l := landA d v) (Nat.le_refl 1) rfl hx
  rw [readA_of_quiet h2, clu_retire]
  show fget 0 (cluAt ((dueOf [landA d v] (clu s)).foldl (commitLand s.cl) (core s)) s.cl).a d = v
  have e : dueOf [landA d v] (clu s) = ((clu s).pend.filter fun l => decide (l.remain ≤ 1)) ++ [landA d v] := by
    simp [dueOf, allOf, landA, List.filter_append, List.filter]
  rw [e, List.foldl_append]
  simp only [List.foldl_cons, List.foldl_nil]
  generalize ((clu s).pend.filter fun l => decide (l.remain ≤ 1)).foldl (commitLand s.cl) (core s) = c
  have hv := landA_val d v
  simp only [landA] at hv
  simp only [commitLand, landA, cluAt_putClu, fget_fput_same]
  exact hv

/-- A result with a longer latency is on its way after its word. -/
theorem pend_retire_open (s : State) (n d : Nat) (v : Scalar) (hn : 1 < n) :
    (clu (retire [landS n d v] s)).pend = agePend (clu s).pend ++ [landS n d v] := by
  rw [clu_retire]
  show agePend (allOf [landS n d v] (clu s)) = _
  have h : ¬ n ≤ 1 := by omega
  have e : allOf [landS n d v] (clu s) = (clu s).pend ++ [{ landS n d v with remain := n + 1 }] := by
    simp [allOf, landS, h]
  have hr : ({ landS n d v with remain := n + 1 } : Land).remain = n + 1 := rfl
  have hm : ({ landS n d v with remain := n + 1 } : Land).mask ≠ 0 := by
    simp only [landS]
    exact ones_ne_zero
  have hl : ({ ({ landS n d v with remain := n + 1 } : Land) with remain := n + 1 - 1 } : Land) = landS n d v := by
    simp only [landS, Nat.add_sub_cancel]
  rw [e]
  generalize ({ landS n d v with remain := n + 1 } : Land) = l at hr hm hl
  rw [agePend_append_open _ _ (by omega) hm, hr, hl]

/-- Memory as every path reads it depends on these parts of the state alone. -/
theorem sameMem_of {s t : State} (h1 : t.mem = s.mem) (h2 : t.l2 = s.l2) (h3 : t.blocks = s.blocks) (h4 : t.device = s.device)
    (h5 : ∀ n, (coreAt t n).l1 = (coreAt s n).l1) (h6 : t.vault = s.vault) (h7 : t.ctxs = s.ctxs) (h8 : t.vaultSeed = s.vaultSeed)
    (h9 : t.sealed = s.sealed) (h10 : t.sealedFrames = s.sealedFrames) (h11 : t.cycle = s.cycle) : SameMem s t := by
  have e0 : ∀ k, windowByte t k = windowByte s k := by
    intro k
    simp only [windowByte, blockOfKey, blockWord, blockAt, farWord, h3, h4, h11]
  have e1 : ∀ k, devByte t k = devByte s k := by
    intro k
    simp only [devByte, e0, h1, h2]
  have e2 : ∀ km k, plainByte t km k = plainByte s km k := by
    intro km k
    have e3 : sealOf t k = sealOf s k := by rw [sealOf, sealOf, h9, h10]
    rw [plainByte, plainByte, otherSeal, otherSeal, e3, e0, e1]
  refine ⟨e1, fun n km k => ?_, fun x a => ?_, h9⟩
  · simp only [weakByte, h5, e2]
  · simp only [vaultByte, inPinned, ctxAt, h6, h7, h8]
    rfl

theorem retire_sameMem (new : List Land) (s : State) : SameMem s (retire new s) := by
  refine sameMem_of rfl rfl rfl rfl (fun n => ?_) rfl rfl rfl rfl rfl rfl
  by_cases hn : n = s.cur
  · subst hn
    show (core (retire new s)).l1 = (core s).l1
    rw [(retire_core new s).1]
  · rw [(retire_onlyCore new s).2 n hn]

theorem SameMem.trans {s t u : State} (h : SameMem s t) (g : SameMem t u) : SameMem s u :=
  ⟨fun k => (g.1 k).trans (h.1 k), fun n km k => (g.2.1 n km k).trans (h.2.1 n km k),
   fun x a => (g.2.2.1 x a).trans (h.2.2.1 x a), g.2.2.2.trans h.2.2.2⟩

theorem markRead_sameMem (u : Use) (s : State) : SameMem s (markRead u s) := by
  refine sameMem_of rfl rfl rfl rfl (fun n => ?_) rfl rfl rfl rfl rfl rfl
  by_cases hn : n = s.cur
  · subst hn
    show (core (markRead u s)).l1 = (core s).l1
    rw [core_markRead]
  · rw [(markRead_frame u s).2 n hn]

/-- The frame of a word with scalar and address results, its tokens read. -/
theorem wordFrame_retire {new : List Land} (u : Use) (s : State) (hn : ∀ l ∈ new, l.kind = .s ∨ l.kind = .a) :
    WordFrame s (retire new (markRead u s)) := by
  have a := retire_onlyCore new (markRead u s)
  have b := retire_onlyClu (s := markRead u s) hn
  have c := retire_onlyRegs new (markRead u s)
  have f := markRead_frame u s
  have g := core_markRead u s
  refine ⟨⟨?_, fun n h => (a.2 n h).trans (f.2 n h)⟩, ?_, ?_, (markRead_sameMem u s).trans (retire_sameMem _ _)⟩
  · rw [a.1]
    rfl
  · obtain ⟨b1, b2, b3, b4⟩ := b
    refine ⟨?_, ?_, ?_, ?_⟩
    · rw [b1, g]
    · intro i hi
      rw [show (markRead u s).cl = s.cl from rfl] at b2
      rw [b2 i hi, g]; rfl
    · intro r hr
      rw [show (markRead u s).cl = s.cl from rfl] at b3
      rw [g] at b3
      exact b3 r hr
    · intro r hr
      rw [show (markRead u s).cl = s.cl from rfl] at b4
      rw [g] at b4
      exact b4 r hr
  · simpa using c.1

theorem wroteS_retire (u : Use) (n d : Nat) (v : Scalar) (s : State) (h : 1 ≤ n) :
    WroteS n d v s (retire [landS n d v] (markRead u s)) := by
  have hk : ∀ l ∈ [landS n d v], l.kind = .s ∨ l.kind = .a := by simp [landS]
  have adv := (retire_onlyRegs [landS n d v] (markRead u s)).2
  rw [clu_markRead] at adv
  refine ⟨wordFrame_retire u s hk, adv, ?_, ?_, ?_, ?_⟩
  · rintro rfl; exact readS_retire_same _ _ _
  · intro hn
    have e := pend_retire_open (markRead u s) n d v hn
    refine ⟨by rw [e]; simp, fun hq => ?_⟩
    rw [clu_markRead] at e
    have : closedFor (clu (retire [landS n d v] (markRead u s))).pend .s d = [] := by
      rw [e]
      have : ¬ n ≤ 1 := by omega
      simp only [closedFor, List.filter_append]
      have h1 := closedFor_eq_nil (agePend_elsewhere (kd := .s) (r := d) hq)
      simp only [closedFor] at h1
      rw [h1]
      simp [List.filter, landS, this]
    rw [readS_of_quiet hq]
    simp only [readS, this, List.getLast?_nil]
    have hz : dueOf [landS n d v] (clu (markRead u s)) = (clu s).pend.filter fun l => decide (l.remain ≤ 1) := by
      have h1 : ¬ n ≤ 1 := by omega
      have h2 : ¬ n + 1 ≤ 1 := by omega
      simp [dueOf, allOf, List.filter_append, List.filter, landS, h1, h2]
    rw [clu_retire, hz]
    show fget {} (cluAt (List.foldl (commitLand s.cl) (core (markRead u s)) _) s.cl).s d = _
    rw [landAll_s _ _ _ _ (not_elsewhere_filter hq _)]
    have := congrArg (fun k => fget ({} : Scalar) k.s d) (clu_markRead u s)
    exact this
  · intro r hr hq
    have := readS_retire (s := markRead u s) (new := [landS n d v]) (r := r) (by simpa using hq) (by simp [elsewhere, landS, Ne.symm hr])
    simpa using this
  · intro r hq
    have := readA_retire (s := markRead u s) (new := [landS n d v]) (r := r) (by simpa using hq) (by simp [elsewhere, landS])
    simpa using this

theorem wroteA_retire (u : Use) (d : Nat) (v : Addr) (s : State) : WroteA d v s (retire [landA d v] (markRead u s)) := by
  have hk : ∀ l ∈ [landA d v], l.kind = .s ∨ l.kind = .a := by simp [landA]
  have adv := (retire_onlyRegs [landA d v] (markRead u s)).2
  rw [clu_markRead] at adv
  refine ⟨wordFrame_retire u s hk, adv, readA_retire_same _ _ _, ?_, ?_⟩
  · intro r hr hq
    have := readA_retire (s := markRead u s) (new := [landA d v]) (r := r) (by simpa using hq) (by simp [elsewhere, landA, Ne.symm hr])
    simpa using this
  · intro r hq
    have := readS_retire (s := markRead u s) (new := [landA d v]) (r := r) (by simpa using hq) (by simp [elsewhere, landA])
    simpa using this

end Sys2Proof.Machine
end

