-- ==== Sys2Proof/Laws/Frame.lean ====
section
/-! SUPPORT. What the end of a word does, once for every shape of word: no result, a result whose window is open, a transfer
of control (spec/03_model.md R74, R75, spec/05_isa_shared.md R111, R124). -/

namespace Sys2Proof.Machine

/-- `G` moves a cluster to its next word and changes nothing else of it. -/
def Mover (G : Clu → Clu) : Prop :=
  ∀ k, G k = { k with pc := (G k).pc, closing := (G k).closing, wait := .none, rvDone := false }

/-- No result of the word lands in a vector register or a predicate with it. -/
def NoVector (new : List Land) : Prop := ∀ l ∈ new, l.kind = .s ∨ l.kind = .a ∨ 1 < l.remain

/-- No result of the word lands in a scalar or an address register with it. -/
def NoScalar (new : List Land) : Prop := ∀ l ∈ new, (l.kind ≠ .s ∧ l.kind ≠ .a) ∨ 1 < l.remain

theorem mem_due {new : List Land} {k : Clu} {x : Land} (h : x ∈ dueOf new k) : x ∈ k.pend ∨ (x ∈ new ∧ x.remain ≤ 1) := by
  obtain ⟨h1, h2⟩ := List.mem_filter.mp h
  rcases List.mem_append.mp h1 with h | h
  · exact .inl h
  · obtain ⟨l, hl, rfl⟩ := List.mem_map.mp h
    by_cases hr : l.remain ≤ 1
    · rw [if_pos hr]
      exact .inr ⟨hl, hr⟩
    · simp only [hr, if_false, decide_eq_true_eq] at h2
      omega

/-- The cluster after its word. -/
theorem clu_land (G : Clu → Clu) (new : List Land) (s : State) :
    clu (onClu G (commitWord new s)) = G { clu s with
      s := (cluAt ((dueOf new (clu s)).foldl (commitLand s.cl) (core s)) s.cl).s
      a := (cluAt ((dueOf new (clu s)).foldl (commitLand s.cl) (core s)) s.cl).a
      tokHeld := (cluAt ((dueOf new (clu s)).foldl (commitLand s.cl) (core s)) s.cl).tokHeld
      pend := agePend (allOf new (clu s)) } := by
  have h : clu (commitWord new s) = { cluAt ((dueOf new (clu s)).foldl (commitLand s.cl) (core s)) s.cl with
      pend := agePend (allOf new (clu s)) } := by
    have : clu (commitWord new s) = cluAt (core (commitWord new s)) s.cl := rfl
    rw [this, core_commitWord]
    simp [cluAt, putClu]
  rw [clu_onClu, h, (landAll_frame s.cl (dueOf new (clu s)) (core s)).2.2]
  rfl

/-- The core after its word. -/
theorem core_land (G : Clu → Clu) (new : List Land) (s : State) :
    core (onClu G (commitWord new s)) = { core s with
        clu := (core (onClu G (commitWord new s))).clu, v := ((dueOf new (clu s)).foldl (commitLand s.cl) (core s)).v,
        p := ((dueOf new (clu s)).foldl (commitLand s.cl) (core s)).p, soft := (core (onClu G (commitWord new s))).soft, qdead := 0 }
      ∧ ∀ i, i ≠ s.cl → cluAt (core (onClu G (commitWord new s))) i = cluAt (core s) i := by
  obtain ⟨h1, h2, -⟩ := landAll_frame s.cl (dueOf new (clu s)) (core s)
  have w := core_commitWord new s
  have e : core (onClu G (commitWord new s)) = putClu (core (commitWord new s)) s.cl (G (clu (commitWord new s))) := by
    rw [core_onClu]
    rfl
  constructor
  · rw [e, w, h1]; rfl
  · intro i hi
    rw [e, cluAt_putClu_ne _ _ _ _ hi, w]
    show cluAt (putClu _ s.cl _) i = _
    rw [cluAt_putClu_ne _ _ _ _ hi, h2 i hi]

theorem land_onlyCore (G : Clu → Clu) (new : List Land) (s : State) : OnlyCore s (onClu G (commitWord new s)) := by
  refine ⟨rfl, fun n hn => ?_⟩
  rw [coreAt_onClu_ne _ _ _ (show n ≠ (commitWord new s).cur from hn), commitWord, coreAt_onCore_ne _ _ _ hn]

theorem land_sameMem (G : Clu → Clu) (new : List Land) (s : State) : SameMem s (onClu G (commitWord new s)) := by
  refine sameMem_of rfl rfl rfl rfl (fun n => ?_) rfl rfl rfl rfl rfl rfl
  by_cases hn : n = s.cur
  · subst hn
    show (core (onClu G (commitWord new s))).l1 = (core s).l1
    rw [(core_land G new s).1]
  · rw [(land_onlyCore G new s).2 n hn]

theorem elsewhere_due {new : List Land} {k : Clu} {kd : RegKind} {r : Nat} (hq : Quiet k kd r)
    (hn : ∀ l ∈ new, l.remain ≤ 1 → elsewhere kd r l) : ∀ l ∈ dueOf new k, elsewhere kd r l := by
  intro l hl
  rcases mem_due hl with h | ⟨h, h1⟩
  · exact hq l h
  · exact hn l h h1

/-- The frame of a word whose results are not vectors or predicates that land with it. -/
theorem wordFrame_land {G : Clu → Clu} {new : List Land} (hG : Mover G) (hn : NoVector new) (s : State) :
    WordFrame s (onClu G (commitWord new s)) := by
  obtain ⟨h1, h2⟩ := core_land G new s
  have hv : ∀ kd r, kd = .v ∨ kd = .p → ∀ l ∈ new, l.remain ≤ 1 → elsewhere kd r l := by
    intro kd r hk l hl hr
    rcases hk with rfl | rfl <;> rcases hn l hl with h | h | h <;> first | omega | simp [elsewhere, h]
  have hc : (core (onClu G (commitWord new s))).cmds = (core s).cmds := by rw [h1]
  have hv' : (core (onClu G (commitWord new s))).v = ((dueOf new (clu s)).foldl (commitLand s.cl) (core s)).v := by rw [h1]
  have hp' : (core (onClu G (commitWord new s))).p = ((dueOf new (clu s)).foldl (commitLand s.cl) (core s)).p := by rw [h1]
  refine ⟨land_onlyCore G new s, ⟨?_, h2, fun r hr => ?_, fun r hr => ?_⟩, ?_, land_sameMem G new s⟩
  · rw [hc, hv', hp']; exact h1
  · rw [h1]
    exact landAll_v _ _ _ _ (elsewhere_due hr (hv _ r (.inl rfl)))
  · rw [h1]
    exact landAll_p _ _ _ _ (elsewhere_due hr (hv _ r (.inr rfl)))
  · rw [clu_land, hG]
    rfl

theorem pend_land {G : Clu → Clu} (hG : Mover G) (new : List Land) (s : State) :
    (clu (onClu G (commitWord new s))).pend = agePend (allOf new (clu s)) := by
  rw [clu_land, hG]

/-- A scalar reads as before when the word has no result for it. -/
theorem readS_land {G : Clu → Clu} {new : List Land} {s : State} {r : Nat} (hG : Mover G) (hq : Quiet (clu s) .s r)
    (hn : ∀ l ∈ new, elsewhere .s r l) : readS (clu (onClu G (commitWord new s))) r = readS (clu s) r := by
  have ha := dueOf_elsewhere hq hn
  have h2 : Quiet (clu (onClu G (commitWord new s))) .s r := by
    intro l hl
    rw [pend_land hG] at hl
    exact agePend_elsewhere ha l hl
  rw [readS_of_quiet h2, readS_of_quiet hq, clu_land, hG]
  exact landAll_s _ _ _ _ (not_elsewhere_filter ha _)

/-- An address register reads as before when the word has no result for it. -/
theorem readA_land {G : Clu → Clu} {new : List Land} {s : State} {r : Nat} (hG : Mover G) (hq : Quiet (clu s) .a r)
    (hn : ∀ l ∈ new, elsewhere .a r l) : readA (clu (onClu G (commitWord new s))) r = readA (clu s) r := by
  have ha := dueOf_elsewhere hq hn
  have h2 : Quiet (clu (onClu G (commitWord new s))) .a r := by
    intro l hl
    rw [pend_land hG] at hl
    exact agePend_elsewhere ha l hl
  rw [readA_of_quiet h2, readA_of_quiet hq, clu_land, hG]
  exact landAll_a _ _ _ _ (not_elsewhere_filter ha _)

theorem regsSame_land {G : Clu → Clu} {new : List Land} {s : State} (hG : Mover G)
    (hn : ∀ l ∈ new, l.kind ≠ .s ∧ l.kind ≠ .a) : RegsSame s (onClu G (commitWord new s)) :=
  ⟨fun r hq => readS_land hG hq fun l hl => by simp [elsewhere, (hn l hl).1],
   fun r hq => readA_land hG hq fun l hl => by simp [elsewhere, (hn l hl).2]⟩

theorem mover_pass : Mover (fun k => passWord k.pc k) := fun _ => rfl
theorem mover_to (pc : Addr) : Mover (fun k => { k with pc := pc, closing := false, wait := .none, rvDone := false }) := fun _ => rfl
theorem mover_past (last : Addr) : Mover (passWord last) := fun _ => rfl

/-! ### The shapes of a word -/

theorem passed_retire (s : State) : Passed s (retire [] s) := by
  refine ⟨wordFrame_land mover_pass (by simp [NoVector]) s, ?_, regsSame_land mover_pass (by simp)⟩
  rw [retire, clu_land]
  exact ⟨rfl, rfl⟩

theorem wentTo_land {G : Clu → Clu} (hG : Mover G) (s : State) {pc : Addr} {cb : Bool}
    (h1 : ∀ k : Clu, (G { clu s with s := k.s, a := k.a, tokHeld := k.tokHeld, pend := k.pend }).pc = pc)
    (h2 : ∀ k : Clu, (G { clu s with s := k.s, a := k.a, tokHeld := k.tokHeld, pend := k.pend }).closing = cb) :
    WentTo pc cb s (onClu G (commitWord [] s)) := by
  refine ⟨wordFrame_land hG (by simp [NoVector]) s, ?_, ?_, regsSame_land hG (by simp)⟩
  · rw [clu_land]
    exact h1 { s := _, a := _, tokHeld := _, pend := _ }
  · rw [clu_land]
    exact h2 { s := _, a := _, tokHeld := _, pend := _ }

theorem wentTo_retireTo (pc : Addr) (s : State) : WentTo pc false s (retireTo pc [] s) :=
  wentTo_land (mover_to pc) s (fun _ => rfl) (fun _ => rfl)

/-- The marks of tokens read do not show in a frame. -/
theorem WordFrame.ofMark {u : Use} {s t : State} (h : WordFrame (markRead u s) t) : WordFrame s t := by
  obtain ⟨a, b, c, d⟩ := h
  have f := markRead_frame u s
  have g := core_markRead u s
  have hc : (markRead u s).cl = s.cl := rfl
  refine ⟨⟨?_, fun n hn => (a.2 n hn).trans (f.2 n hn)⟩, ?_, by simpa using c, (markRead_sameMem u s).trans d⟩
  · rw [a.1]
    rfl
  · obtain ⟨b1, b2, b3, b4⟩ := b
    rw [hc] at b2 b3 b4
    rw [g] at b1 b2 b3 b4
    exact ⟨b1, b2, b3, b4⟩

theorem RegsSame.ofMark {u : Use} {s t : State} (h : RegsSame (markRead u s) t) : RegsSame s t := by
  simpa only [RegsSame, clu_markRead] using h

theorem Passed.ofMark {u : Use} {s t : State} (h : Passed (markRead u s) t) : Passed s t :=
  ⟨h.1.ofMark, by simpa only [clu_markRead] using h.2.1, h.2.2.ofMark⟩

theorem WentTo.ofMark {u : Use} {pc : Addr} {cb : Bool} {s t : State} (h : WentTo pc cb (markRead u s) t) : WentTo pc cb s t :=
  ⟨h.1.ofMark, h.2.1, h.2.2.1, h.2.2.2.ofMark⟩

/-! ### Vector and predicate results -/

theorem closed_open {G : Clu → Clu} {new : List Land} {s : State} {kd : RegKind} {r : Nat} (hG : Mover G)
    (hq : Quiet (clu s) kd r) (hn : ∀ l ∈ new, 1 < l.remain) :
    closedFor (clu (onClu G (commitWord new s))).pend kd r = [] := by
  rw [pend_land hG]
  simp only [closedFor, List.filter_eq_nil_iff]
  intro x hx
  obtain ⟨l, hl, h3, e1, e2, e3, -⟩ := mem_agePend hx
  rcases List.mem_append.mp hl with h | h
  · have := hq l h
    simp only [e1, e2, this, Bool.false_and]
    simp
  · obtain ⟨y, hy, rfl⟩ := List.mem_map.mp h
    have h1 := hn y hy
    have h2 : ¬ y.remain ≤ 1 := by omega
    rw [if_neg h2] at e3
    simp only at e3
    have : ¬ x.remain ≤ 1 := by omega
    simp [this]

theorem closed_quiet {k : Clu} {kd : RegKind} {r : Nat} (hq : Quiet k kd r) : closedFor k.pend kd r = [] := closedFor_eq_nil hq

/-- On V a vector register that no earlier result is on its way to reads as before when the word's results are open. -/
theorem readV_land {G : Clu → Clu} {new : List Land} {s : State} {r : Nat} (hG : Mover G) (hv : s.cl = clV)
    (hq : Quiet (clu s) .v r) (hn : ∀ l ∈ new, 1 < l.remain) :
    readV (core (onClu G (commitWord new s))) r = readV (core s) r := by
  have f := (wordFrame_land hG (fun l hl => .inr (.inr (hn l hl))) s).2.1.2.2.1 r hq
  have c1 := closed_open hG hq hn
  have c2 := closed_quiet hq
  have e1 : cluAt (core (onClu G (commitWord new s))) clV = clu (onClu G (commitWord new s)) := by rw [← hv]; rfl
  have e2 : cluAt (core s) clV = clu s := by rw [← hv]; rfl
  simp only [readV, e1, e2, c1, c2, List.foldl_nil]
  exact f

theorem readP_land {G : Clu → Clu} {new : List Land} {s : State} {r : Nat} (hG : Mover G) (hv : s.cl = clV)
    (hq : Quiet (clu s) .p r) (hn : ∀ l ∈ new, 1 < l.remain) :
    readP (core (onClu G (commitWord new s))) r = readP (core s) r := by
  have f := (wordFrame_land hG (fun l hl => .inr (.inr (hn l hl))) s).2.1.2.2.2 r hq
  have c1 := closed_open hG hq hn
  have c2 := closed_quiet hq
  have e1 : cluAt (core (onClu G (commitWord new s))) clV = clu (onClu G (commitWord new s)) := by rw [← hv]; rfl
  have e2 : cluAt (core s) clV = clu s := by rw [← hv]; rfl
  simp only [readP, e1, e2, c1, c2, List.foldl_nil]
  rw [f]

/-- The newest result stays on its way when its window is open. -/
theorem mem_pend_retire {l : Land} (s : State) (h : 1 < l.remain) (hm : l.mask ≠ 0) : l ∈ (clu (retire [l] s)).pend := by
  rw [retire, pend_land mover_pass]
  have h1 : ¬ l.remain ≤ 1 := by omega
  have e : allOf [l] (clu s) = (clu s).pend ++ [{ l with remain := l.remain + 1 }] := by simp [allOf, h1]
  have p := agePend_append_open (clu s).pend { l with remain := l.remain + 1 } (show 1 < l.remain + 1 by omega) hm
  rw [e, p]
  simp

theorem passed_open {l : Land} (s : State) (h : 1 < l.remain) (hk : l.kind ≠ .s ∧ l.kind ≠ .a) : Passed s (retire [l] s) := by
  refine ⟨wordFrame_land mover_pass (by simp [NoVector, h]) s, ?_, regsSame_land mover_pass (by simpa using hk)⟩
  rw [retire, clu_land]
  exact ⟨rfl, rfl⟩

theorem wroteV_retire (n d : Nat) (v : VVal) (g : BitVec 512) (s : State) (hn : 1 < n) (hg : g ≠ 0) :
    WroteV n d v g s (retire [landV n d v g] s) :=
  ⟨passed_open s hn (by simp [landV]), mem_pend_retire s hn hg, fun hv hq => readV_land mover_pass hv hq (by simpa [landV] using hn)⟩

theorem wroteP_retire (n d : Nat) (v g : BitVec 512) (s : State) (hn : 1 < n) (hg : g ≠ 0) :
    WroteP n d v g s (retire [landP n d v g] s) :=
  ⟨passed_open s hn (by simp [landP]), mem_pend_retire s hn hg, fun hv hq => readP_land mover_pass hv hq (by simpa [landP] using hn)⟩

end Sys2Proof.Machine
end

