-- ==== Sys2Proof/Laws/PerInstr.lean ====
section
/-! SUPPORT. The fields of a well-formed instruction fit below the major opcode of its word (spec/04_encoding.md
R85-R102), said once for each constructor. -/

section

set_option Elab.async false
set_option linter.unusedSimpArgs false

namespace Sys2Proof.Laws.Fits

/-- The body of a well-formed instruction's word has no bit above bit 23. -/
def Statement (i : Instr) : Prop := i.wf = true → encodeBody i < 2 ^ 24

theorem scopeCode_lt (y : Scope) : scopeCode y < 8 := by cases y <;> decide
theorem vtypeCode_lt (y : VType) : vtypeCode y < 4 := by cases y <;> decide
theorem condCode_lt (y : Cond) : condCode y < 4 := by cases y <;> decide
theorem cvtDstCode_lt (y : CvtDst) : cvtDstCode y < 8 := by cases y <;> decide
theorem blkCode_lt (y : Blk) : blkCode y < 4 := by cases y <;> decide
theorem redOpCode_lt (y : RedOp) : redOpCode y < 4 := by cases y <;> decide
theorem tileFmtCode_lt (y : TileFmt) : tileFmtCode y < 8 := by cases y <;> decide
theorem wmodeCode_lt (y : WMode) : wmodeCode y < 8 := by cases y <;> decide
theorem emitDstCode_lt (y : EmitDst) : emitDstCode y < 8 := by cases y <;> decide
theorem barOpCode_lt (y : BarOp) : barOpCode y < 8 := by cases y <;> decide
theorem sysRegCode_lt (r : SysReg) : sysRegCode r < 256 := by cases r <;> decide
theorem bit_lt (b : Bool) : (if b then 1 else 0 : Nat) < 2 := by cases b <;> decide

theorem nop : Statement .nop := by intro _; decide
theorem add {x0 x1 x2} : Statement (.add x0 x1 x2) := by
  intro h
  simp only [Instr.wf, encodeBody, Bool.and_eq_true, decide_eq_true_eq] at *
  omega
theorem sub {x0 x1 x2} : Statement (.sub x0 x1 x2) := by
  intro h
  simp only [Instr.wf, encodeBody, Bool.and_eq_true, decide_eq_true_eq] at *
  omega
theorem and {x0 x1 x2} : Statement (.and x0 x1 x2) := by
  intro h
  simp only [Instr.wf, encodeBody, Bool.and_eq_true, decide_eq_true_eq] at *
  omega
theorem or {x0 x1 x2} : Statement (.or x0 x1 x2) := by
  intro h
  simp only [Instr.wf, encodeBody, Bool.and_eq_true, decide_eq_true_eq] at *
  omega
theorem xor {x0 x1 x2} : Statement (.xor x0 x1 x2) := by
  intro h
  simp only [Instr.wf, encodeBody, Bool.and_eq_true, decide_eq_true_eq] at *
  omega
theorem andn {x0 x1 x2} : Statement (.andn x0 x1 x2) := by
  intro h
  simp only [Instr.wf, encodeBody, Bool.and_eq_true, decide_eq_true_eq] at *
  omega
theorem shl {x0 x1 x2} : Statement (.shl x0 x1 x2) := by
  intro h
  simp only [Instr.wf, encodeBody, Bool.and_eq_true, decide_eq_true_eq] at *
  omega
theorem shr {x0 x1 x2} : Statement (.shr x0 x1 x2) := by
  intro h
  simp only [Instr.wf, encodeBody, Bool.and_eq_true, decide_eq_true_eq] at *
  omega
theorem sar {x0 x1 x2} : Statement (.sar x0 x1 x2) := by
  intro h
  simp only [Instr.wf, encodeBody, Bool.and_eq_true, decide_eq_true_eq] at *
  omega
theorem rol {x0 x1 x2} : Statement (.rol x0 x1 x2) := by
  intro h
  simp only [Instr.wf, encodeBody, Bool.and_eq_true, decide_eq_true_eq] at *
  omega
theorem min {x0 x1 x2} : Statement (.min x0 x1 x2) := by
  intro h
  simp only [Instr.wf, encodeBody, Bool.and_eq_true, decide_eq_true_eq] at *
  omega
theorem max {x0 x1 x2} : Statement (.max x0 x1 x2) := by
  intro h
  simp only [Instr.wf, encodeBody, Bool.and_eq_true, decide_eq_true_eq] at *
  omega
theorem minu {x0 x1 x2} : Statement (.minu x0 x1 x2) := by
  intro h
  simp only [Instr.wf, encodeBody, Bool.and_eq_true, decide_eq_true_eq] at *
  omega
theorem maxu {x0 x1 x2} : Statement (.maxu x0 x1 x2) := by
  intro h
  simp only [Instr.wf, encodeBody, Bool.and_eq_true, decide_eq_true_eq] at *
  omega
theorem seq {x0 x1 x2} : Statement (.seq x0 x1 x2) := by
  intro h
  simp only [Instr.wf, encodeBody, Bool.and_eq_true, decide_eq_true_eq] at *
  omega
theorem slt {x0 x1 x2} : Statement (.slt x0 x1 x2) := by
  intro h
  simp only [Instr.wf, encodeBody, Bool.and_eq_true, decide_eq_true_eq] at *
  omega
theorem sltu {x0 x1 x2} : Statement (.sltu x0 x1 x2) := by
  intro h
  simp only [Instr.wf, encodeBody, Bool.and_eq_true, decide_eq_true_eq] at *
  omega
theorem clz {x0 x1} : Statement (.clz x0 x1) := by
  intro h
  simp only [Instr.wf, encodeBody, Bool.and_eq_true, decide_eq_true_eq] at *
  omega
theorem popc {x0 x1} : Statement (.popc x0 x1) := by
  intro h
  simp only [Instr.wf, encodeBody, Bool.and_eq_true, decide_eq_true_eq] at *
  omega
theorem sel {x0 x1 x2} : Statement (.sel x0 x1 x2) := by
  intro h
  simp only [Instr.wf, encodeBody, Bool.and_eq_true, decide_eq_true_eq] at *
  omega
theorem mul {x0 x1 x2} : Statement (.mul x0 x1 x2) := by
  intro h
  simp only [Instr.wf, encodeBody, Bool.and_eq_true, decide_eq_true_eq] at *
  omega
theorem mulh {x0 x1 x2} : Statement (.mulh x0 x1 x2) := by
  intro h
  simp only [Instr.wf, encodeBody, Bool.and_eq_true, decide_eq_true_eq] at *
  omega
theorem mulhu {x0 x1 x2} : Statement (.mulhu x0 x1 x2) := by
  intro h
  simp only [Instr.wf, encodeBody, Bool.and_eq_true, decide_eq_true_eq] at *
  omega
theorem div {x0 x1 x2} : Statement (.div x0 x1 x2) := by
  intro h
  simp only [Instr.wf, encodeBody, Bool.and_eq_true, decide_eq_true_eq] at *
  omega
theorem divu {x0 x1 x2} : Statement (.divu x0 x1 x2) := by
  intro h
  simp only [Instr.wf, encodeBody, Bool.and_eq_true, decide_eq_true_eq] at *
  omega
theorem rem {x0 x1 x2} : Statement (.rem x0 x1 x2) := by
  intro h
  simp only [Instr.wf, encodeBody, Bool.and_eq_true, decide_eq_true_eq] at *
  omega
theorem remu {x0 x1 x2} : Statement (.remu x0 x1 x2) := by
  intro h
  simp only [Instr.wf, encodeBody, Bool.and_eq_true, decide_eq_true_eq] at *
  omega
theorem addi {x0 x1 x2} : Statement (.addi x0 x1 x2) := by
  intro h
  simp only [Instr.wf, encodeBody, Bool.and_eq_true, decide_eq_true_eq] at *
  omega
theorem andi {x0 x1 x2} : Statement (.andi x0 x1 x2) := by
  intro h
  simp only [Instr.wf, encodeBody, Bool.and_eq_true, decide_eq_true_eq] at *
  omega
theorem ori {x0 x1 x2} : Statement (.ori x0 x1 x2) := by
  intro h
  simp only [Instr.wf, encodeBody, Bool.and_eq_true, decide_eq_true_eq] at *
  omega
theorem xori {x0 x1 x2} : Statement (.xori x0 x1 x2) := by
  intro h
  simp only [Instr.wf, encodeBody, Bool.and_eq_true, decide_eq_true_eq] at *
  omega
theorem shli {x0 x1 x2} : Statement (.shli x0 x1 x2) := by
  intro h
  simp only [Instr.wf, encodeBody, Bool.and_eq_true, decide_eq_true_eq] at *
  omega
theorem shri {x0 x1 x2} : Statement (.shri x0 x1 x2) := by
  intro h
  simp only [Instr.wf, encodeBody, Bool.and_eq_true, decide_eq_true_eq] at *
  omega
theorem sari {x0 x1 x2} : Statement (.sari x0 x1 x2) := by
  intro h
  simp only [Instr.wf, encodeBody, Bool.and_eq_true, decide_eq_true_eq] at *
  omega
theorem slti {x0 x1 x2} : Statement (.slti x0 x1 x2) := by
  intro h
  simp only [Instr.wf, encodeBody, Bool.and_eq_true, decide_eq_true_eq] at *
  omega
theorem sltiu {x0 x1 x2} : Statement (.sltiu x0 x1 x2) := by
  intro h
  simp only [Instr.wf, encodeBody, Bool.and_eq_true, decide_eq_true_eq] at *
  omega
theorem lui {x0 x1} : Statement (.lui x0 x1) := by
  intro h
  simp only [Instr.wf, encodeBody, Bool.and_eq_true, decide_eq_true_eq] at *
  omega
theorem aget {x0 x1 x2} : Statement (.aget x0 x1 x2) := by
  intro h
  simp only [Instr.wf, encodeBody, Bool.and_eq_true, decide_eq_true_eq] at *
  have := bit_lt x2; omega
theorem aadd {x0 x1 x2 x3} : Statement (.aadd x0 x1 x2 x3) := by
  intro h
  simp only [Instr.wf, encodeBody, Bool.and_eq_true, decide_eq_true_eq] at *
  omega
theorem aaddi {x0 x1 x2} : Statement (.aaddi x0 x1 x2) := by
  intro h
  simp only [Instr.wf, encodeBody, Bool.and_eq_true, decide_eq_true_eq] at *
  omega
theorem aset {x0 x1 x2} : Statement (.aset x0 x1 x2) := by
  intro h
  simp only [Instr.wf, encodeBody, Bool.and_eq_true, decide_eq_true_eq] at *
  omega
theorem alui {x0 x1 x2} : Statement (.alui x0 x1 x2) := by
  intro h
  simp only [Instr.wf, encodeBody, Bool.and_eq_true, decide_eq_true_eq] at *
  omega
theorem asub {x0 x1 x2 x3} : Statement (.asub x0 x1 x2 x3) := by
  intro h
  simp only [Instr.wf, encodeBody, Bool.and_eq_true, decide_eq_true_eq] at *
  omega
theorem beq {x0 x1 x2} : Statement (.beq x0 x1 x2) := by
  intro h
  simp only [Instr.wf, encodeBody, Bool.and_eq_true, decide_eq_true_eq] at *
  omega
theorem bne {x0 x1 x2} : Statement (.bne x0 x1 x2) := by
  intro h
  simp only [Instr.wf, encodeBody, Bool.and_eq_true, decide_eq_true_eq] at *
  omega
theorem blt {x0 x1 x2} : Statement (.blt x0 x1 x2) := by
  intro h
  simp only [Instr.wf, encodeBody, Bool.and_eq_true, decide_eq_true_eq] at *
  omega
theorem bge {x0 x1 x2} : Statement (.bge x0 x1 x2) := by
  intro h
  simp only [Instr.wf, encodeBody, Bool.and_eq_true, decide_eq_true_eq] at *
  omega
theorem bltu {x0 x1 x2} : Statement (.bltu x0 x1 x2) := by
  intro h
  simp only [Instr.wf, encodeBody, Bool.and_eq_true, decide_eq_true_eq] at *
  omega
theorem bgeu {x0 x1 x2} : Statement (.bgeu x0 x1 x2) := by
  intro h
  simp only [Instr.wf, encodeBody, Bool.and_eq_true, decide_eq_true_eq] at *
  omega
theorem jmp {x0} : Statement (.jmp x0) := by
  intro h
  simp only [Instr.wf, encodeBody, Bool.and_eq_true, decide_eq_true_eq] at *
  omega
theorem call {x0} : Statement (.call x0) := by
  intro h
  simp only [Instr.wf, encodeBody, Bool.and_eq_true, decide_eq_true_eq] at *
  omega
theorem jr {x0 x1} : Statement (.jr x0 x1) := by
  intro h
  simp only [Instr.wf, encodeBody, Bool.and_eq_true, decide_eq_true_eq] at *
  omega
theorem loop {x0 x1 x2 x3} : Statement (.loop x0 x1 x2 x3) := by
  intro h
  simp only [Instr.wf, encodeBody, Bool.and_eq_true, decide_eq_true_eq] at *
  have := bit_lt x3; omega
theorem loopImm {x0 x1 x2 x3} : Statement (.loopImm x0 x1 x2 x3) := by
  intro h
  simp only [Instr.wf, encodeBody, Bool.and_eq_true, decide_eq_true_eq] at *
  have := bit_lt x3; omega
theorem loopq {x0 x1 x2 x3} : Statement (.loopq x0 x1 x2 x3) := by
  intro h
  simp only [Instr.wf, encodeBody, Bool.and_eq_true, decide_eq_true_eq] at *
  have := bit_lt x3; omega
theorem lbrk {x0 x1} : Statement (.lbrk x0 x1) := by
  intro h
  simp only [Instr.wf, encodeBody, Bool.and_eq_true, decide_eq_true_eq] at *
  omega
theorem lrot {x0} : Statement (.lrot x0) := by
  intro h
  simp only [Instr.wf, encodeBody, Bool.and_eq_true, decide_eq_true_eq] at *
  omega
theorem bqpush {x0 x1} : Statement (.bqpush x0 x1) := by
  intro h
  simp only [Instr.wf, encodeBody, Bool.and_eq_true, decide_eq_true_eq] at *
  omega
theorem bqbr {x0} : Statement (.bqbr x0) := by
  intro h
  simp only [Instr.wf, encodeBody, Bool.and_eq_true, decide_eq_true_eq] at *
  omega
theorem qput {x0 x1} : Statement (.qput x0 x1) := by
  intro h
  simp only [Instr.wf, encodeBody, Bool.and_eq_true, decide_eq_true_eq] at *
  omega
theorem qget {x0 x1} : Statement (.qget x0 x1) := by
  intro h
  simp only [Instr.wf, encodeBody, Bool.and_eq_true, decide_eq_true_eq] at *
  omega
theorem qdrop {x0} : Statement (.qdrop x0) := by
  intro h
  simp only [Instr.wf, encodeBody, Bool.and_eq_true, decide_eq_true_eq] at *
  omega
theorem qmark {x0} : Statement (.qmark x0) := by
  intro h
  simp only [Instr.wf, encodeBody, Bool.and_eq_true, decide_eq_true_eq] at *
  omega
theorem qstat {x0 x1 x2} : Statement (.qstat x0 x1 x2) := by
  intro h
  simp only [Instr.wf, encodeBody, Bool.and_eq_true, decide_eq_true_eq] at *
  omega
theorem hsig {x0} : Statement (.hsig x0) := by
  intro h
  simp only [Instr.wf, encodeBody, Bool.and_eq_true, decide_eq_true_eq] at *
  omega
theorem hwait {x0} : Statement (.hwait x0) := by
  intro h
  simp only [Instr.wf, encodeBody, Bool.and_eq_true, decide_eq_true_eq] at *
  omega
theorem htry {x0 x1} : Statement (.htry x0 x1) := by
  intro h
  simp only [Instr.wf, encodeBody, Bool.and_eq_true, decide_eq_true_eq] at *
  omega
theorem sread {x0 x1} : Statement (.sread x0 x1) := by
  intro h
  simp only [Instr.wf, encodeBody, Bool.and_eq_true, decide_eq_true_eq] at *
  have := sysRegCode_lt x1; omega
theorem swrite {x0 x1} : Statement (.swrite x0 x1) := by
  intro h
  simp only [Instr.wf, encodeBody, Bool.and_eq_true, decide_eq_true_eq] at *
  have := sysRegCode_lt x1; omega
theorem fence {x0 x1 x2 x3} : Statement (.fence x0 x1 x2 x3) := by
  intro h
  simp only [Instr.wf, encodeBody, Bool.and_eq_true, decide_eq_true_eq] at *
  have := scopeCode_lt x0; have := bit_lt x1; have := bit_lt x2; have := bit_lt x3; omega
theorem tick {x0 x1} : Statement (.tick x0 x1) := by
  intro h
  simp only [Instr.wf, encodeBody, Bool.and_eq_true, decide_eq_true_eq] at *
  have := bit_lt x1; omega
theorem trap {x0} : Statement (.trap x0) := by
  intro h
  simp only [Instr.wf, encodeBody, Bool.and_eq_true, decide_eq_true_eq] at *
  omega
theorem brk {x0} : Statement (.brk x0) := by
  intro h
  simp only [Instr.wf, encodeBody, Bool.and_eq_true, decide_eq_true_eq] at *
  omega
theorem ld {x0 x1 x2 x3 x4 x5} : Statement (.ld x0 x1 x2 x3 x4 x5) := by
  intro h
  simp only [Instr.wf, encodeBody, Bool.and_eq_true, decide_eq_true_eq] at *
  have := bit_lt x4; have := bit_lt x5; omega
theorem lds {x0 x1 x2 x3 x4 x5} : Statement (.lds x0 x1 x2 x3 x4 x5) := by
  intro h
  simp only [Instr.wf, encodeBody, Bool.and_eq_true, decide_eq_true_eq] at *
  have := bit_lt x4; have := bit_lt x5; omega
theorem lda {x0 x1 x2 x3 x4 x5} : Statement (.lda x0 x1 x2 x3 x4 x5) := by
  intro h
  simp only [Instr.wf, encodeBody, Bool.and_eq_true, decide_eq_true_eq] at *
  have := bit_lt x4; have := bit_lt x5; omega
theorem ldx {x0 x1 x2 x3 x4 x5} : Statement (.ldx x0 x1 x2 x3 x4 x5) := by
  intro h
  simp only [Instr.wf, encodeBody, Bool.and_eq_true, decide_eq_true_eq] at *
  have := bit_lt x4; have := bit_lt x5; omega
theorem st {x0 x1 x2 x3 x4 x5} : Statement (.st x0 x1 x2 x3 x4 x5) := by
  intro h
  simp only [Instr.wf, encodeBody, Bool.and_eq_true, decide_eq_true_eq] at *
  have := bit_lt x4; have := bit_lt x5; omega
theorem stl {x0 x1 x2 x3 x4 x5} : Statement (.stl x0 x1 x2 x3 x4 x5) := by
  intro h
  simp only [Instr.wf, encodeBody, Bool.and_eq_true, decide_eq_true_eq] at *
  have := bit_lt x4; have := bit_lt x5; omega
theorem ldq {x0 x1 x2 x3 x4 x5} : Statement (.ldq x0 x1 x2 x3 x4 x5) := by
  intro h
  simp only [Instr.wf, encodeBody, Bool.and_eq_true, decide_eq_true_eq] at *
  have := bit_lt x4; have := bit_lt x5; omega
theorem ldqs {x0 x1 x2 x3 x4 x5} : Statement (.ldqs x0 x1 x2 x3 x4 x5) := by
  intro h
  simp only [Instr.wf, encodeBody, Bool.and_eq_true, decide_eq_true_eq] at *
  have := bit_lt x4; have := bit_lt x5; omega
theorem stq {x0 x1 x2 x3 x4 x5} : Statement (.stq x0 x1 x2 x3 x4 x5) := by
  intro h
  simp only [Instr.wf, encodeBody, Bool.and_eq_true, decide_eq_true_eq] at *
  have := bit_lt x4; have := bit_lt x5; omega
theorem ldt {x0 x1 x2 x3 x4 x5} : Statement (.ldt x0 x1 x2 x3 x4 x5) := by
  intro h
  simp only [Instr.wf, encodeBody, Bool.and_eq_true, decide_eq_true_eq] at *
  have := bit_lt x4; have := bit_lt x5; omega
theorem stt {x0 x1 x2 x3 x4 x5} : Statement (.stt x0 x1 x2 x3 x4 x5) := by
  intro h
  simp only [Instr.wf, encodeBody, Bool.and_eq_true, decide_eq_true_eq] at *
  have := bit_lt x4; have := bit_lt x5; omega
theorem ldg {x0 x1 x2 x3 x4 x5 x6} : Statement (.ldg x0 x1 x2 x3 x4 x5 x6) := by
  intro h
  simp only [Instr.wf, encodeBody, Bool.and_eq_true, decide_eq_true_eq] at *
  have := bit_lt x5; have := bit_lt x6; omega
theorem sts {x0 x1 x2 x3 x4 x5 x6} : Statement (.sts x0 x1 x2 x3 x4 x5 x6) := by
  intro h
  simp only [Instr.wf, encodeBody, Bool.and_eq_true, decide_eq_true_eq] at *
  have := bit_lt x5; have := bit_lt x6; omega
theorem atadd {x0 x1 x2 x3 x4 x5} : Statement (.atadd x0 x1 x2 x3 x4 x5) := by
  intro h
  simp only [Instr.wf, encodeBody, Bool.and_eq_true, decide_eq_true_eq] at *
  have := scopeCode_lt x3; have := bit_lt x4; have := bit_lt x5; omega
theorem atmin {x0 x1 x2 x3 x4 x5} : Statement (.atmin x0 x1 x2 x3 x4 x5) := by
  intro h
  simp only [Instr.wf, encodeBody, Bool.and_eq_true, decide_eq_true_eq] at *
  have := scopeCode_lt x3; have := bit_lt x4; have := bit_lt x5; omega
theorem atmax {x0 x1 x2 x3 x4 x5} : Statement (.atmax x0 x1 x2 x3 x4 x5) := by
  intro h
  simp only [Instr.wf, encodeBody, Bool.and_eq_true, decide_eq_true_eq] at *
  have := scopeCode_lt x3; have := bit_lt x4; have := bit_lt x5; omega
theorem atminu {x0 x1 x2 x3 x4 x5} : Statement (.atminu x0 x1 x2 x3 x4 x5) := by
  intro h
  simp only [Instr.wf, encodeBody, Bool.and_eq_true, decide_eq_true_eq] at *
  have := scopeCode_lt x3; have := bit_lt x4; have := bit_lt x5; omega
theorem atmaxu {x0 x1 x2 x3 x4 x5} : Statement (.atmaxu x0 x1 x2 x3 x4 x5) := by
  intro h
  simp only [Instr.wf, encodeBody, Bool.and_eq_true, decide_eq_true_eq] at *
  have := scopeCode_lt x3; have := bit_lt x4; have := bit_lt x5; omega
theorem atand {x0 x1 x2 x3 x4 x5} : Statement (.atand x0 x1 x2 x3 x4 x5) := by
  intro h
  simp only [Instr.wf, encodeBody, Bool.and_eq_true, decide_eq_true_eq] at *
  have := scopeCode_lt x3; have := bit_lt x4; have := bit_lt x5; omega
theorem ator {x0 x1 x2 x3 x4 x5} : Statement (.ator x0 x1 x2 x3 x4 x5) := by
  intro h
  simp only [Instr.wf, encodeBody, Bool.and_eq_true, decide_eq_true_eq] at *
  have := scopeCode_lt x3; have := bit_lt x4; have := bit_lt x5; omega
theorem atxor {x0 x1 x2 x3 x4 x5} : Statement (.atxor x0 x1 x2 x3 x4 x5) := by
  intro h
  simp only [Instr.wf, encodeBody, Bool.and_eq_true, decide_eq_true_eq] at *
  have := scopeCode_lt x3; have := bit_lt x4; have := bit_lt x5; omega
theorem atswp {x0 x1 x2 x3 x4 x5} : Statement (.atswp x0 x1 x2 x3 x4 x5) := by
  intro h
  simp only [Instr.wf, encodeBody, Bool.and_eq_true, decide_eq_true_eq] at *
  have := scopeCode_lt x3; have := bit_lt x4; have := bit_lt x5; omega
theorem atcas {x0 x1 x2 x3 x4 x5} : Statement (.atcas x0 x1 x2 x3 x4 x5) := by
  intro h
  simp only [Instr.wf, encodeBody, Bool.and_eq_true, decide_eq_true_eq] at *
  have := scopeCode_lt x3; have := bit_lt x4; have := bit_lt x5; omega
theorem atfadd {x0 x1 x2 x3 x4 x5} : Statement (.atfadd x0 x1 x2 x3 x4 x5) := by
  intro h
  simp only [Instr.wf, encodeBody, Bool.and_eq_true, decide_eq_true_eq] at *
  have := scopeCode_lt x3; have := bit_lt x4; have := bit_lt x5; omega
theorem cpy {x0 x1 x2 x3 x4 x5 x6} : Statement (.cpy x0 x1 x2 x3 x4 x5 x6) := by
  intro h
  simp only [Instr.wf, encodeBody, Bool.and_eq_true, decide_eq_true_eq] at *
  have := bit_lt x5; have := bit_lt x6; omega
theorem cpyt {x0 x1 x2 x3 x4 x5 x6} : Statement (.cpyt x0 x1 x2 x3 x4 x5 x6) := by
  intro h
  simp only [Instr.wf, encodeBody, Bool.and_eq_true, decide_eq_true_eq] at *
  have := bit_lt x5; have := bit_lt x6; omega
theorem cpyd {x0 x1 x2 x3 x4 x5 x6} : Statement (.cpyd x0 x1 x2 x3 x4 x5 x6) := by
  intro h
  simp only [Instr.wf, encodeBody, Bool.and_eq_true, decide_eq_true_eq] at *
  have := bit_lt x5; have := bit_lt x6; omega
theorem wmcpy {x0 x1 x2 x3 x4 x5 x6} : Statement (.wmcpy x0 x1 x2 x3 x4 x5 x6) := by
  intro h
  simp only [Instr.wf, encodeBody, Bool.and_eq_true, decide_eq_true_eq] at *
  have := bit_lt x5; have := bit_lt x6; omega
theorem wmld {x0 x1 x2 x3 x4 x5} : Statement (.wmld x0 x1 x2 x3 x4 x5) := by
  intro h
  simp only [Instr.wf, encodeBody, Bool.and_eq_true, decide_eq_true_eq] at *
  have := bit_lt x4; have := bit_lt x5; omega
theorem wmadv {x0 x1 x2} : Statement (.wmadv x0 x1 x2) := by
  intro h
  simp only [Instr.wf, encodeBody, Bool.and_eq_true, decide_eq_true_eq] at *
  omega
theorem enq {x0 x1 x2 x3 x4 x5} : Statement (.enq x0 x1 x2 x3 x4 x5) := by
  intro h
  simp only [Instr.wf, encodeBody, Bool.and_eq_true, decide_eq_true_eq] at *
  have := bit_lt x4; have := bit_lt x5; omega
theorem pref {x0 x1 x2 x3 x4} : Statement (.pref x0 x1 x2 x3 x4) := by
  intro h
  simp only [Instr.wf, encodeBody, Bool.and_eq_true, decide_eq_true_eq] at *
  have := bit_lt x3; have := bit_lt x4; omega
theorem clean {x0 x1 x2 x3 x4} : Statement (.clean x0 x1 x2 x3 x4) := by
  intro h
  simp only [Instr.wf, encodeBody, Bool.and_eq_true, decide_eq_true_eq] at *
  have := bit_lt x3; have := bit_lt x4; omega
theorem inval {x0 x1 x2 x3 x4} : Statement (.inval x0 x1 x2 x3 x4) := by
  intro h
  simp only [Instr.wf, encodeBody, Bool.and_eq_true, decide_eq_true_eq] at *
  have := bit_lt x3; have := bit_lt x4; omega
theorem chk {x0 x1} : Statement (.chk x0 x1) := by
  intro h
  simp only [Instr.wf, encodeBody, Bool.and_eq_true, decide_eq_true_eq] at *
  omega
theorem vpop {x0 x1 x2 x3} : Statement (.vpop x0 x1 x2 x3) := by
  intro h
  simp only [Instr.wf, encodeBody, Bool.and_eq_true, decide_eq_true_eq] at *
  have := bit_lt x3; omega
theorem vpsh {x0 x1 x2 x3} : Statement (.vpsh x0 x1 x2 x3) := by
  intro h
  simp only [Instr.wf, encodeBody, Bool.and_eq_true, decide_eq_true_eq] at *
  have := bit_lt x3; omega
theorem vmov {x0 x1 x2 x3} : Statement (.vmov x0 x1 x2 x3) := by
  intro h
  simp only [Instr.wf, encodeBody, Bool.and_eq_true, decide_eq_true_eq] at *
  have := bit_lt x3; omega
theorem vbcst {x0 x1 x2 x3} : Statement (.vbcst x0 x1 x2 x3) := by
  intro h
  simp only [Instr.wf, encodeBody, Bool.and_eq_true, decide_eq_true_eq] at *
  have := bit_lt x3; omega
theorem vidx {x0 x1 x2} : Statement (.vidx x0 x1 x2) := by
  intro h
  simp only [Instr.wf, encodeBody, Bool.and_eq_true, decide_eq_true_eq] at *
  have := bit_lt x2; omega
theorem vlane {x0 x1 x2} : Statement (.vlane x0 x1 x2) := by
  intro h
  simp only [Instr.wf, encodeBody, Bool.and_eq_true, decide_eq_true_eq] at *
  omega
theorem vadd {x0 x1 x2 x3 x4 x5} : Statement (.vadd x0 x1 x2 x3 x4 x5) := by
  intro h
  simp only [Instr.wf, encodeBody, Bool.and_eq_true, decide_eq_true_eq] at *
  have := vtypeCode_lt x5; have := bit_lt x4; omega
theorem vsub {x0 x1 x2 x3 x4 x5} : Statement (.vsub x0 x1 x2 x3 x4 x5) := by
  intro h
  simp only [Instr.wf, encodeBody, Bool.and_eq_true, decide_eq_true_eq] at *
  have := vtypeCode_lt x5; have := bit_lt x4; omega
theorem vmul {x0 x1 x2 x3 x4 x5} : Statement (.vmul x0 x1 x2 x3 x4 x5) := by
  intro h
  simp only [Instr.wf, encodeBody, Bool.and_eq_true, decide_eq_true_eq] at *
  have := vtypeCode_lt x5; have := bit_lt x4; omega
theorem vfma {x0 x1 x2 x3 x4 x5} : Statement (.vfma x0 x1 x2 x3 x4 x5) := by
  intro h
  simp only [Instr.wf, encodeBody, Bool.and_eq_true, decide_eq_true_eq] at *
  have := vtypeCode_lt x5; have := bit_lt x4; omega
theorem vfms {x0 x1 x2 x3 x4 x5} : Statement (.vfms x0 x1 x2 x3 x4 x5) := by
  intro h
  simp only [Instr.wf, encodeBody, Bool.and_eq_true, decide_eq_true_eq] at *
  have := vtypeCode_lt x5; have := bit_lt x4; omega
theorem vfnma {x0 x1 x2 x3 x4 x5} : Statement (.vfnma x0 x1 x2 x3 x4 x5) := by
  intro h
  simp only [Instr.wf, encodeBody, Bool.and_eq_true, decide_eq_true_eq] at *
  have := vtypeCode_lt x5; have := bit_lt x4; omega
theorem vmin {x0 x1 x2 x3 x4 x5} : Statement (.vmin x0 x1 x2 x3 x4 x5) := by
  intro h
  simp only [Instr.wf, encodeBody, Bool.and_eq_true, decide_eq_true_eq] at *
  have := vtypeCode_lt x5; have := bit_lt x4; omega
theorem vmax {x0 x1 x2 x3 x4 x5} : Statement (.vmax x0 x1 x2 x3 x4 x5) := by
  intro h
  simp only [Instr.wf, encodeBody, Bool.and_eq_true, decide_eq_true_eq] at *
  have := vtypeCode_lt x5; have := bit_lt x4; omega
theorem vabs {x0 x1 x2 x3 x4} : Statement (.vabs x0 x1 x2 x3 x4) := by
  intro h
  simp only [Instr.wf, encodeBody, Bool.and_eq_true, decide_eq_true_eq] at *
  have := vtypeCode_lt x4; have := bit_lt x3; omega
theorem vneg {x0 x1 x2 x3 x4} : Statement (.vneg x0 x1 x2 x3 x4) := by
  intro h
  simp only [Instr.wf, encodeBody, Bool.and_eq_true, decide_eq_true_eq] at *
  have := vtypeCode_lt x4; have := bit_lt x3; omega
theorem vrcp {x0 x1 x2 x3 x4} : Statement (.vrcp x0 x1 x2 x3 x4) := by
  intro h
  simp only [Instr.wf, encodeBody, Bool.and_eq_true, decide_eq_true_eq] at *
  have := vtypeCode_lt x4; have := bit_lt x3; omega
theorem vrsq {x0 x1 x2 x3 x4} : Statement (.vrsq x0 x1 x2 x3 x4) := by
  intro h
  simp only [Instr.wf, encodeBody, Bool.and_eq_true, decide_eq_true_eq] at *
  have := vtypeCode_lt x4; have := bit_lt x3; omega
theorem vsqrt {x0 x1 x2 x3 x4} : Statement (.vsqrt x0 x1 x2 x3 x4) := by
  intro h
  simp only [Instr.wf, encodeBody, Bool.and_eq_true, decide_eq_true_eq] at *
  have := vtypeCode_lt x4; have := bit_lt x3; omega
theorem vex2 {x0 x1 x2 x3 x4} : Statement (.vex2 x0 x1 x2 x3 x4) := by
  intro h
  simp only [Instr.wf, encodeBody, Bool.and_eq_true, decide_eq_true_eq] at *
  have := vtypeCode_lt x4; have := bit_lt x3; omega
theorem vlg2 {x0 x1 x2 x3 x4} : Statement (.vlg2 x0 x1 x2 x3 x4) := by
  intro h
  simp only [Instr.wf, encodeBody, Bool.and_eq_true, decide_eq_true_eq] at *
  have := vtypeCode_lt x4; have := bit_lt x3; omega
theorem vtanh {x0 x1 x2 x3 x4} : Statement (.vtanh x0 x1 x2 x3 x4) := by
  intro h
  simp only [Instr.wf, encodeBody, Bool.and_eq_true, decide_eq_true_eq] at *
  have := vtypeCode_lt x4; have := bit_lt x3; omega
theorem vflr {x0 x1 x2 x3 x4} : Statement (.vflr x0 x1 x2 x3 x4) := by
  intro h
  simp only [Instr.wf, encodeBody, Bool.and_eq_true, decide_eq_true_eq] at *
  have := vtypeCode_lt x4; have := bit_lt x3; omega
theorem vceil {x0 x1 x2 x3 x4} : Statement (.vceil x0 x1 x2 x3 x4) := by
  intro h
  simp only [Instr.wf, encodeBody, Bool.and_eq_true, decide_eq_true_eq] at *
  have := vtypeCode_lt x4; have := bit_lt x3; omega
theorem vdiv {x0 x1 x2 x3 x4 x5} : Statement (.vdiv x0 x1 x2 x3 x4 x5) := by
  intro h
  simp only [Instr.wf, encodeBody, Bool.and_eq_true, decide_eq_true_eq] at *
  have := vtypeCode_lt x5; have := bit_lt x4; omega
theorem vand {x0 x1 x2 x3 x4} : Statement (.vand x0 x1 x2 x3 x4) := by
  intro h
  simp only [Instr.wf, encodeBody, Bool.and_eq_true, decide_eq_true_eq] at *
  have := bit_lt x4; omega
theorem vor {x0 x1 x2 x3 x4} : Statement (.vor x0 x1 x2 x3 x4) := by
  intro h
  simp only [Instr.wf, encodeBody, Bool.and_eq_true, decide_eq_true_eq] at *
  have := bit_lt x4; omega
theorem vxor {x0 x1 x2 x3 x4} : Statement (.vxor x0 x1 x2 x3 x4) := by
  intro h
  simp only [Instr.wf, encodeBody, Bool.and_eq_true, decide_eq_true_eq] at *
  have := bit_lt x4; omega
theorem vshl {x0 x1 x2 x3 x4} : Statement (.vshl x0 x1 x2 x3 x4) := by
  intro h
  simp only [Instr.wf, encodeBody, Bool.and_eq_true, decide_eq_true_eq] at *
  have := bit_lt x4; omega
theorem vshr {x0 x1 x2 x3 x4} : Statement (.vshr x0 x1 x2 x3 x4) := by
  intro h
  simp only [Instr.wf, encodeBody, Bool.and_eq_true, decide_eq_true_eq] at *
  have := bit_lt x4; omega
theorem vsar {x0 x1 x2 x3 x4} : Statement (.vsar x0 x1 x2 x3 x4) := by
  intro h
  simp only [Instr.wf, encodeBody, Bool.and_eq_true, decide_eq_true_eq] at *
  have := bit_lt x4; omega
theorem vcmp {x0 x1 x2 x3 x4 x5 x6} : Statement (.vcmp x0 x1 x2 x3 x4 x5 x6) := by
  intro h
  simp only [Instr.wf, encodeBody, Bool.and_eq_true, decide_eq_true_eq] at *
  have := condCode_lt x5; have := vtypeCode_lt x6; have := bit_lt x4; omega
theorem vsel {x0 x1 x2 x3 x4} : Statement (.vsel x0 x1 x2 x3 x4) := by
  intro h
  simp only [Instr.wf, encodeBody, Bool.and_eq_true, decide_eq_true_eq] at *
  have := bit_lt x4; omega
theorem vcommit {x0 x1 x2 x3} : Statement (.vcommit x0 x1 x2 x3) := by
  intro h
  simp only [Instr.wf, encodeBody, Bool.and_eq_true, decide_eq_true_eq] at *
  have := bit_lt x3; omega
theorem vchk {x0 x1 x2 x3} : Statement (.vchk x0 x1 x2 x3) := by
  intro h
  simp only [Instr.wf, encodeBody, Bool.and_eq_true, decide_eq_true_eq] at *
  have := bit_lt x3; omega
theorem pand {x0 x1 x2} : Statement (.pand x0 x1 x2) := by
  intro h
  simp only [Instr.wf, encodeBody, Bool.and_eq_true, decide_eq_true_eq] at *
  omega
theorem por {x0 x1 x2} : Statement (.por x0 x1 x2) := by
  intro h
  simp only [Instr.wf, encodeBody, Bool.and_eq_true, decide_eq_true_eq] at *
  omega
theorem pxor {x0 x1 x2} : Statement (.pxor x0 x1 x2) := by
  intro h
  simp only [Instr.wf, encodeBody, Bool.and_eq_true, decide_eq_true_eq] at *
  omega
theorem pandn {x0 x1 x2} : Statement (.pandn x0 x1 x2) := by
  intro h
  simp only [Instr.wf, encodeBody, Bool.and_eq_true, decide_eq_true_eq] at *
  omega
theorem pnot {x0 x1} : Statement (.pnot x0 x1) := by
  intro h
  simp only [Instr.wf, encodeBody, Bool.and_eq_true, decide_eq_true_eq] at *
  omega
theorem pmov {x0 x1} : Statement (.pmov x0 x1) := by
  intro h
  simp only [Instr.wf, encodeBody, Bool.and_eq_true, decide_eq_true_eq] at *
  omega
theorem pcnt {x0 x1} : Statement (.pcnt x0 x1) := by
  intro h
  simp only [Instr.wf, encodeBody, Bool.and_eq_true, decide_eq_true_eq] at *
  omega
theorem vcvt {x0 x1 x2 x3 x4 x5 x6} : Statement (.vcvt x0 x1 x2 x3 x4 x5 x6) := by
  intro h
  simp only [Instr.wf, encodeBody, Bool.and_eq_true, decide_eq_true_eq] at *
  have := cvtDstCode_lt x5; have := vtypeCode_lt x6; have := bit_lt x4; omega
theorem vqnt {x0 x1 x2 x3 x4 x5 x6} : Statement (.vqnt x0 x1 x2 x3 x4 x5 x6) := by
  intro h
  simp only [Instr.wf, encodeBody, Bool.and_eq_true, decide_eq_true_eq] at *
  have := blkCode_lt x5; have := vtypeCode_lt x6; have := bit_lt x4; omega
theorem vdqnt {x0 x1 x2 x3 x4 x5} : Statement (.vdqnt x0 x1 x2 x3 x4 x5) := by
  intro h
  simp only [Instr.wf, encodeBody, Bool.and_eq_true, decide_eq_true_eq] at *
  have := blkCode_lt x4; have := vtypeCode_lt x5; have := bit_lt x3; omega
theorem vred {x0 x1 x2 x3 x4 x5} : Statement (.vred x0 x1 x2 x3 x4 x5) := by
  intro h
  simp only [Instr.wf, encodeBody, Bool.and_eq_true, decide_eq_true_eq] at *
  have := redOpCode_lt x4; have := vtypeCode_lt x5; have := bit_lt x3; omega
theorem vscan {x0 x1 x2 x3 x4 x5} : Statement (.vscan x0 x1 x2 x3 x4 x5) := by
  intro h
  simp only [Instr.wf, encodeBody, Bool.and_eq_true, decide_eq_true_eq] at *
  have := redOpCode_lt x4; have := vtypeCode_lt x5; have := bit_lt x3; omega
theorem vperm {x0 x1 x2 x3 x4} : Statement (.vperm x0 x1 x2 x3 x4) := by
  intro h
  simp only [Instr.wf, encodeBody, Bool.and_eq_true, decide_eq_true_eq] at *
  have := bit_lt x4; omega
theorem vrot {x0 x1 x2 x3 x4} : Statement (.vrot x0 x1 x2 x3 x4) := by
  intro h
  simp only [Instr.wf, encodeBody, Bool.and_eq_true, decide_eq_true_eq] at *
  have := bit_lt x4; omega
theorem vrng {x0 x1 x2 x3 x4 x5} : Statement (.vrng x0 x1 x2 x3 x4 x5) := by
  intro h
  simp only [Instr.wf, encodeBody, Bool.and_eq_true, decide_eq_true_eq] at *
  have := bit_lt x4
  have : (if x5 then 3 else 0 : Nat) ≤ 3 := by cases x5 <;> decide
  omega
theorem tcfg {x0 x1 x2} : Statement (.tcfg x0 x1 x2) := by
  intro h
  simp only [Instr.wf, encodeBody, Bool.and_eq_true, decide_eq_true_eq] at *
  have := tileFmtCode_lt x2; omega
theorem tpop {x0 x1} : Statement (.tpop x0 x1) := by
  intro h
  simp only [Instr.wf, encodeBody, Bool.and_eq_true, decide_eq_true_eq] at *
  omega
theorem tpsh {x0 x1} : Statement (.tpsh x0 x1) := by
  intro h
  simp only [Instr.wf, encodeBody, Bool.and_eq_true, decide_eq_true_eq] at *
  omega
theorem tzero {x0} : Statement (.tzero x0) := by
  intro h
  simp only [Instr.wf, encodeBody, Bool.and_eq_true, decide_eq_true_eq] at *
  omega
theorem wld {x0 x1} : Statement (.wld x0 x1) := by
  intro h
  simp only [Instr.wf, encodeBody, Bool.and_eq_true, decide_eq_true_eq] at *
  omega
theorem wcfg {x0 x1 x2} : Statement (.wcfg x0 x1 x2) := by
  intro h
  simp only [Instr.wf, encodeBody, Bool.and_eq_true, decide_eq_true_eq] at *
  have := wmodeCode_lt x2; omega
theorem mma {x0 x1 x2 x3 x4 x5} : Statement (.mma x0 x1 x2 x3 x4 x5) := by
  intro h
  simp only [Instr.wf, encodeBody, Bool.and_eq_true, decide_eq_true_eq] at *
  have := bit_lt x5; omega
theorem mmat {x0 x1 x2 x3 x4 x5} : Statement (.mmat x0 x1 x2 x3 x4 x5) := by
  intro h
  simp only [Instr.wf, encodeBody, Bool.and_eq_true, decide_eq_true_eq] at *
  have := bit_lt x5; omega
theorem cemit {x0 x1 x2 x3 x4} : Statement (.cemit x0 x1 x2 x3 x4) := by
  intro h
  simp only [Instr.wf, encodeBody, Bool.and_eq_true, decide_eq_true_eq] at *
  have := emitDstCode_lt x3; have := bit_lt x4; omega
theorem cpsh {x0 x1} : Statement (.cpsh x0 x1) := by
  intro h
  simp only [Instr.wf, encodeBody, Bool.and_eq_true, decide_eq_true_eq] at *
  omega
theorem cpop {x0 x1} : Statement (.cpop x0 x1) := by
  intro h
  simp only [Instr.wf, encodeBody, Bool.and_eq_true, decide_eq_true_eq] at *
  omega
theorem cscl {x0 x1} : Statement (.cscl x0 x1) := by
  intro h
  simp only [Instr.wf, encodeBody, Bool.and_eq_true, decide_eq_true_eq] at *
  omega
theorem ftset {x0 x1} : Statement (.ftset x0 x1) := by
  intro h
  simp only [Instr.wf, encodeBody, Bool.and_eq_true, decide_eq_true_eq] at *
  omega
theorem ftget {x0 x1} : Statement (.ftget x0 x1) := by
  intro h
  simp only [Instr.wf, encodeBody, Bool.and_eq_true, decide_eq_true_eq] at *
  omega
theorem tmark {x0} : Statement (.tmark x0) := by
  intro h
  simp only [Instr.wf, encodeBody, Bool.and_eq_true, decide_eq_true_eq] at *
  omega
theorem tbudg {x0} : Statement (.tbudg x0) := by
  intro h
  simp only [Instr.wf, encodeBody, Bool.and_eq_true, decide_eq_true_eq] at *
  omega
theorem tstat {x0 x1 x2} : Statement (.tstat x0 x1 x2) := by
  intro h
  simp only [Instr.wf, encodeBody, Bool.and_eq_true, decide_eq_true_eq] at *
  omega
theorem ssig {x0 x1 x2 x3} : Statement (.ssig x0 x1 x2 x3) := by
  intro h
  simp only [Instr.wf, encodeBody, Bool.and_eq_true, decide_eq_true_eq] at *
  have := scopeCode_lt x2; have := bit_lt x3; omega
theorem swait {x0 x1 x2} : Statement (.swait x0 x1 x2) := by
  intro h
  simp only [Instr.wf, encodeBody, Bool.and_eq_true, decide_eq_true_eq] at *
  have := scopeCode_lt x1; have := bit_lt x2; omega
theorem stry {x0 x1 x2 x3} : Statement (.stry x0 x1 x2 x3) := by
  intro h
  simp only [Instr.wf, encodeBody, Bool.and_eq_true, decide_eq_true_eq] at *
  have := scopeCode_lt x2; have := bit_lt x3; omega
theorem binit {x0 x1 x2} : Statement (.binit x0 x1 x2) := by
  intro h
  simp only [Instr.wf, encodeBody, Bool.and_eq_true, decide_eq_true_eq] at *
  have := bit_lt x2; omega
theorem barv {x0 x1 x2 x3 x4} : Statement (.barv x0 x1 x2 x3 x4) := by
  intro h
  simp only [Instr.wf, encodeBody, Bool.and_eq_true, decide_eq_true_eq] at *
  have := barOpCode_lt x2; have := scopeCode_lt x3; have := bit_lt x4; omega
theorem bexp {x0 x1 x2} : Statement (.bexp x0 x1 x2) := by
  intro h
  simp only [Instr.wf, encodeBody, Bool.and_eq_true, decide_eq_true_eq] at *
  have := bit_lt x2; omega
theorem bwait {x0 x1 x2} : Statement (.bwait x0 x1 x2) := by
  intro h
  simp only [Instr.wf, encodeBody, Bool.and_eq_true, decide_eq_true_eq] at *
  have := scopeCode_lt x1; have := bit_lt x2; omega
theorem btest {x0 x1 x2} : Statement (.btest x0 x1 x2) := by
  intro h
  simp only [Instr.wf, encodeBody, Bool.and_eq_true, decide_eq_true_eq] at *
  have := bit_lt x2; omega
theorem acq {x0 x1 x2} : Statement (.acq x0 x1 x2) := by
  intro h
  simp only [Instr.wf, encodeBody, Bool.and_eq_true, decide_eq_true_eq] at *
  have := scopeCode_lt x1; have := bit_lt x2; omega
theorem rel {x0 x1 x2} : Statement (.rel x0 x1 x2) := by
  intro h
  simp only [Instr.wf, encodeBody, Bool.and_eq_true, decide_eq_true_eq] at *
  have := scopeCode_lt x1; have := bit_lt x2; omega
theorem publ {x0} : Statement (.publ x0) := by
  intro h
  simp only [Instr.wf, encodeBody, Bool.and_eq_true, decide_eq_true_eq] at *
  omega
theorem shopen {x0 x1} : Statement (.shopen x0 x1) := by
  intro h
  simp only [Instr.wf, encodeBody, Bool.and_eq_true, decide_eq_true_eq] at *
  omega
theorem remq {x0 x1} : Statement (.remq x0 x1) := by
  intro h
  simp only [Instr.wf, encodeBody, Bool.and_eq_true, decide_eq_true_eq] at *
  omega
theorem remqt {x0 x1 x2} : Statement (.remqt x0 x1 x2) := by
  intro h
  simp only [Instr.wf, encodeBody, Bool.and_eq_true, decide_eq_true_eq] at *
  omega
theorem wpop {x0 x1 x2} : Statement (.wpop x0 x1 x2) := by
  intro h
  simp only [Instr.wf, encodeBody, Bool.and_eq_true, decide_eq_true_eq] at *
  omega
theorem wpush {x0 x1} : Statement (.wpush x0 x1) := by
  intro h
  simp only [Instr.wf, encodeBody, Bool.and_eq_true, decide_eq_true_eq] at *
  omega
theorem wsteal {x0 x1 x2} : Statement (.wsteal x0 x1 x2) := by
  intro h
  simp only [Instr.wf, encodeBody, Bool.and_eq_true, decide_eq_true_eq] at *
  omega
theorem coll {x0 x1 x2} : Statement (.coll x0 x1 x2) := by
  intro h
  simp only [Instr.wf, encodeBody, Bool.and_eq_true, decide_eq_true_eq] at *
  have := bit_lt x2; omega
theorem upd {x0 x1} : Statement (.upd x0 x1) := by
  intro h
  simp only [Instr.wf, encodeBody, Bool.and_eq_true, decide_eq_true_eq] at *
  omega
theorem msrch {x0 x1} : Statement (.msrch x0 x1) := by
  intro h
  simp only [Instr.wf, encodeBody, Bool.and_eq_true, decide_eq_true_eq] at *
  omega
theorem gfork {x0 x1} : Statement (.gfork x0 x1) := by
  intro h
  simp only [Instr.wf, encodeBody, Bool.and_eq_true, decide_eq_true_eq] at *
  omega
theorem grewd {x0 x1 x2} : Statement (.grewd x0 x1 x2) := by
  intro h
  simp only [Instr.wf, encodeBody, Bool.and_eq_true, decide_eq_true_eq] at *
  omega
theorem gbar {x0 x1} : Statement (.gbar x0 x1) := by
  intro h
  simp only [Instr.wf, encodeBody, Bool.and_eq_true, decide_eq_true_eq] at *
  omega
theorem gcanc {x0 x1} : Statement (.gcanc x0 x1) := by
  intro h
  simp only [Instr.wf, encodeBody, Bool.and_eq_true, decide_eq_true_eq] at *
  omega
theorem gqry {x0 x1 x2} : Statement (.gqry x0 x1 x2) := by
  intro h
  simp only [Instr.wf, encodeBody, Bool.and_eq_true, decide_eq_true_eq] at *
  omega
theorem gyld {x0} : Statement (.gyld x0) := by
  intro h
  simp only [Instr.wf, encodeBody, Bool.and_eq_true, decide_eq_true_eq] at *
  omega
theorem vqry {x0 x1} : Statement (.vqry x0 x1) := by
  intro h
  simp only [Instr.wf, encodeBody, Bool.and_eq_true, decide_eq_true_eq] at *
  omega
theorem ecnt {x0 x1} : Statement (.ecnt x0 x1) := by
  intro h
  simp only [Instr.wf, encodeBody, Bool.and_eq_true, decide_eq_true_eq] at *
  omega
theorem tend : Statement .tend := by intro _; decide
theorem step {x0} : Statement (.step x0) := by
  intro h
  simp only [Instr.wf, encodeBody, Bool.and_eq_true, decide_eq_true_eq] at *
  omega
theorem tret : Statement .tret := by intro _; decide
theorem tack : Statement .tack := by intro _; decide
theorem sysc {x0} : Statement (.sysc x0) := by
  intro h
  simp only [Instr.wf, encodeBody, Bool.and_eq_true, decide_eq_true_eq] at *
  omega
theorem halt : Statement .halt := by intro _; decide
theorem sleep {x0} : Statement (.sleep x0) := by
  intro h
  simp only [Instr.wf, encodeBody, Bool.and_eq_true, decide_eq_true_eq] at *
  omega
theorem closingBranch : Statement .closingBranch := by intro _; decide
theorem scoreboardedResult : Statement .scoreboardedResult := by intro _; decide
theorem queueLoadLands : Statement .queueLoadLands := by intro _; decide
theorem mmaCompletion : Statement .mmaCompletion := by intro _; decide
theorem engineCompletion : Statement .engineCompletion := by intro _; decide
theorem collectiveCompletion : Statement .collectiveCompletion := by intro _; decide
theorem updCompletion : Statement .updCompletion := by intro _; decide
theorem msrchCompletion : Statement .msrchCompletion := by intro _; decide
theorem trapTaken : Statement .trapTaken := by intro _; decide
theorem qdead : Statement .qdead := by intro _; decide
theorem windowReplay : Statement .windowReplay := by intro _; decide
theorem timingTrip : Statement .timingTrip := by intro _; decide
theorem tileDispatch : Statement .tileDispatch := by intro _; decide
theorem nodeLaunch : Statement .nodeLaunch := by intro _; decide
theorem waiterReserving : Statement .waiterReserving := by intro _; decide
theorem nodeBoundaryPreemption : Statement .nodeBoundaryPreemption := by intro _; decide
theorem stepBoundary : Statement .stepBoundary := by intro _; decide
theorem stepMirrorComplete : Statement .stepMirrorComplete := by intro _; decide
theorem pontilCommit : Statement .pontilCommit := by intro _; decide
theorem pontilFailure : Statement .pontilFailure := by intro _; decide
theorem deviceLost : Statement .deviceLost := by intro _; decide
theorem gangStart : Statement .gangStart := by intro _; decide
theorem groupDeadlineExpiry : Statement .groupDeadlineExpiry := by intro _; decide
theorem groupResume : Statement .groupResume := by intro _; decide
theorem pageWalk : Statement .pageWalk := by intro _; decide
theorem translationBuildEnd : Statement .translationBuildEnd := by intro _; decide
theorem translationEviction : Statement .translationEviction := by intro _; decide
theorem substitutionInstall : Statement .substitutionInstall := by intro _; decide
theorem epochStart : Statement .epochStart := by intro _; decide
theorem budgetInterval : Statement .budgetInterval := by intro _; decide
theorem operatingPointStep : Statement .operatingPointStep := by intro _; decide
theorem rowFailure : Statement .rowFailure := by intro _; decide
theorem vaultEvacuation : Statement .vaultEvacuation := by intro _; decide
theorem tokenGrant : Statement .tokenGrant := by intro _; decide
theorem clockProposal : Statement .clockProposal := by intro _; decide
theorem flitReceived : Statement .flitReceived := by intro _; decide
theorem messageReceived : Statement .messageReceived := by intro _; decide
theorem messageUndeliverable : Statement .messageUndeliverable := by intro _; decide
theorem laneLoss : Statement .laneLoss := by intro _; decide
theorem lanesTrained : Statement .lanesTrained := by intro _; decide
theorem trainingTimeout : Statement .trainingTimeout := by intro _; decide
theorem firmwareRetry : Statement .firmwareRetry := by intro _; decide
theorem hostBridgeAccess : Statement .hostBridgeAccess := by intro _; decide
theorem boot : Statement .boot := by intro _; decide
theorem registerWrite : Statement .registerWrite := by intro _; decide
theorem evClear : Statement .evClear := by intro _; decide
theorem cplack : Statement .cplack := by intro _; decide
theorem heldGo : Statement .heldGo := by intro _; decide
theorem engineCpy : Statement .engineCpy := by intro _; decide
theorem engineCpyt : Statement .engineCpyt := by intro _; decide
theorem engineCpyd : Statement .engineCpyd := by intro _; decide
theorem engineWmcpy : Statement .engineWmcpy := by intro _; decide
theorem engineLdg : Statement .engineLdg := by intro _; decide
theorem engineSts : Statement .engineSts := by intro _; decide
theorem dieColl : Statement .dieColl := by intro _; decide
theorem dieCollSt : Statement .dieCollSt := by intro _; decide
theorem dieUpd : Statement .dieUpd := by intro _; decide
theorem dieMsrch : Statement .dieMsrch := by intro _; decide
theorem contextNop : Statement .contextNop := by intro _; decide
theorem nrun : Statement .nrun := by intro _; decide
theorem grun : Statement .grun := by intro _; decide
theorem gset : Statement .gset := by intro _; decide
theorem hostNop : Statement .hostNop := by intro _; decide
theorem cdefine : Statement .cdefine := by intro _; decide
theorem cload : Statement .cload := by intro _; decide
theorem chot : Statement .chot := by intro _; decide
theorem cpark : Statement .cpark := by intro _; decide
theorem cmigrate : Statement .cmigrate := by intro _; decide
theorem csuspend : Statement .csuspend := by intro _; decide
theorem cresume : Statement .cresume := by intro _; decide
theorem cretire : Statement .cretire := by intro _; decide
theorem crestore : Statement .crestore := by intro _; decide
theorem cquery : Statement .cquery := by intro _; decide
theorem olink : Statement .olink := by intro _; decide
theorem subload : Statement .subload := by intro _; decide
theorem opset : Statement .opset := by intro _; decide
theorem pbudget : Statement .pbudget := by intro _; decide
theorem pgrant : Statement .pgrant := by intro _; decide
theorem mread : Statement .mread := by intro _; decide
theorem keyset : Statement .keyset := by intro _; decide
theorem keyclr : Statement .keyclr := by intro _; decide
theorem shoot : Statement .shoot := by intro _; decide
theorem attest : Statement .attest := by intro _; decide
theorem cfgload : Statement .cfgload := by intro _; decide
theorem portctl : Statement .portctl := by intro _; decide
theorem sleepExpiry : Statement .sleepExpiry := by intro _; decide
theorem syscReply : Statement .syscReply := by intro _; decide
theorem trapStub : Statement .trapStub := by intro _; decide
theorem xlateStub : Statement .xlateStub := by intro _; decide
theorem loopIllegalKind : Statement .loopIllegalKind := by intro _; decide
theorem softError : Statement .softError := by intro _; decide
theorem endToEndResend : Statement .endToEndResend := by intro _; decide
theorem pcSample : Statement .pcSample := by intro _; decide

end Sys2Proof.Laws.Fits

end
end

