-- ==== Sys2Proof/Tests/Slice0.lean ====
section
/-! SUPPORT. Tests of the model, one step each, with expected results from spec/, and for each statement concrete states
and operands that meet its hypotheses. -/

open Sys2Proof Sys2Proof.Machine

section

set_option Elab.async false

namespace Sys2Proof.Machine.Tests

/-! ### Ill-formed terms, one for each check of each constructor: each is refused (R87-R102) -/

theorem test_wf_refuses_0 : (([
  .add 32 0 0, .add 0 32 0, .add 0 0 32, .sub 32 0 0, .sub 0 32 0, .sub 0 0 32, .and 32 0 0, .and 0 32 0, .and 0 0 32,
   .or 32 0 0, .or 0 32 0, .or 0 0 32, .xor 32 0 0, .xor 0 32 0, .xor 0 0 32, .andn 32 0 0, .andn 0 32 0, .andn 0 0 32,
   .shl 32 0 0, .shl 0 32 0, .shl 0 0 32, .shr 32 0 0, .shr 0 32 0, .shr 0 0 32, .sar 32 0 0, .sar 0 32 0, .sar 0 0 32,
   .rol 32 0 0, .rol 0 32 0, .rol 0 0 32, .min 32 0 0, .min 0 32 0, .min 0 0 32, .max 32 0 0, .max 0 32 0, .max 0 0 32,
   .minu 32 0 0, .minu 0 32 0, .minu 0 0 32, .maxu 32 0 0, .maxu 0 32 0, .maxu 0 0 32, .seq 32 0 0, .seq 0 32 0, .seq 0 0 32,
   .slt 32 0 0, .slt 0 32 0, .slt 0 0 32, .sltu 32 0 0, .sltu 0 32 0, .sltu 0 0 32, .clz 32 0, .clz 0 32, .popc 32 0,
   .popc 0 32, .sel 32 0 0]
  : List Instr).all fun i => i.wf == false) = true := by decide
theorem test_wf_refuses_1 : (([
  .sel 0 32 0, .sel 0 0 32, .mul 32 0 0, .mul 0 32 0, .mul 0 0 32, .mulh 32 0 0, .mulh 0 32 0, .mulh 0 0 32, .mulhu 32 0 0,
   .mulhu 0 32 0, .mulhu 0 0 32, .div 32 0 0, .div 0 32 0, .div 0 0 32, .divu 32 0 0, .divu 0 32 0, .divu 0 0 32,
   .rem 32 0 0, .rem 0 32 0, .rem 0 0 32, .remu 32 0 0, .remu 0 32 0, .remu 0 0 32, .addi 32 0 0, .addi 0 32 0,
   .addi 0 0 16384, .andi 32 0 0, .andi 0 32 0, .andi 0 0 16384, .ori 32 0 0, .ori 0 32 0, .ori 0 0 16384, .xori 32 0 0,
   .xori 0 32 0, .xori 0 0 16384, .shli 32 0 0, .shli 0 32 0, .shli 0 0 32, .shri 32 0 0, .shri 0 32 0, .shri 0 0 32,
   .sari 32 0 0, .sari 0 32 0, .sari 0 0 32, .slti 32 0 0, .slti 0 32 0, .slti 0 0 16384, .sltiu 32 0 0, .sltiu 0 32 0,
   .sltiu 0 0 16384, .lui 32 0, .lui 0 262144, .aget 32 0 false, .aget 0 16 false, .aadd 16 0 0 0, .aadd 0 16 0 0]
  : List Instr).all fun i => i.wf == false) = true := by decide
theorem test_wf_refuses_2 : (([
  .aadd 0 0 32 0, .aadd 0 0 0 8, .aaddi 16 0 0, .aaddi 0 16 0, .aaddi 0 0 65536, .aset 16 0 0, .aset 0 16 0, .aset 0 0 32,
   .alui 16 0 0, .alui 0 16 0, .alui 0 0 65536, .asub 16 0 0 0, .asub 0 16 0 0, .asub 0 0 32 0, .asub 0 0 0 8, .beq 32 0 0,
   .beq 0 32 0, .beq 0 0 16384, .bne 32 0 0, .bne 0 32 0, .bne 0 0 16384, .blt 32 0 0, .blt 0 32 0, .blt 0 0 16384,
   .bge 32 0 0, .bge 0 32 0, .bge 0 0 16384, .bltu 32 0 0, .bltu 0 32 0, .bltu 0 0 16384, .bgeu 32 0 0, .bgeu 0 32 0,
   .bgeu 0 0 16384, .jmp 16777216, .call 16777216, .jr 16 0, .jr 0 65536, .loop 4 0 0 false, .loop 0 32 0 false,
   .loop 0 0 16384 false, .loopImm 4 0 0 false, .loopImm 0 32 0 false, .loopImm 0 0 16384 false, .loopq 4 0 0 false,
   .loopq 0 16 0 false, .loopq 0 0 16384 false, .lbrk 4 0, .lbrk 0 32, .lrot 32, .bqpush 4 0, .bqpush 0 32, .bqbr 16777216,
   .qput 16 0, .qput 0 32, .qget 32 0, .qget 0 16]
  : List Instr).all fun i => i.wf == false) = true := by decide
theorem test_wf_refuses_3 : (([
  .qdrop 16, .qmark 16, .qstat 32 0 0, .qstat 0 16 0, .qstat 0 0 4, .hsig 12, .hwait 12, .htry 32 0, .htry 0 12,
   .sread 32 .verid, .swrite 32 .verid, .fence .dev false false false, .tick 32 false, .trap 524288, .brk 524288,
   .ld 32 0 0 0 false false, .ld 0 16 0 0 false false, .ld 0 0 2048 0 false false, .ld 0 0 0 4 false false,
   .lds 32 0 0 0 false false, .lds 0 16 0 0 false false, .lds 0 0 2048 0 false false, .lds 0 0 0 4 false false,
   .lda 32 0 0 0 false false, .lda 0 16 0 0 false false, .lda 0 0 2048 0 false false, .lda 0 0 0 4 false false,
   .ldx 32 0 0 0 false false, .ldx 0 16 0 0 false false, .ldx 0 0 2048 0 false false, .ldx 0 0 0 4 false false,
   .st 32 0 0 0 false false, .st 0 16 0 0 false false, .st 0 0 2048 0 false false, .st 0 0 0 4 false false,
   .stl 32 0 0 0 false false, .stl 0 16 0 0 false false, .stl 0 0 2048 0 false false, .stl 0 0 0 4 false false,
   .ldq 16 0 0 0 false false, .ldq 0 16 0 0 false false, .ldq 0 0 2048 0 false false, .ldq 0 0 0 4 false false,
   .ldqs 16 0 0 0 false false, .ldqs 0 16 0 0 false false, .ldqs 0 0 2048 0 false false, .ldqs 0 0 0 4 false false,
   .stq 16 0 0 0 false false, .stq 0 16 0 0 false false, .stq 0 0 2048 0 false false, .stq 0 0 0 4 false false,
   .ldt 16 0 0 0 false false, .ldt 0 16 0 0 false false, .ldt 0 0 2048 0 false false, .ldt 0 0 0 4 false false,
   .stt 16 0 0 0 false false]
  : List Instr).all fun i => i.wf == false) = true := by decide
theorem test_wf_refuses_4 : (([
  .stt 0 16 0 0 false false, .stt 0 0 2048 0 false false, .stt 0 0 0 4 false false, .ldg 32 0 0 0 0 false false,
   .ldg 0 16 0 0 0 false false, .ldg 0 0 16 0 0 false false, .ldg 0 0 0 32 0 false false, .ldg 0 0 0 0 16 false false,
   .sts 32 0 0 0 0 false false, .sts 0 16 0 0 0 false false, .sts 0 0 16 0 0 false false, .sts 0 0 0 32 0 false false,
   .sts 0 0 0 0 16 false false, .atadd 32 0 0 .dev false false, .atadd 0 16 0 .dev false false,
   .atadd 0 0 32 .dev false false, .atmin 32 0 0 .dev false false, .atmin 0 16 0 .dev false false,
   .atmin 0 0 32 .dev false false, .atmax 32 0 0 .dev false false, .atmax 0 16 0 .dev false false,
   .atmax 0 0 32 .dev false false, .atminu 32 0 0 .dev false false, .atminu 0 16 0 .dev false false,
   .atminu 0 0 32 .dev false false, .atmaxu 32 0 0 .dev false false, .atmaxu 0 16 0 .dev false false,
   .atmaxu 0 0 32 .dev false false, .atand 32 0 0 .dev false false, .atand 0 16 0 .dev false false,
   .atand 0 0 32 .dev false false, .ator 32 0 0 .dev false false, .ator 0 16 0 .dev false false,
   .ator 0 0 32 .dev false false, .atxor 32 0 0 .dev false false, .atxor 0 16 0 .dev false false,
   .atxor 0 0 32 .dev false false, .atswp 32 0 0 .dev false false, .atswp 0 16 0 .dev false false,
   .atswp 0 0 32 .dev false false, .atcas 32 0 0 .dev false false, .atcas 0 16 0 .dev false false,
   .atcas 0 0 32 .dev false false, .atfadd 32 0 0 .dev false false, .atfadd 0 16 0 .dev false false,
   .atfadd 0 0 32 .dev false false, .cpy 32 0 0 0 0 false false, .cpy 0 16 0 0 0 false false, .cpy 0 0 16 0 0 false false,
   .cpy 0 0 0 32 0 false false, .cpy 0 0 0 0 16 false false, .cpyt 32 0 0 0 0 false false, .cpyt 0 16 0 0 0 false false,
   .cpyt 0 0 16 0 0 false false, .cpyt 0 0 0 32 0 false false, .cpyt 0 0 0 0 16 false false]
  : List Instr).all fun i => i.wf == false) = true := by decide
theorem test_wf_refuses_5 : (([
  .cpyd 32 0 0 0 0 false false, .cpyd 0 16 0 0 0 false false, .cpyd 0 0 16 0 0 false false, .cpyd 0 0 0 32 0 false false,
   .cpyd 0 0 0 0 16 false false, .wmcpy 32 0 0 0 0 false false, .wmcpy 0 16 0 0 0 false false, .wmcpy 0 0 8 0 0 false false,
   .wmcpy 0 0 0 32 0 false false, .wmcpy 0 0 0 0 16 false false, .wmld 8 0 0 0 false false, .wmld 0 16 0 0 false false,
   .wmld 0 0 2048 0 false false, .wmld 0 0 0 4 false false, .wmadv 8 0 0, .wmadv 0 32 0, .wmadv 0 0 4,
   .enq 32 0 0 0 false false, .enq 0 16 0 0 false false, .enq 0 0 16 0 false false, .enq 0 0 0 16 false false,
   .pref 16 0 0 false false, .pref 0 2048 0 false false, .pref 0 0 4 false false, .clean 16 0 0 false false,
   .clean 0 2048 0 false false, .clean 0 0 4 false false, .inval 16 0 0 false false, .inval 0 2048 0 false false,
   .inval 0 0 4 false false, .chk 32 0, .chk 0 16384, .vpop 64 0 0 false, .vpop 0 16 0 false, .vpop 0 0 8 false,
   .vpsh 16 0 0 false, .vpsh 0 64 0 false, .vpsh 0 0 8 false, .vmov 64 0 0 false, .vmov 0 64 0 false, .vmov 0 0 8 false,
   .vbcst 64 0 0 false, .vbcst 0 32 0 false, .vbcst 0 0 8 false, .vidx 64 0 false, .vidx 0 8 false, .vlane 32 0 0,
   .vlane 0 64 0, .vlane 0 0 32, .vadd 64 0 0 0 false .f32, .vadd 0 64 0 0 false .f32, .vadd 0 0 64 0 false .f32,
   .vadd 0 0 0 8 false .f32, .vsub 64 0 0 0 false .f32, .vsub 0 64 0 0 false .f32, .vsub 0 0 64 0 false .f32]
  : List Instr).all fun i => i.wf == false) = true := by decide
theorem test_wf_refuses_6 : (([
  .vsub 0 0 0 8 false .f32, .vmul 64 0 0 0 false .f32, .vmul 0 64 0 0 false .f32, .vmul 0 0 64 0 false .f32,
   .vmul 0 0 0 8 false .f32, .vfma 64 0 0 0 false .f32, .vfma 0 64 0 0 false .f32, .vfma 0 0 64 0 false .f32,
   .vfma 0 0 0 8 false .f32, .vfma 0 0 0 0 false .i32, .vfms 64 0 0 0 false .f32, .vfms 0 64 0 0 false .f32,
   .vfms 0 0 64 0 false .f32, .vfms 0 0 0 8 false .f32, .vfms 0 0 0 0 false .i32, .vfnma 64 0 0 0 false .f32,
   .vfnma 0 64 0 0 false .f32, .vfnma 0 0 64 0 false .f32, .vfnma 0 0 0 8 false .f32, .vfnma 0 0 0 0 false .i32,
   .vmin 64 0 0 0 false .f32, .vmin 0 64 0 0 false .f32, .vmin 0 0 64 0 false .f32, .vmin 0 0 0 8 false .f32,
   .vmax 64 0 0 0 false .f32, .vmax 0 64 0 0 false .f32, .vmax 0 0 64 0 false .f32, .vmax 0 0 0 8 false .f32,
   .vabs 64 0 0 false .f32, .vabs 0 64 0 false .f32, .vabs 0 0 8 false .f32, .vneg 64 0 0 false .f32,
   .vneg 0 64 0 false .f32, .vneg 0 0 8 false .f32, .vrcp 64 0 0 false .f32, .vrcp 0 64 0 false .f32, .vrcp 0 0 8 false .f32,
   .vrcp 0 0 0 false .i32, .vrsq 64 0 0 false .f32, .vrsq 0 64 0 false .f32, .vrsq 0 0 8 false .f32, .vrsq 0 0 0 false .i32,
   .vsqrt 64 0 0 false .f32, .vsqrt 0 64 0 false .f32, .vsqrt 0 0 8 false .f32, .vsqrt 0 0 0 false .i32,
   .vex2 64 0 0 false .f32, .vex2 0 64 0 false .f32, .vex2 0 0 8 false .f32, .vex2 0 0 0 false .i32, .vlg2 64 0 0 false .f32,
   .vlg2 0 64 0 false .f32, .vlg2 0 0 8 false .f32, .vlg2 0 0 0 false .i32, .vtanh 64 0 0 false .f32,
   .vtanh 0 64 0 false .f32]
  : List Instr).all fun i => i.wf == false) = true := by decide
theorem test_wf_refuses_7 : (([
  .vtanh 0 0 8 false .f32, .vtanh 0 0 0 false .i32, .vflr 64 0 0 false .f32, .vflr 0 64 0 false .f32, .vflr 0 0 8 false .f32,
   .vflr 0 0 0 false .i32, .vceil 64 0 0 false .f32, .vceil 0 64 0 false .f32, .vceil 0 0 8 false .f32,
   .vceil 0 0 0 false .i32, .vdiv 64 0 0 0 false .f32, .vdiv 0 64 0 0 false .f32, .vdiv 0 0 64 0 false .f32,
   .vdiv 0 0 0 8 false .f32, .vdiv 0 0 0 0 false .i32, .vand 64 0 0 0 false, .vand 0 64 0 0 false, .vand 0 0 64 0 false,
   .vand 0 0 0 8 false, .vor 64 0 0 0 false, .vor 0 64 0 0 false, .vor 0 0 64 0 false, .vor 0 0 0 8 false,
   .vxor 64 0 0 0 false, .vxor 0 64 0 0 false, .vxor 0 0 64 0 false, .vxor 0 0 0 8 false, .vshl 64 0 0 0 false,
   .vshl 0 64 0 0 false, .vshl 0 0 64 0 false, .vshl 0 0 0 8 false, .vshr 64 0 0 0 false, .vshr 0 64 0 0 false,
   .vshr 0 0 64 0 false, .vshr 0 0 0 8 false, .vsar 64 0 0 0 false, .vsar 0 64 0 0 false, .vsar 0 0 64 0 false,
   .vsar 0 0 0 8 false, .vcmp 16 0 0 0 false .eq .f32, .vcmp 0 64 0 0 false .eq .f32, .vcmp 0 0 64 0 false .eq .f32,
   .vcmp 0 0 0 8 false .eq .f32, .vsel 64 0 0 0 false, .vsel 0 64 0 0 false, .vsel 0 0 64 0 false, .vsel 0 0 0 8 false,
   .vcommit 64 0 0 false, .vcommit 0 64 0 false, .vcommit 0 0 8 false, .vchk 16 0 0 false, .vchk 0 64 0 false,
   .vchk 0 0 8 false, .pand 16 0 0, .pand 0 16 0, .pand 0 0 16]
  : List Instr).all fun i => i.wf == false) = true := by decide
theorem test_wf_refuses_8 : (([
  .por 16 0 0, .por 0 16 0, .por 0 0 16, .pxor 16 0 0, .pxor 0 16 0, .pxor 0 0 16, .pandn 16 0 0, .pandn 0 16 0,
   .pandn 0 0 16, .pnot 16 0, .pnot 0 16, .pmov 16 0, .pmov 0 16, .pcnt 32 0, .pcnt 0 16, .vcvt 64 0 0 0 false .f32 .f32,
   .vcvt 0 64 0 0 false .f32 .f32, .vcvt 0 0 8 0 false .f32 .f32, .vcvt 0 0 0 8 false .f32 .f32,
   .vqnt 64 0 0 0 false .mx .f32, .vqnt 0 64 0 0 false .mx .f32, .vqnt 0 0 8 0 false .mx .f32, .vqnt 0 0 0 8 false .mx .f32,
   .vdqnt 64 0 0 false .mx .f32, .vdqnt 0 64 0 false .mx .f32, .vdqnt 0 0 8 false .mx .f32, .vred 64 0 0 false .add .f32,
   .vred 0 64 0 false .add .f32, .vred 0 0 8 false .add .f32, .vscan 64 0 0 false .add .f32, .vscan 0 64 0 false .add .f32,
   .vscan 0 0 8 false .add .f32, .vperm 64 0 0 0 false, .vperm 0 64 0 0 false, .vperm 0 0 64 0 false, .vperm 0 0 0 8 false,
   .vrot 64 0 0 0 false, .vrot 0 64 0 0 false, .vrot 0 0 32 0 false, .vrot 0 0 0 8 false, .vrng 64 0 0 0 false false,
   .vrng 0 32 0 0 false false, .vrng 0 0 32 0 false false, .vrng 0 0 0 8 false false, .tcfg 8 0 .bf16, .tcfg 0 64 .bf16,
   .tpop 8 0, .tpop 0 16, .tpsh 16 0, .tpsh 0 8, .tzero 8, .wld 4 0, .wld 0 16, .wcfg 4 0 .dense, .wcfg 0 16 .dense,
   .mma 4 0 0 0 0 false]
  : List Instr).all fun i => i.wf == false) = true := by decide
theorem test_wf_refuses_9 : (([
  .mma 0 8 0 0 0 false, .mma 0 0 4 0 0 false, .mma 0 0 0 4 0 false, .mma 0 0 0 0 16 false, .mmat 4 0 0 0 0 false,
   .mmat 0 8 0 0 0 false, .mmat 0 0 4 0 0 false, .mmat 0 0 0 4 0 false, .mmat 0 0 0 0 16 false, .cemit 4 0 0 .f32 false,
   .cemit 0 16 0 .f32 false, .cemit 0 0 8 .f32 false, .cpsh 4 0, .cpsh 0 16, .cpop 4 0, .cpop 0 16, .cscl 4 0, .cscl 0 32,
   .ftset 16 0, .ftset 0 32, .ftget 32 0, .ftget 0 16, .tmark 65536, .tbudg 32, .tstat 32 0 0, .tstat 0 8 0, .tstat 0 0 4,
   .ssig 16 0 .dev false, .ssig 0 32 .dev false, .swait 16 .dev false, .stry 32 0 .dev false, .stry 0 16 .dev false,
   .binit 16 0 false, .binit 0 32 false, .barv 16 0 .none .dev false, .barv 0 32 .none .dev false, .bexp 16 0 false,
   .bexp 0 32 false, .bwait 16 .dev false, .btest 32 0 false, .btest 0 16 false, .acq 16 .dev false, .rel 16 .dev false,
   .publ 16, .shopen 32 0, .shopen 0 16, .remq 16 0, .remq 0 16, .remqt 32 0 0, .remqt 0 16 0, .remqt 0 0 16, .wpop 32 0 0,
   .wpop 0 16 0, .wpop 0 0 16, .wpush 16 0, .wpush 0 16]
  : List Instr).all fun i => i.wf == false) = true := by decide
theorem test_wf_refuses_10 : (([
  .wsteal 32 0 0, .wsteal 0 16 0, .wsteal 0 0 16, .coll 32 0 false, .coll 0 16 false, .upd 32 0, .upd 0 16, .msrch 32 0,
   .msrch 0 16, .gfork 32 0, .gfork 0 16, .grewd 32 0 0, .grewd 0 16 0, .grewd 0 0 32, .gbar 32 0, .gbar 0 16, .gcanc 16 0,
   .gcanc 0 32, .gqry 32 0 0, .gqry 0 16 0, .gqry 0 0 6, .gyld 16, .vqry 32 0, .vqry 0 32, .ecnt 32 0, .ecnt 0 32, .step 32,
   .sysc 524288, .sleep 32]
  : List Instr).all fun i => i.wf == false) = true := by decide

/-! The steps without an encoding are no words. -/

theorem test_events_have_no_word_0 : (([
  .closingBranch, .scoreboardedResult, .queueLoadLands, .mmaCompletion, .engineCompletion, .collectiveCompletion,
   .updCompletion, .msrchCompletion, .trapTaken, .qdead, .windowReplay, .timingTrip, .tileDispatch, .nodeLaunch,
   .waiterReserving, .nodeBoundaryPreemption, .stepBoundary, .stepMirrorComplete, .pontilCommit, .pontilFailure, .deviceLost,
   .gangStart, .groupDeadlineExpiry, .groupResume, .pageWalk, .translationBuildEnd, .translationEviction,
   .substitutionInstall, .epochStart, .budgetInterval, .operatingPointStep, .rowFailure, .vaultEvacuation, .tokenGrant,
   .clockProposal, .flitReceived, .messageReceived, .messageUndeliverable, .laneLoss, .lanesTrained, .trainingTimeout,
   .firmwareRetry, .hostBridgeAccess, .boot, .registerWrite, .evClear, .cplack, .heldGo, .engineCpy, .engineCpyt,
   .engineCpyd, .engineWmcpy, .engineLdg, .engineSts, .dieColl, .dieCollSt]
  : List Instr).all fun i => i.wf == false) = true := by decide
theorem test_events_have_no_word_1 : (([
  .dieUpd, .dieMsrch, .contextNop, .nrun, .grun, .gset, .hostNop, .cdefine, .cload, .chot, .cpark, .cmigrate, .csuspend,
   .cresume, .cretire, .crestore, .cquery, .olink, .subload, .opset, .pbudget, .pgrant, .mread, .keyset, .keyclr, .shoot,
   .attest, .cfgload, .portctl, .sleepExpiry, .syscReply, .trapStub, .xlateStub, .loopIllegalKind, .softError,
   .endToEndResend, .pcSample]
  : List Instr).all fun i => i.wf == false) = true := by decide
/-! ### Words of every family, written out from the encodings of spec/04_encoding.md, decode to their instructions -/

/-- The decoder reads the word as this instruction on this cluster. -/
def reads (cl w : Nat) (i : Instr) : Bool := match decode cl w with | .ok j => j == i | .error _ => false

/-- The decoder refuses the word on this cluster. -/
def refused (cl w : Nat) : Bool := match decode cl w with | .ok _ => false | .error _ => true

theorem test_decode_scalar : reads 0 0x02629600 (.mul 12 10 11) && reads 3 0x40000000 .nop && reads 1 0x03500004 (.addi 10 0 4)
    && reads 2 0x0439C01E (.andi 7 7 30) && reads 0 0x0D38C001 (.aget 7 3 true) = true := by decide
theorem test_decode_address : reads 0 0x13201234 (.alui 2 0 0x1234) && reads 0 0x12223000 (.aset 2 2 6)
    && reads 0 0x1132FFFC (.aaddi 3 2 0xFFFC) && reads 0 0x10213800 (.aadd 2 1 7 0) = true := by decide
theorem test_decode_control : reads 1 0x21618005 (.loop 1 6 5 true) && reads 0 0x18300003 (.beq 6 0 3)
    && reads 0 0x22108005 (.loopq 0 2 5 false) = true := by decide
theorem test_decode_queue_system : reads 0 0x29408000 (.qget 8 2) && reads 0 0x2D100000 (.hsig 2) && reads 2 0x2E480000 (.hwait 9)
    && reads 0 0x31018017 (.swrite 6 .xvec) && reads 0 0x30380002 (.sread 7 .kctl) && reads 0 0x3200001C (.fence .dev true true false)
    && reads 0 0x32000031 (.fence .core false true true) = true := by decide
theorem test_decode_access : reads 0 0x80398020 (.ld 7 3 2 0 false false) && reads 0 0x81310000 (.lds 6 2 0 0 false false)
    && reads 0 0x90321C20 (.atadd 6 4 7 .dev false false) && reads 0 0x9C098010 (.inval 3 1 0 false false)
    && reads 0 0x9D480004 (.chk 9 4) = true := by decide
theorem test_decode_engine : reads 0 0x9461AA19 (.cpy 12 3 5 8 6 false true) && reads 0 0x97610A02 (.wmcpy 12 2 1 8 0 true false)
    && reads 0 0x99098000 (.wmadv 1 6 0) = true := by decide
theorem test_decode_vector : reads 1 0x80040000 (.vpop 1 0 0 false) && reads 1 0x81084000 (.vpsh 2 4 0 false)
    && reads 1 0x83087000 (.vbcst 2 7 0 false) && reads 1 0x8A0C1080 (.vmul 3 1 2 0 false .f32)
    && reads 1 0x9B103008 (.vcommit 4 3 1 false) && reads 1 0xA6081180 (.vrot 2 1 6 0 false) = true := by decide
theorem test_decode_matrix : reads 2 0x8003F000 (.tcfg 0 63 .bf16) && reads 2 0x84080000 (.wld 0 2) && reads 2 0x88575000 (.mma 1 2 3 1 4 true)
    && reads 2 0x8C0C8000 (.cemit 0 3 0 .bf16 false) && reads 2 0x93300000 (.tbudg 6) && reads 2 0x95302000 (.tstat 6 0 1) = true := by decide
theorem test_decode_objects : reads 3 0x80021E00 (.ssig 4 7 .dev false) && reads 3 0x84020000 (.binit 4 0 false)
    && reads 3 0x85021E08 (.barv 4 7 .set .dev false) && reads 3 0x86021C00 (.bexp 4 7 false) && reads 3 0x87028200 (.bwait 5 .dev false)
    && reads 3 0x923A1400 (.wpop 7 4 5) && reads 3 0x943A1400 (.wsteal 7 4 5) = true := by decide
theorem test_decode_groups : reads 3 0x9D321C00 (.grewd 6 4 7) && reads 3 0x9F021C00 (.gcanc 4 7) && reads 3 0xA0320008 (.gqry 6 4 4)
    && reads 3 0xA6000000 .tend && reads 3 0xA8000000 .tret = true := by decide
/-- A register number out of range and the reserved major opcodes of each half are refused (R87, R106); bits that no field
covers are ignored (R88). -/
theorem test_decode_refuses : refused 1 0x80398020 && refused 0 0x8D000000 && refused 1 0x86000000 && refused 2 0x8A000000
    && refused 3 0x83000000 && reads 3 0xA6000001 .tend && reads 0 0x00000001 .nop = true := by decide
/-- The encoder gives the words the spec prints. -/
theorem test_encode : (encode false (.mul 12 10 11), encode true .nop, encode false (.mma 1 2 3 1 4 true), encode false (.grewd 6 4 7))
    = (0x02629600, 0x40000000, 0x88575000, 0x9D321C00) := by decide
/-- A word belongs to the cluster whose half it stands in. -/
theorem test_cluster : (Instr.ld 7 3 2 0 false false).wfOn 0 && !(Instr.ld 7 3 2 0 false false).wfOn 1 && (Instr.nop).wfOn 3
    && !(Instr.nop).wfOn 4 && !(Instr.tend).wfOn 0 = true := by decide

/-! ### One step each, with the result the spec gives -/

/-- The state after a step that goes on. -/
def after (i : Instr) (s : State) : State := match exec i s with | .next t => t | _ => State.reset

/-- Cluster `cl` of core 0 runs at word 0 of a section of 64 words, with these registers and this core. -/
def probe (cl : Nat) (k : Clu) (c : Core) : State :=
  { State.reset with cores := [(0, { c with busy := true, clu := [(cl, { k with active := true, words := 64 })] })], cl := cl }

/-- Scalars s1, s2, ... of a cluster. -/
def regs (l : List Nat) : Clu := { s := l.zipIdx.map fun x => (x.2 + 1, { val := BitVec.ofNat 32 x.1 }) }

/-- What scalar `d` reads `k` words after the word. -/
def result (k d : Nat) (i : Instr) (s : State) : Nat := (readS (clu (wordsLater k (after i s))) d).val.toNat

/-- A leaf of a 64 KiB page in frame 1: valid, writable, of kind C (R368). -/
def leafC : BitVec 64 := 0x20013

/-- Core 0 holds the translation of page 0, at which a0 points. -/
def paged (cl : Nat) (k : Clu) (c : Core) : State := probe cl k { c with look := [{ ctx := 0, page := 0, leaf := leafC }] }

theorem test_add_wraps : result 0 3 (.add 3 1 2) (probe 0 (regs [0xFFFFFFFF, 2]) {}) = 1 := by decide +kernel
theorem test_sub_wraps : result 0 3 (.sub 3 1 2) (probe 3 (regs [1, 2]) {}) = 0xFFFFFFFF := by decide +kernel
theorem test_shift_amount : result 0 3 (.shl 3 1 2) (probe 0 (regs [1, 33]) {}) = 2 := by decide +kernel
theorem test_sar : result 0 3 (.sar 3 1 2) (probe 0 (regs [0x80000000, 4]) {}) = 0xF8000000 := by decide +kernel
theorem test_clz_zero : result 0 3 (.clz 3 1) (probe 0 (regs [0]) {}) = 32 := by decide +kernel
theorem test_sel_old_destination : result 0 3 (.sel 3 1 2) (probe 0 (regs [7, 9, 1]) {}) = 7 := by decide +kernel
/-- The examples of R114. -/
theorem test_mulh : result 2 3 (.mulh 3 1 2) (probe 0 (regs [0x80000000, 0x80000000]) {}) = 0x40000000 := by decide +kernel
theorem test_mul_old_value : result 1 3 (.mul 3 1 2) (probe 0 (regs [3, 5, 77]) {}) = 77 := by decide +kernel
theorem test_div : result 11 3 (.div 3 1 2) (probe 0 (regs [0xFFFFFFF9, 2]) {}) = 0xFFFFFFFD := by decide +kernel
theorem test_rem : result 11 3 (.rem 3 1 2) (probe 0 (regs [0xFFFFFFF9, 2]) {}) = 0xFFFFFFFF := by decide +kernel
theorem test_div_border : result 11 3 (.div 3 1 2) (probe 0 (regs [0x80000000, 0xFFFFFFFF]) {}) = 0x80000000 := by decide +kernel
theorem test_divu_zero : result 11 3 (.divu 3 1 2) (probe 0 (regs [5, 0]) {}) = 0xFFFFFFFF := by decide +kernel
theorem test_addi_sign : result 0 2 (.addi 2 1 0x3FFF) (probe 0 (regs [5]) {}) = 4 := by decide +kernel
theorem test_sltiu_minus_one : result 0 2 (.sltiu 2 1 0x3FFF) (probe 0 (regs [0xFFFFFFFE]) {}) = 1 := by decide +kernel
theorem test_lui : result 0 6 (.lui 6 0x159E2) (probe 0 {} {}) = 0x56788000 := by decide +kernel
/-- The example of R118. -/
theorem test_aset : readA (clu (after (.aset 2 2 1) (probe 0 { regs [0x56789ABC] with a := [(2, 0x0000123400000000)] } {}))) 2
    = 0x0000123456789ABC := by decide +kernel
theorem test_aaddi : readA (clu (after (.aaddi 3 2 0xFFFC) (probe 0 { a := [(2, 0x0000123456789ABC)] } {}))) 3
    = 0x0000123456789AB8 := by decide +kernel
theorem test_branch_back : (clu (after (.bne 1 2 0x3FFF) (probe 0 { regs [1, 2] with pc := 8 } {}))).pc = 4 := by decide +kernel
theorem test_branch_poison : ((core (after (.beq 1 2 1)
    (probe 0 { s := [(1, { val := 1, pois := true })], pc := 8 } {}))).frames.map fun f => f.2.cause) = [cPOISON] := by decide +kernel
theorem test_call_link : readA (clu (after (.call 5) (probe 0 { pc := 8 } {}))) 15 = 12 := by decide +kernel
theorem test_loop_opens : ((clu (after (.loopImm 1 5 4 false) (probe 0 { pc := 8 } {}))).loops.map fun x => (x.1, x.2.count, x.2.start, x.2.last))
    = [(1, 5, 12, 24)] := by decide +kernel
theorem test_loop_skips : (clu (after (.loopImm 1 0 4 false) (probe 0 { pc := 8 } {}))).pc = 28 := by decide +kernel
theorem test_bqpush : (cluAt (core (after (.bqpush 0 1) (probe 0 (regs [7]) {}))) 0).outq = [true] := by decide +kernel
/-- A queue from cluster A to itself with one of two slots taken. -/
def wordQ : Queue := { declared := true, kind := .word, depth := 2, ents := [.elem (.word { val := 42 })], pseq := 1 }
theorem test_qput : (queueAt (after (.qput 2 1) (probe 0 (regs [7]) { q := [(2, wordQ)] })) 2).pseq = 2 := by decide +kernel
theorem test_qget : (clu (after (.qget 3 2) (probe 0 {} { q := [(2, wordQ)] }))).sb = [{ reg := 3, val := { val := 42 } }] := by decide +kernel
theorem test_hsig_over_ceiling : ((core (after (.hsig 0) (probe 0 {} { h := [(0, { val := 1, ceil := 1 })] }))).frames.map
    fun f => (f.2.cause, f.2.addr.toNat)) = [(0x0A, 0x110)] := by decide +kernel
theorem test_sread_verid : result 0 3 (.sread 3 .verid) (probe 2 {} {}) = 0x0200 := by decide +kernel
theorem test_swrite_errmode : ((core (after (.swrite 1 .kctl) (probe 0 (regs [4]) {}))).frames.map fun f => f.2.cause) = [cPROT] := by decide +kernel
theorem test_trap_info : ((core (after (.trap 0x12345) (probe 0 { pc := 8 } {}))).frames.map fun f => (f.2.cause, f.2.info.toNat, f.2.vpc.toNat))
    = [(0x0F, 0x12345, 8)] := by decide +kernel
theorem test_st_ld : (let s := after (.st 1 0 1 0 false false) (paged 0 (regs [0xCAFE]) {}); (clu (after (.ld 2 0 1 0 false false) s)).sb)
    = [{ reg := 2, val := { val := 0xCAFE } }] := by decide +kernel
theorem test_ld_unaligned : ((core (after (.ld 2 0 0 0 false false) (paged 0 { a := [(0, 2)] } {}))).frames.map fun f => (f.2.cause, f.2.addr.toNat))
    = [(cALIGN, 2)] := by decide +kernel
theorem test_lds_poison : (clu (after (.lds 2 0 0 0 false false) (paged 0 { a := [(0, 2)] } {}))).sb
    = [{ reg := 2, val := { val := 0, pois := true } }] := by decide +kernel
theorem test_atadd : (let t := after (.atadd 2 0 1 .dev false false) (paged 0 (regs [5]) {}); ((clu t).sb, devByte t 65536))
    = ([{ reg := 2, val := { val := 0 } }], 5) := by decide +kernel
theorem test_engine_submits : ((blockAt (after (.cpy 5 1 2 1 0 false false) (probe 0 (regs [64]) {})) 0).cmds.length) = 1 := by decide +kernel
theorem test_vadd : (let t := wordsLater 1 (after (.vadd 3 1 2 0 false .i32) (probe 1 {} { v := [(1, { bits := 5 }), (2, { bits := 6 })] }))
    (readV (core t) 3).bits.extractLsb' 0 32) = 11 := by decide +kernel
theorem test_vmul_f32 : (let t := wordsLater 1 (after (.vmul 3 1 2 0 false .f32) (probe 1 {} { v := [(1, { bits := 0x40000000 }), (2, { bits := 0x40400000 })] }))
    (readV (core t) 3).bits.extractLsb' 0 32) = 0x40C00000 := by decide +kernel
theorem test_p0_fixed : readP (core (after (.pxor 0 0 0) (probe 1 {} {}))) 0 = BitVec.allOnes 512 := by decide +kernel
theorem test_pcnt : result 1 3 (.pcnt 3 0) (probe 1 {} {}) = 512 := by decide +kernel
theorem test_tcfg : result 0 1 (.tstat 1 0 0) (after (.tcfg 0 63 .bf16) (probe 2 {} {})) = 0x3F8 := by decide +kernel
theorem test_tzero_unconfigured : ((core (after (.tzero 0) (probe 2 {} {}))).frames.map fun f => f.2.cause) = [cILLEGAL] := by decide +kernel
theorem test_ftget : result 0 2 (.ftget 2 3) (after (.ftset 3 1) (probe 2 (regs [0xFFFF]) {})) = 0x1FFF := by decide +kernel
theorem test_mma_unconfigured : ((core (after (.mma 0 0 0 0 0 false) (probe 2 {} {}))).frames.map fun f => f.2.cause) = [cILLEGAL] := by decide +kernel
theorem test_ssig : devByte (after (.ssig 0 1 .dev false) { paged 3 (regs [2]) {} with l2 := [(65540, 9)] }) 65536 = 2 := by decide +kernel
theorem test_ssig_over : ((core (after (.ssig 0 1 .dev false) { paged 3 (regs [2]) {} with l2 := [(65540, 1)] })).frames.map fun f => f.2.cause)
    = [cSEMOVF] := by decide +kernel
theorem test_binit : (let t := after (.binit 0 1 false) (paged 3 (regs [3]) {}); (devByte t 65542, devByte t 65543)) = (3, 0) := by decide +kernel
theorem test_swait_zero : (clu (after (.swait 0 .dev false) (paged 3 {} {}))).wait = .object := by decide +kernel
theorem test_vqry_point : (clu (after (.vqry 2 1) (probe 3 (regs [0x600]) {}))).sb = [{ reg := 2, val := { val := 0xFFFFFFFF } }] := by decide +kernel
theorem test_tret_outside : ((core (after .tret (probe 3 {} {}))).frames.map fun f => f.2.cause) = [cILLEGAL] := by decide +kernel
theorem test_sleep_waits : (clu (after (.sleep 1) (probe 3 (regs [9]) {}))).wait = .sleep := by decide +kernel
/-- A trap with XVEC = 2 at level 0 enters the handler at word 2 of C's stream (R431). -/
theorem test_handler_entry : (let t := after (.brk 1) (probe 3 { x := { vec := 2 } } {}); ((core t).level, (cluAt (core t) 3).pc.toNat)) = (1, 8) := by decide +kernel
/-- The worked example of R42: 5.0, 2.6, -0.7 and 1.25 in a block of zeros, here with 13/5 and -7/10 to 20 bits, give 8, 5, 9, 2, scale 0x7F, alt 0x4A. -/
theorem test_e2m1x_example :
    blkQuant .x 0 (fun _ => 0) (fun i => match i with
      | 0 => .fin false 5 0 false | 1 => .fin false 2726298 (-20) false | 2 => .fin true 734003 (-20) false | 3 => .fin false 5 (-2) false
      | _ => .fin false 0 0 false) = 0x4A7F * 256 ^ 16 + 0x2958 := by decide +kernel

/-! ### Witnesses: states and operands that meet the hypotheses of the statements, clause by clause -/

/-- `Clear` as a test. -/
def clearNow (u : Use) (s : State) : Bool :=
  decide (blocked (clu s) u = false) && (!latchk (coreSeen s) || decide (latwinAt (core s) s.cl u = none))
    && (errmode (coreSeen s) || decide (errToken (core s) s.cl u = none)) && decide (softHit (core s) s.cl u = false)

theorem clear_iff (u : Use) (s : State) : Clear u s ↔ clearNow u s = true := by
  cases h1 : latchk (coreSeen s) <;> cases h2 : errmode (coreSeen s) <;> simp [Clear, clearNow, h1, h2, and_assoc]

theorem witness_DecodeEncode : (Instr.aadd 15 15 31 7).wfOn 0 = true ∧ (Instr.vfma 63 63 63 7 true .bf16).wfOn 1 = true
    ∧ (Instr.mma 3 7 3 3 15 true).wfOn 2 = true ∧ (Instr.sysc 524287).wfOn 3 = true := by decide

/-- Cluster 3 of core 0 is to issue this word, its section being two words at 0. -/
def turn (c : Core) (k : Clu) (ws : List Word) : State :=
  { State.reset with agenda := [.issue 0 3], xlates := [{ ctx := 0, die := 0, base := 0, st := .valid, words := ws.map .word }]
                     cores := [(0, { c with busy := true, clu := [(3, { k with active := true, words := 2 })] })] }
theorem witness_StepRunsTurn_word : Ready (turn {} {} [0x02629600]) 0 3 ∧ Translated (turn {} {} [0x02629600]) 0 3 0x02629600
    ∧ wordY 0x02629600 = false ∧ decode 3 0x02629600 = .ok (.mul 12 10 11) :=
  ⟨by simp only [Ready]; decide +kernel, ⟨0, { ctx := 0, die := 0, base := 0, st := .valid, words := [.word 0x02629600] }, by decide +kernel⟩,
    by decide +kernel, rfl⟩
theorem witness_StepRunsTurn_reserved : Ready (turn {} { rvDone := true, pc := 4 } [0, 0xC3000000]) 0 3
    ∧ Translated (turn {} { rvDone := true, pc := 4 } [0, 0xC3000000]) 0 3 0xC3000000
    ∧ (cluAt (coreAt (turn {} { rvDone := true, pc := 4 } [0, 0xC3000000]) 0) 3).rvDone = true ∧ refused 3 0xC3000000 = true :=
  ⟨by simp only [Ready]; decide +kernel,
    ⟨1, { ctx := 0, die := 0, base := 0, st := .valid, words := [.word 0, .word 0xC3000000] }, by decide +kernel⟩, by decide +kernel, by decide +kernel⟩
theorem witness_StepRunsTurn_outside : Ready (turn {} { pc := 8 } [0, 0]) 0 3
    ∧ (cluAt (coreAt (turn {} { pc := 8 } [0, 0]) 0) 3).words ≤ 2 := by simp only [Ready]; decide +kernel
theorem witness_StepRunsTurn_trap_first : let c := coreAt (turn { level := 1, treq := [⟨3, 1, 0, 0, none⟩] } { closing := true } [0, 0]) 0
    c.busy = true ∧ (cluAt c 3).active = true ∧ c.level ≠ 0 ∧ c.treq ≠ [] := by decide +kernel
theorem witness_StepRunsTurn_closing : let c := coreAt (turn {} { closing := true } [0, 0]) 0
    c.busy = true ∧ (cluAt c 3).active = true ∧ c.level = 0 ∧ c.treq = [] ∧ (cluAt c 3).closing = true := by decide +kernel
/-- A word with Y = 1 whose rendezvous is over; a turn with no GYLD due, and one with. -/
theorem witness_StepRunsTurn_again : let s := turn {} { rvDone := true } [0x40000000]
    let g : State := { turn {} {} [0] with groupAt := [(0, { busy := true, clu := [(3, { active := true, words := 2 })] })] }
    Ready s 0 3 ∧ wordY 0x40000000 = true ∧ (coreAt s 0).level = 0 ∧ (cluAt (coreAt s 0) 3).rvDone = true ∧ yieldDue s 0 3 = false ∧ yieldDue g 0 3 = false := by
  simp only [Ready]; decide +kernel
theorem witness_StepRunsTurn_idle : (coreAt State.reset 0).busy = false
    ∧ (cluAt (coreAt (turn {} {} [0]) 0) 2).active = false ∧ (coreAt (turn { level := 2 } {} [0]) 0).level ≠ 0 := by decide +kernel
theorem witness_StepRunsTurn_event : ({ State.reset with agenda := [.event 5 .mmaCompletion] } : State).agenda = .event 5 .mmaCompletion :: [] := by
  decide +kernel
theorem witness_RendezvousRule : Ready (turn {} {} [0x40000000]) 0 3 ∧ Translated (turn {} {} [0x40000000]) 0 3 0x40000000
    ∧ wordY 0x40000000 = true ∧ (coreAt (turn {} {} [0x40000000]) 0).level = 0
    ∧ (cluAt (coreAt (turn {} {} [0x40000000]) 0) 3).rvDone = false :=
  ⟨by simp only [Ready]; decide +kernel, ⟨0, { ctx := 0, die := 0, base := 0, st := .valid, words := [.word 0x40000000] }, by decide +kernel⟩,
    by decide +kernel, by decide +kernel, by decide +kernel⟩
/-- Every active cluster stands at a word that is free to issue; and one of two does not. -/
theorem witness_RendezvousRule_all : let t := { turn {} {} [0x40000000] with agenda := [], cl := 3 }
    ∀ j ∈ activeClus (coreAt t 0), atY t j = true ∧ standsAt t j = true ∧ freeToIssue exec (yields t (activeClus (coreAt t 0))) t j = true := by
  decide +kernel
theorem witness_RendezvousRule_some : let s := turn {} {} [0x40000000]
    let t := { s with agenda := [], cl := 3, cores := [(0, { busy := true, clu := [(2, { active := true, words := 2, pc := 4 }), (3, { active := true, words := 2 })] })] }
    ∃ j ∈ activeClus (coreAt t 0), atY t j = false := by decide +kernel

theorem witness_StepKeepsMemoryCanonical : memWf [⟨5, 1⟩, ⟨9, 2⟩] = true
    ∧ ∃ t, step { State.reset with agenda := [.issue 0 0], mem := [⟨5, 1⟩, ⟨9, 2⟩] } = .next t := ⟨by decide +kernel, ⟨_, rfl⟩⟩
theorem witness_LatencyWindows : Quiet (clu (probe 0 {} {})) .s 3 ∧ (1 + 1 < 3 ∧ 3 ≤ 2 + 1) ∧ Quiet (clu (probe 0 { pend := [landS 2 4 {}] } {})) .s 3 := by
  simp only [Quiet]; decide +kernel

theorem witness_IssueChecks_score : blocked (clu (probe 0 { sb := [⟨1, {}⟩] } {})) { rs := [1, 2], ws := [3] } = true := by decide +kernel
theorem witness_IssueChecks_free : blocked (clu (probe 0 {} {})) { ra := [1], ws := [3] } = false := by decide +kernel
theorem witness_IssueChecks_latwin : let s := probe 0 { pend := [landS 2 1 {}] } { kctl := 1 }
    blocked (clu s) { rs := [1, 2], ws := [3] } = false ∧ latchk (coreSeen s) = true ∧ latwinAt (core s) s.cl { rs := [1, 2], ws := [3] } = some 1 := by
  decide +kernel
theorem witness_IssueChecks_engerr : let s := probe 0 { tokHeld := [(1, 0)] } { cmds := [{ id := 0, cl := 0, reg := 1, done := true, code := 1, addr := 8 }] }
    blocked (clu s) { rs := [1, 2], ws := [3] } = false ∧ latchk (coreSeen s) = false ∧ errmode (coreSeen s) = false
      ∧ (errToken (core s) s.cl { rs := [1, 2], ws := [3] }).isSome = true := by decide +kernel
theorem witness_IssueChecks_soft : let s := probe 0 {} { kctl := 4, soft := [.s 0 1] }
    blocked (clu s) { rs := [1, 2], ws := [3] } = false ∧ latchk (coreSeen s) = false ∧ errmode (coreSeen s) = true
      ∧ softHit (core s) s.cl { rs := [1, 2], ws := [3] } = true := by decide +kernel
theorem witness_AluOperations : let s := probe 0 { pend := [landS 3 4 {}] } { kctl := 1 }
    Clear { rs := [1, 2], ws := [3] } s ∧ Clear { rs := [1], ws := [3] } s ∧ Clear { rs := [1, 2, 3], ws := [3] } s := by
  simp only [clear_iff]; decide +kernel
/-- A count of leading zeros of 0 and of the top bit, the ends of its range. -/
theorem witness_AluOperations_clz : (∀ i < 32, (0 : Word).getLsbD (31 - i) = false) ∧ (0x80000000 : Word).getLsbD 31 = true := by decide +kernel
theorem witness_MultiplyDivide : Clear { rs := [1, 2], ws := [3] } (probe 2 (regs [0x80000000, 0xFFFFFFFF]) {})
    ∧ (readS (clu (probe 2 (regs [0x80000000, 0xFFFFFFFF]) {})) 1).val = 0x80000000
    ∧ (readS (clu (probe 2 (regs [0x80000000, 0xFFFFFFFF]) {})) 2).val = 0xFFFFFFFF := by simp only [clear_iff]; decide +kernel
theorem witness_ImmediateAndAddressWords : let s := probe 0 { s := [(2, { val := 1, pois := true })] } {}
    Clear { rs := [1], ws := [3] } s ∧ Clear { ws := [3] } s ∧ Clear { ra := [1], ws := [3] } s ∧ Clear { rs := [2], ra := [1] } s
      ∧ (readS (clu s) 1).pois = false ∧ (readS (clu s) 2).pois = true ∧ 2 ^ 13 < 2 ^ 14 ∧ 2 ^ 15 < 2 ^ 16 := by simp only [clear_iff]; decide +kernel
theorem witness_BranchesAndJumps : let s := probe 0 { s := [(2, { val := 1, pois := true }), (3, { val := 0x80000000 })], a := [(1, 2)] } {}
    Clear { rs := [1, 3] } s ∧ Clear {} s ∧ Clear { ra := [1] } s ∧ Clear { rs := [2] } s
      ∧ (readS (clu s) 1).pois = false ∧ (readS (clu s) 3).pois = false ∧ (readS (clu s) 2).pois = true
      ∧ (readS (clu s) 3).val.toInt < (readS (clu s) 1).val.toInt ∧ (readA (clu s) 1).toNat % 4 ≠ 0 ∧ (readA (clu s) 2).toNat % 4 = 0
      ∧ (core s).kctl.getLsbD 3 = false := by simp only [clear_iff]; decide +kernel

/-- LOOP at level 1: each outcome on a state of its own. -/
theorem witness_LoopWords : let s := probe 0 (regs [3, 0]) {}
    let bad := probe 0 { loops := [(2, { active := true, last := 100 })] } {}
    Clear { rs := [1] } s ∧ Clear {} s ∧ ¬(∃ x ∈ (clu s).loops, x.2.active = true) ∧ (readS (clu s) 1).val ≠ 0 ∧ (readS (clu s) 2).val = 0
      ∧ (2, true) ∈ (clu bad).loops.map (fun x => (x.1, x.2.active)) ∧ Clear { rs := [1] } bad := by simp only [clear_iff]; decide +kernel
/-- LOOPQ: a queue that is not declared, an empty one, one with an element and one with a marker at its head. -/
theorem witness_LoopWords_queue : badPop {} 0 = true ∧ badPop wordQ 0 = false ∧ headMissing { wordQ with ents := [] } = true
    ∧ headMissing wordQ = false ∧ headMarker wordQ = false ∧ headMarker { wordQ with ents := [.marker] } = true := by decide +kernel
theorem witness_LoopWords_back : let k : Clu := { loops := [(3, { active := true, start := 4, last := 8, count := 2 })], pc := 12, closing := true }
    k.closing = true ∧ (loopAt k 3).active = true ∧ (loopAt k 3).last = k.pc - 4 ∧ ¬(loopAt k 3).count ≤ (fget 0 k.l 3).toNat + 1
      ∧ ∀ j, 3 < j → j < 4 → (loopAt k j).active = true → (loopAt k j).last ≠ k.pc - 4 :=
  ⟨by decide +kernel, by decide +kernel, by decide +kernel, by decide +kernel, fun j h1 h2 => by omega⟩
/-- An exit with another level ending there, and one with none. -/
theorem witness_LoopWords_exit : let k : Clu := { loops := [(1, { active := true, last := 8, count := 1 }), (0, { active := true, last := 8 })], pc := 12 }
    (loopAt k 1).count ≤ (fget 0 k.l 1).toNat + 1
      ∧ ((fput k.loops 1 { active := false }).any fun y => y.2.active && y.2.last == k.pc - 4) = true
      ∧ ((fput (fdel k.loops 0) 1 { active := false }).any fun y => y.2.active && y.2.last == k.pc - 4) = false := by decide +kernel
theorem witness_LoopWords_break : let s := probe 1 { regs [1, 0] with loops := [(0, { active := true, last := 8 })] } {}
    Clear { rs := [1] } s ∧ Clear {} s ∧ (loopAt (clu s) 0).active = true ∧ (loopAt (clu s) 1).active = false ∧ (readS (clu s) 1).val ≠ 0
      ∧ (readS (clu s) 2).val = 0 ∧ s.cl = clV := by simp only [clear_iff]; decide +kernel
theorem witness_OutcomesAndHandshakes_out : let s := probe 0 { regs [1] with outq := [true] } {}
    let full := probe 0 { outq := List.replicate 32 false } {}
    Clear { rs := [1] } s ∧ Clear {} s ∧ (cluAt (core s) 0).active = true ∧ (cluAt (core s) 0).outProd = none ∧ (cluAt (core s) 1).active = false
      ∧ (cluAt (core s) 0).outq.length < 32 ∧ 32 ≤ (cluAt (core full) 0).outq.length ∧ (clu s).outq = true :: []
      ∧ (core s).soft.contains (.out s.cl 0) = false := by simp only [clear_iff]; decide +kernel
theorem witness_OutcomesAndHandshakes_counter : let s := probe (hSrc 0) {} { h := [(0, { val := 1, ceil := 1 }), (1, { val := 0, ceil := 1 })] }
    Clear {} s ∧ Clear { ws := [3] } s ∧ s.view = none ∧ s.cl = hSrc 0 ∧ s.cl ≠ hDst 0 ∧ (hAt s 0).ceil < (hAt s 0).val + 1
      ∧ (hAt s 1).val + 1 ≤ (hAt s 1).ceil ∧ (hAt s 1).val = 0 ∧ 1 ≤ (hAt s 0).val ∧ (probe (hDst 0) {} {}).cl = hDst 0 := by
  simp only [clear_iff]; decide +kernel
theorem witness_QueueWords : let s := probe 0 {} { q := [(2, wordQ)] }
    Clear { rs := [1] } s ∧ Clear {} s ∧ Clear { ws := [3] } s ∧ s.view = none ∧ badPush (queueAt s 2) s.cl = false ∧ badPush (queueAt s 3) s.cl = true
      ∧ (queueAt s 2).kind = .word ∧ (queueAt s 2).ents.length < (queueAt s 2).depth ∧ badPop (queueAt s 2) s.cl = false
      ∧ (queueAt s 2).ents = .elem (.word { val := 42 }) :: [] ∧ struck s 2 1 = false ∧ (queueAt s 2).declared = true
      ∧ (queueAt s 3).declared = false := by simp only [clear_iff]; decide +kernel
/-- QDROP with a marker among the entries, and with none that has arrived. -/
theorem witness_QueueWords_drop : ([.elem (.word {}), .marker] : List QEnt) = [.elem (.word {})] ++ .marker :: []
    ∧ ([.elem (.word {})] : List QEnt) = [.elem (.word {})] ++ [] ∧ 2 ≤ ([.marker, .marker] : List QEnt).length := by decide +kernel
theorem witness_SystemRegisters : let s := probe 1 { s := [(1, { val := 4 }), (2, { val := 3, pois := true })] } {}
    Clear { ws := [3] } s ∧ Clear { rs := [1] } s ∧ Clear { rs := [2] } s ∧ s.cl = clV ∧ (readS (clu s) 1).pois = false ∧ (readS (clu s) 2).pois = true
      ∧ (readS (clu s) 1).val.getLsbD 2 ≠ (core s).kctl.getLsbD 2 ∧ (readS (clu s) 3).val.getLsbD 2 = (core s).kctl.getLsbD 2
      ∧ (probe 0 {} {}).cl ≠ clV := by simp only [clear_iff]; decide +kernel
theorem witness_NopTickFence : Clear { ws := [3] } (probe 0 {} {}) ∧ Clear {} (probe 3 {} {}) ∧ (probe 3 {} {}).cl = clC ∧ (probe 2 {} {}).cl = clM := by
  simp only [clear_iff]; decide +kernel
theorem witness_SoftwareTrapsAndStubs : let s := fun (w : Word) => { probe 0 {} {} with word := w }
    Clear {} (s 0x21000000) ∧ fieldOf (s 0x21000000).word.toNat 29 24 = 0x21 ∧ fieldOf (s 0x22000000).word.toNat 29 24 = 0x22
      ∧ (s 255).word = BitVec.ofNat 32 255 ∧ badPop (queueAt (probe 0 {} { q := [(0, wordQ)] }) 0) 0 = false ∧ 524287 < 2 ^ 19 := by
  simp only [clear_iff]; decide +kernel

/-- One raised trap, at level 0 with a handler, without one, at level 1 before and after TACK, and at level 2. -/
def raised (level : Nat) (tacked : Bool) (vec : Word) : State :=
  probe 3 { x := { vec := vec } } { level := level, tacked := tacked, treq := [⟨0, cBREAK, 7, 0, none⟩] }
theorem witness_TrapEntry : let q := fun (s : State) => (cluAt (core s) clC).tokPend = [] ∧ (core s).treq = [⟨0, cBREAK, 7, 0, none⟩]
    let vec := fun (s : State) => (cluAt (landSb clC (finishMma (core s))) clC).x.vec
    (q (raised 0 false 1) ∧ (core (raised 0 false 1)).level = 0 ∧ vec (raised 0 false 1) ≠ 0)
      ∧ (q (raised 1 true 1) ∧ (core (raised 1 true 1)).level = 1 ∧ (core (raised 1 true 1)).tacked = true ∧ vec (raised 1 true 1) ≠ 0)
      ∧ (cluAt (core (probe 3 { tokPend := [(5, 0)] } { treq := [⟨0, cBREAK, 7, 0, none⟩] })) clC).tokPend ≠ [] := by decide +kernel
theorem witness_RaisedAndUntakenTraps : let c := fun (s : State) => landSb clC (finishMma (core s))
    let q := fun (s : State) => (cluAt (core s) clC).tokPend = [] ∧ (core s).treq = [⟨0, cBREAK, 7, 0, none⟩]
    (q (raised 0 false 0) ∧ (c (raised 0 false 0)).level = 0 ∧ (cluAt (c (raised 0 false 0)) clC).x.vec = 0)
      ∧ (q (raised 1 false 1) ∧ (c (raised 1 false 1)).level = 1 ∧ (c (raised 1 false 1)).tacked = false)
      ∧ (q (raised 1 true 0) ∧ (c (raised 1 true 0)).level = 1 ∧ (c (raised 1 true 0)).tacked = true ∧ (cluAt (c (raised 1 true 0)) clC).x.vec = 0)
      ∧ (q (raised 2 true 1) ∧ (c (raised 2 true 1)).level = 2) ∧ State.reset.view = none
      ∧ ({ State.reset with view := some { was := {} } } : State).view ≠ none := by decide +kernel
theorem witness_TrapReturnAndAcknowledge : let s := fun (l : Nat) (ok t : Bool) => probe 3 {} { level := l, tackOk := ok, tacked := t }
    Clear {} (s 0 true false) ∧ Clear {} (s 2 true true) ∧ (core (s 0 true false)).level = 0 ∧ (core (s 2 true true)).level ≠ 0
      ∧ (core (s 1 false false)).tackOk = false ∧ (core (s 1 true false)).tackOk = true ∧ (core (s 1 true false)).tacked = false := by
  simp only [clear_iff]; decide +kernel

/-- The last byte of a page, of kind C and, strongly, of kind S, and the key below the window. -/
theorem witness_BytesOfMemory : let s := paged 0 {} {}
    lookLeaf (core s) (65535 / 65536) = some leafC ∧ leafF leafC = false ∧ 65535 % 65536 + 1 ≤ 65536
      ∧ frameKey (leafTier leafC) (leafPfn leafC) 65535 + 1 ≤ windowKey ∧ leafKind leafC ≠ 0 ∧ leafKind 0x20003 = 0 ∧ 65535 < windowKey := by
  decide +kernel
/-- A store to the vault that covers a damaged sector whole, and one that does not. -/
theorem witness_BytesOfMemory_vault : (64 ≤ 1 * 64 ∧ 1 * 64 + 64 ≤ 64 + (List.replicate 64 (0 : Byte)).length)
    ∧ ¬(65 ≤ 1 * 64 ∧ 1 * 64 + 64 ≤ 65 + (List.replicate 64 (0 : Byte)).length) := by decide +kernel
/-- Addresses at the ends of a page, off a word, and on a page that is not held; a page without W for stores. -/
theorem witness_ScalarLoadsAndStores : let s := paged 0 { a := [(1, 65532), (2, 65536), (3, 2 ^ 48)] } {}
    let u := fun (a : Nat) => ({ ra := [a], ws := [5] } : Use)
    let chk := fun (wr : Bool) (a : Nat) => pchk (markRead (u a) s) [{ sp := false, wr := wr, rd := !wr, ea := a, n := 4 }]
    Clear (u 1) s ∧ Clear { rs := [5], ra := [1] } s ∧ (readS (clu s) 5).pois = false ∧ chk false 0 = .ok ∧ chk false 65532 = .ok ∧ chk true 65532 = .ok
      ∧ chk false 65536 = .walk 1 ∧ chk true (2 ^ 48) = .bad cMEMFAULT (2 ^ 48) ∧ 3 % 4 ≠ 0 ∧ 2 ^ 10 < 2 ^ 11 := by
  simp only [clear_iff]; decide +kernel
theorem witness_ScalarLoadsAndStores_prot :
    pchk (probe 0 {} { look := [⟨0, 0, 0x20011⟩] }) [{ sp := false, wr := true, rd := false, ea := 0, n := 4 }] = .bad cPROT 0
      ∧ (readS (clu (probe 0 { s := [(5, { val := 0, pois := true })] } {})) 5).pois = true := by decide +kernel
theorem witness_LatencyWindows_scoreboard : let s := probe 0 { sb := [⟨3, { val := 9 }⟩] } {}
    s.cur = 0 ∧ (cluAt (coreAt s 0) 0).sb = [⟨3, { val := 9 }⟩] ∧ (∀ m ∈ (coreAt s 0).d, m.2.loading = false) ∧ pendingOf s 0 0 ≠ 0 := by decide +kernel
/-- Queue loads and stores on a queue with room, a full one, a hole at the newest slot's place, and a marker. -/
theorem witness_QueueLoadsAndStores : let s := paged 0 {} { q := [(2, wordQ), (3, { wordQ with depth := 1 }), (4, { wordQ with ents := [.marker] })] }
    let u : Use := { ra := [1] }
    Clear u s ∧ badPush (queueAt s 2) s.cl = false ∧ (queueAt s 2).kind = .word ∧ (queueAt s 2).refill = none
      ∧ (queueAt s 2).ents.length < (queueAt s 2).depth ∧ (queueAt s 3).depth ≤ (queueAt s 3).ents.length ∧ badPush (queueAt s 5) s.cl = true
      ∧ pchk (markRead u s) [{ sp := false, wr := false, rd := true, ea := 0, n := 4 }] = .ok
      ∧ pchk (markRead u s) [{ sp := false, wr := true, rd := false, ea := 0, n := 4 }] = .ok
      ∧ badPop (queueAt s 2) s.cl = false ∧ headMarker (queueAt s 4) = true ∧ (queueAt s 2).ents = .elem (.word { val := 42 }) :: []
      ∧ struck s 2 1 = false ∧ elemPois (.word { val := 42 }) = false ∧ elemPois (.word { val := 0, pois := true }) = true
      ∧ headMissing { wordQ with ents := [] } = true := by simp only [clear_iff]; decide +kernel
/-- A queue load whose address register is struck. -/
theorem witness_QueueLoadsAndStores_struck : let s := paged 0 {} { q := [(2, { wordQ with depth := 2 })], soft := [.a 0 1] }
    let u : Use := { ra := [1] }
    blocked (clu s) u = false ∧ latchk (coreSeen s) = false ∧ errmode (coreSeen s) = false ∧ errToken (core s) s.cl u = none ∧ softHit (core s) s.cl u = true
      ∧ badPush (queueAt s 2) s.cl = false ∧ (queueAt s 2).refill = none ∧ (queueAt s 2).ents.length < (queueAt s 2).depth := by decide +kernel
theorem witness_QueueLoadsAndStores_landing : let q : Queue := { wordQ with ents := [.marker, .hole (some (.word {}))] }
    let s := { paged 0 {} { q := [(2, q)] } with cur := 2 }
    let l : LateLoad := { q := 2, seq := BitVec.ofNat 32 (holeSeq q), sp := false, ea := 0 }
    s.cur = 16 * 0 + 2 ∧ fhas (coreAt s 0).q 2 = true ∧ l.seq.toNat = holeSeq q ∧ l.q = 2 ∧ (coreAt s 0).late = [] ∧ lookedUp (coreAt s 0) l 4 = true
      ∧ (fget ({} : Queue) (coreAt s 0).q 2).ents = [.marker] ++ .hole (some (.word {})) :: [] := by decide +kernel
theorem witness_Atomics : let s := paged 0 { s := [(1, { val := 5 }), (2, { val := 0, pois := true })], a := [(1, 65532), (2, 2)] } {}
    let u : Use := { rs := [1], ra := [1], ws := [3] }
    Clear u s ∧ Clear { rs := [1, 3], ra := [1], ws := [3] } s ∧ (readS (clu s) 1).pois = false ∧ (readS (clu s) 2).pois = true
      ∧ (readA (clu s) 1).toNat % 4 = 0 ∧ (readA (clu s) 2).toNat % 4 ≠ 0
      ∧ pchk (markRead u s) [{ sp := false, wr := true, rd := true, ea := 65532, n := 4, st := true }] = .ok
      ∧ pchk (markRead u s) [{ sp := false, wr := true, rd := true, ea := 2 ^ 48, n := 4, st := true }] = .bad cMEMFAULT (2 ^ 48) := by
  simp only [clear_iff]; decide +kernel
/-- An engine queue with room, and one with its 64 commands. -/
theorem witness_EngineCommands : let s := probe 0 { s := [(2, { val := 1, pois := true })] } { d := [(1, { full := true })] }
    let full := { s with blocks := [(0, { cmds := List.replicate 64 (.raw {}) })] }
    let u : Use := { rs := [1], ra := [1, 2] }
    Clear u s ∧ Clear { ra := [1, 2] } s ∧ Clear { rs := [1], ra := [1] } s ∧ Clear u (probe 0 { sb := [⟨5, {}⟩] } { d := [(1, { full := true, loading := true })] })
      ∧ blocked (clu s) { ws := [5] } = false ∧ blocked (clu (probe 0 { sb := [⟨5, {}⟩] } {})) { ws := [5] } = true ∧ (readS (clu s) 1).pois = false
      ∧ (readS (clu s) 2).pois = true ∧ engineFull s (benchBlock s) = false ∧ engineFull full (benchBlock full) = true
      ∧ (fget ({} : WMap) (core s).d 1).full = true ∧ (fget ({} : WMap) (core s).d 0).full = false ∧ (fget ({} : WMap) (core s).d 1).loading = false := by
  simp only [clear_iff]; decide +kernel
theorem witness_EngineCommands_die : let s := paged 3 {} {}
    let full := { s with blocks := [(128, { cmds := List.replicate 32 (.raw {}) })] }
    Clear { ra := [1], ws := [5] } s ∧ (readA (clu s) 1).toNat % 64 = 0
      ∧ pchk (markRead { ra := [1], ws := [5] } s) [{ sp := false, wr := false, rd := true, ea := 0, n := 96 }] = .ok
      ∧ engineFull s (dieBlock s) = false ∧ engineFull full (dieBlock full) = true := by simp only [clear_iff]; decide +kernel
theorem witness_WindowMapAndCacheWords : let s := paged 0 { s := [(2, { val := 1, pois := true })] } { d := [(1, { full := true }), (2, { full := true, loading := true })] }
    let m := markRead { ra := [1] } s
    Clear { ra := [1] } s ∧ Clear { rs := [1] } s ∧ Clear { rs := [2] } s ∧ (fget ({} : WMap) (core s).d 0).loading = false
      ∧ (fget ({} : WMap) (core s).d 1).full = true ∧ (fget ({} : WMap) (core s).d 2).loading = true ∧ (readS (clu s) 1).pois = false
      ∧ (readS (clu s) 2).pois = true ∧ pchk m [{ sp := false, wr := false, rd := true, ea := 0, n := 64 }] = .ok
      ∧ pchk m [{ sp := false, wr := false, rd := true, ea := 2 ^ 48, n := 64 }] = .bad cMEMFAULT (2 ^ 48)
      ∧ pchk m [{ sp := false, wr := false, rd := false, ea := 512, n := 1 }] = .ok ∧ lookLeaf (core s) (512 / 512 * 512 / 65536) = some leafC
      ∧ lookLeaf (core s) (65536 / 65536) = none ∧ 512 / 512 * 512 < 2 ^ 48 ∧ 3 < 4 := by simp only [clear_iff]; decide +kernel

/-- A guard that is false everywhere, and one that is true. -/
theorem witness_GuardedVectorWords_false : guardBits (probe 1 {} {}) 0 true = 0 ∧ guardBits (probe 1 {} {}) 0 false ≠ 0 := by decide +kernel
theorem witness_GuardedVectorWords_lands : let s := probe 1 {} {}
    s.cl = clV ∧ Quiet (clu s) .v 3 ∧ (BitVec.allOnes 512) ≠ 0 ∧ (0 + 1 < 2 ∧ 2 ≤ 1 + 1) := by simp only [Quiet]; decide +kernel
theorem witness_ElementwiseWords : let s := probe 1 {} {}
    guardBits s 0 false ≠ 0 ∧ Clear { rv := [vreg s 1, vreg s 2], rp := [0] } s ∧ Clear { rv := [vreg s 1, vreg s 2, vreg s 3], rp := [0] } s
      ∧ Clear { rv := [vreg s 63], rp := [0] } s ∧ VType.f32 ≠ .i32 := by simp only [clear_iff]; decide +kernel
def vecQ : Queue := { declared := true, prod := 1, cons := 1, kind := .vec, depth := 2, ents := [.elem (.vec {})], pseq := 1 }
theorem witness_VectorMoves : let s := probe 1 {} { q := [(2, vecQ), (3, { vecQ with ents := [.marker] })] }
    guardBits s 0 false ≠ 0 ∧ Clear { rp := [0] } s ∧ Clear { rv := [vreg s 1], rp := [0] } s ∧ Clear { rs := [1, 2], rp := [0] } s
      ∧ Clear { rs := [2], rv := [vreg s 1], rp := [0] } s ∧ Clear { rv := [vreg s 1, vreg s 2], rp := [0] } s
      ∧ Clear { rs := [2], rv := [vreg s 1], ws := [4] } s ∧ badPop (queueAt s 2) s.cl = false ∧ (queueAt s 2).kind = .vec
      ∧ (queueAt s 2).ents = .elem (.vec {}) :: [] ∧ struck s 2 1 = false ∧ badPush (queueAt s 2) s.cl = false
      ∧ (queueAt s 2).ents.length < (queueAt s 2).depth ∧ headMarker (queueAt s 3) = true ∧ badPop (queueAt s 4) s.cl = true := by
  simp only [clear_iff]; decide +kernel
theorem witness_ComparesAndPredicates : let s := probe 1 {} { v := [(1, { pois := 1 })] }
    let g := guardBits s 0 false
    g ≠ 0 ∧ s.cl = clV ∧ Clear { rv := [vreg s 1, vreg s 2], rp := [0] } s ∧ Clear { rv := [vreg s 1], rp := [0] } s
      ∧ Clear { rp := [preg s 1, preg s 2] } s ∧ Clear { rp := [preg s 1], ws := [3] } s
      ∧ ((readV (core s) (vreg s 1)).pois ||| (readV (core s) (vreg s 2)).pois) &&& g ≠ 0
      ∧ ((readV (core s) (vreg s 2)).pois ||| (readV (core s) (vreg s 3)).pois) &&& g = 0 := by simp only [clear_iff]; decide +kernel
theorem witness_ConversionsAndReductions : let s := probe 1 {} {}
    let bad := probe 1 { s := [(30, { val := 0, pois := true })] } {}
    guardBits s 0 false ≠ 0 ∧ srPois bad = true ∧ Clear { rs := srRegs 4, rv := [vreg s 1], rp := [0] } bad ∧ Clear { rs := srRegs 4, rv := [vreg s 1], rp := [0] } s ∧ Clear { rs := srRegs 3, rv := [vreg s 1], rp := [0] } s
      ∧ Clear { rv := [vreg s 1], rp := [0] } s ∧ srPois s = false ∧ packed .bf16 = true ∧ packed .f32 = false := by simp only [clear_iff]; decide +kernel

def tileQ (n : Nat) : Queue := { declared := true, prod := 2, cons := 2, kind := .tile, depth := 4, ents := List.replicate n (.elem (.tile 0)), pseq := 1 }
/-- A live tile, a configured one and one that is not. -/
theorem witness_TilesAndSlots_tiles : let s := probe 2 {} { t := [(0, { st := .live, rows := 64 }), (1, { st := .conf, rows := 1 })], q := [(2, tileQ 1), (3, tileQ 4)] }
    let strict := probe 2 {} { kctl := 2 }
    Clear {} s ∧ Clear { ws := [3] } s ∧ (tileAt (core s) 0).st = .live ∧ (tileAt (core s) 0).rows = 63 + 1 ∧ (tileAt (core s) 1).st = .conf
      ∧ (tileAt (core s) 2).st = .unconf ∧ (core strict).kctl.getLsbD 1 = true ∧ (core s).kctl.getLsbD 1 = false
      ∧ badPop (queueAt s 2) s.cl = false ∧ (queueAt s 2).kind = .tile ∧ headMarker (queueAt s 2) = false
      ∧ (queueAt s 2).ents = .elem (.tile 0) :: [] ∧ struck s 2 1 = false ∧ badPush (queueAt s 2) s.cl = false
      ∧ (queueAt s 3).depth ≤ (queueAt s 3).ents.length ∧ (queueAt s 2).ents.length < (queueAt s 2).depth
      ∧ (core s).soft.contains (.tile 1) = false ∧ badPop (queueAt s 4) s.cl = true := by simp only [clear_iff]; decide +kernel
theorem witness_TilesAndSlots_slots : let s := probe 2 { s := [(2, { val := 1, pois := true })] } { w := [(0, { st := .conf }), (1, { st := .loaded })], q := [(2, tileQ 2)], fmt := [(15, 0)] }
    Clear { rs := [1] } s ∧ Clear { rs := [2] } s ∧ Clear {} s ∧ Clear { ws := [3] } s ∧ (readS (clu s) 1).pois = false ∧ (readS (clu s) 2).pois = true
      ∧ entryOk (fget 0 (core s).fmt 15).toNat = true ∧ modeFits .dense 0 = true ∧ modeFits .mx 0 = false
      ∧ (slotAt (core s) 1).st = .loaded ∧ (slotAt (core s) 0).st = .conf ∧ (slotAt (core s) 2).st = .empty ∧ badPop (queueAt s 2) s.cl = false
      ∧ 2 ≤ (queueAt s 2).depth ∧ (queueAt s 2).ents = (([0, 0] : List (BitVec 131072)).map fun t => .elem (.tile t)) ++ []
      ∧ struck s 2 2 = false ∧ ¬3 ≤ ({ tileQ 2 with depth := 2 } : Queue).depth := by simp only [clear_iff]; decide +kernel
/-- An MMA that passes its checks, one that fails them, an accumulator in use, a damaged one, and an empty budget. -/
def mmaCore : Core := { t := [(0, { st := .conf, rows := 64 })], w := [(0, { st := .loaded })], budget := 1 }
theorem witness_MatrixMultiply : let s := probe 2 {} mmaCore
    Clear {} s ∧ Clear { rl := [3] } s ∧ mmaBad (core s) 0 0 0 false = false ∧ mmaBad (core s) 1 0 0 false = true
      ∧ ((core s).mma.any fun o => o.acc == 1) = false ∧ (core s).badAcc.contains 1 = false ∧ mmaSoft (core s) 0 0 0 = false ∧ 0 < (core s).budget
      ∧ (core (probe 2 {} { mmaCore with budget := 0 })).budget = 0 ∧ ({ mmaCore with badAcc := [1] } : Core).badAcc.contains 1 = true := by
  simp only [clear_iff]; decide +kernel
def flying : MmaOp := { acc := 1, tile := {}, slot := {}, entry := 0, scale := {}, transp := false }
theorem witness_MatrixMultiply_completion : let s := probe 2 {} { mma := [flying] }
    (core s).mma = flying :: [] ∧ ((core s).mma.any fun o => o.acc == 1) = true ∧ (0, core s) ∈ s.cores ∧ Clear { ws := [3] } s := by
  simp only [clear_iff]; decide +kernel
theorem witness_AccumulatorWords_stops : let s := probe 2 { s := [(30, { val := 0, pois := true })] } { q := [(2, { tileQ 0 with depth := 1 }), (3, wordQ)] }
    Clear { rs := [30, 31] } s ∧ Clear {} s ∧ srPois s = true ∧ badPush (queueAt s 4) s.cl = true ∧ badPop (queueAt s 4) s.cl = true ∧ (queueAt s 2).depth < 2
      ∧ (queueAt s 2).kind = .tile ∧ badPush (queueAt s 2) s.cl = false ∧ 1 ≤ (queueAt s 2).depth ∧ (queueAt s 3).kind ≠ .tile := by
  simp only [clear_iff]; decide +kernel
theorem witness_AccumulatorWords : let s := probe 2 { s := [(2, { val := 1, pois := true })] } { q := [(2, tileQ 2), (3, tileQ 4)] }
    Clear { rs := [30, 31] } s ∧ Clear {} s ∧ Clear { rs := [1] } s ∧ Clear { rs := [2] } s ∧ badPush (queueAt s 2) s.cl = false
      ∧ (queueAt s 2).kind = .tile ∧ 2 ≤ (queueAt s 2).depth ∧ srPois s = false ∧ ((core s).mma.any fun o => o.acc == 1) = false
      ∧ (core s).badAcc.contains 1 = false ∧ (queueAt s 3).depth < (queueAt s 3).ents.length + 1 ∧ (queueAt s 2).ents.length + 2 ≤ (queueAt s 2).depth
      ∧ badPop (queueAt s 2) s.cl = false ∧ (queueAt s 2).ents = .elem (.tile 0) :: .elem (.tile 0) :: [] ∧ struck s 2 2 = false
      ∧ (core s).mma = [] ∧ (readS (clu s) 1).pois = false ∧ (readS (clu s) 2).pois = true ∧ ({ mma := [flying] } : Core).mma ≠ [] := by
  simp only [clear_iff]; decide +kernel
theorem witness_WindowReplayRestores : let s := probe 2 {} { win := [.clear 1] }
    s.inputs = [] ∧ (core s).winOver = false ∧ (core s).kctl.getLsbD 3 = false ∧ ({ winOver := true } : Core).winOver = true := by decide +kernel

/-! Objects of cluster C, in page 0, whose frame starts at key 65536. What an object
holds is what the L2 lists (Laws/Access.lean). -/

/-- `n` bytes of a number at a key. -/
def at_ (k n x : Nat) : List (Nat × Byte) := (leBytes n x).zipIdx.map fun b => (k + b.2, b.1)
/-! A graph image at address 0 of context 0 (R415, R416), in frame 20: two nodes, a gang and a walked one, and one object
with a kernel symbol. The page table stands in frames 8 to 10. At 1024 stands a fork descriptor: record at 2048, group 7, one
sibling, continuation slots at 8192. -/

def pageTable : List (Nat × Byte) :=
  [(0x80000, 1), (0x80002, 9), (0x90000, 1), (0x90002, 10), (0xA0000, 19), (0xA0002, 40), (0xA0008, 19), (0xA000A, 42)]
def forkDesc (n : Nat) : List (Nat × Byte) := [(0x140401, 8), (0x140408, 7), (0x14040C, BitVec.ofNat 8 n), (0x140429, 32)]
def image : List (Nat × Byte) := pageTable ++
  ([(0x140004, 1), (0x140008, 2), (0x140019, 1), (0x140020, 128), (0x140070, 1), (0x140082, 2), (0x1400A0, 1), (0x1400A2,
   1), (0x1400D4, 1), (0x1400D8, 1), (0x1400DC, 1), (0x1400E0, 1), (0x1400E2, 1), (0x140100, 64), (0x140101, 1), (0x140144,
   2), (0x140150, 96), (0x1401A0, 4), (0x1401A8, 160), (0x1401B0, 24), (0x1401C8, 192), (0x1401E6, 1)]
   ++ forkDesc 1)
def ctx0 : Context := { st := .hot, ptroot := 8, keys := [(0, 0)] }

/-- A state that holds the image, and what reading it rests on. -/
structure OnImage (s : State) : Prop where
  l2 : s.l2 = image
  mem : s.mem = []
  root : (ctxAt s 0).ptroot = 8
  keys : (ctxAt s 0).keys = [(0, 0)]
  graph : (ctxAt s 0).graph = 0
  sectors : s.badSectors = []
  plain : s.sealed = [] ∧ s.sealedFrames = []
  via : s.via = none

/-- Bytes of the image at a key, little-endian. -/
def img (k n : Nat) : Nat := leNat ((List.range n).map fun i => fget 0 image (k + i))

theorem devByte_img {s : State} (h : OnImage s) {k : Nat} (hk : k < windowKey) : devByte s k = fget 0 image k := by
  have : ¬windowKey ≤ k := by omega
  simp only [devByte, this, if_false, h.l2, h.mem, mget]
  split
  · rfl
  · exact (fget_of_not_fhas 0 k image (Bool.eq_false_iff.mpr ‹_›)).symm

theorem devBytes_img {s : State} (h : OnImage s) : ∀ n k, k + n ≤ windowKey → devBytes s k n = (List.range n).map fun i => fget 0 image (k + i)
  | 0, _, _ => rfl
  | n + 1, k, hk => by
    rw [devBytes, devByte_img h (by omega), devBytes_img h n (k + 1) (by omega), List.range_succ_eq_map, List.map_cons, List.map_map]
    congr 1
    exact List.map_congr_left fun i _ => by simp [Nat.add_assoc, Nat.add_comm 1 i]

theorem devNat_img {s : State} (h : OnImage s) (k n : Nat) (hk : k + n ≤ windowKey) : devNat s k n = img k n := by
  rw [devNat, devBytes_img h n k hk, img]

/-- The leaf of page 0. -/
def leafG : BitVec 64 := 0x280013

theorem tierG : leafTier leafG = 0 := by decide +kernel
theorem keyG : fhas [(0, 0)] (leafKey leafG) = true := by decide +kernel
theorem walkTable_img {s : State} (h : OnImage s) : walkTable s (ctxAt s 0).ptroot 0 = .leaf leafG 0xA0000 2 :=
  h.root ▸ walkTable_of (e0 := 0x90001) (e1 := 0xA0001) (e2 := 0x280013) (a0 := 0x80000) (a1 := 0x90000) (by decide +kernel)
    ((devNat_img h _ _ (by decide)).trans (by decide +kernel)) (by decide +kernel) (by decide +kernel)
    ((devNat_img h _ _ (by decide)).trans (by decide +kernel)) (by decide +kernel) (by decide +kernel) (by decide +kernel)
    ((devNat_img h _ _ (by decide)).trans (by decide +kernel)) (by decide +kernel)

theorem walkKey_img {s : State} (h : OnImage s) : walkKey s 0 0 = .leaf leafG 0xA0000 2 :=
  walkKey_of (walkTable_img h) tierG (h.keys ▸ keyG)

theorem keyOfG (o : Nat) : frameKey (leafTier leafG) (leafPfn leafG) o = 0x140000 + o := by
  have : tierBase (leafTier leafG) + leafPfn leafG * 65536 = 0x140000 := by decide +kernel
  rw [frameKey, this]

/-- The device reads the image's bytes. -/
theorem devRead_img {s : State} (h : OnImage s) (va n : Nat) (hn : 0 < n) (hv : va + n ≤ 65536) : devRead s 0 va n = .ok (img (0x140000 + va) n) := by
  rw [devRead_of (walkKey_img h) (lenderLost_own (by decide)) (by decide +kernel) keyOfG h.sectors h.plain h.via va n hn hv,
    devNat_img h _ _ (Nat.le_trans (by omega : 0x140000 + va + n ≤ 0x150000) (by decide))]
/-- Cluster C with page 0 and these bytes. -/
def obj (k : Clu) (l : List (Nat × Byte)) : State := { paged 3 k {} with l2 := l }
/-- The bytes that a word on an object at 0 reads. -/
def objIn (n : Nat) (s : State) : Nat := (objNat false n 0 (dropWalkBad (markRead { ra := [1] } s))).1

/-- A semaphore at its ceiling, one below it and one at 0. -/
theorem witness_SemaphoreWords : let s := fun (n : Nat) => obj { regs [1] with s := [(1, { val := 1 }), (2, { val := 0, pois := true })], a := [(2, 4)] } (at_ 65536 8 (n + 3 * 2 ^ 32))
    let acc : List Acc1 := [{ sp := false, wr := true, rd := true, ea := 0, n := 8, st := true }]
    Clear { rs := [1], ra := [1] } (s 3) ∧ Clear { ra := [1] } (s 0) ∧ Clear { ra := [1], ws := [5] } (s 1) ∧ (readS (clu (s 3)) 1).pois = false
      ∧ (readS (clu (s 3)) 2).pois = true ∧ (readA (clu (s 3)) 2).toNat % 8 ≠ 0 ∧ pchk (markRead { ra := [1] } (s 3)) acc = .ok
      ∧ objIn 8 (s 3) / 2 ^ 32 % 2 ^ 16 < objIn 8 (s 3) % 2 ^ 32 + 1 ∧ objIn 8 (s 2) % 2 ^ 32 + 1 ≤ objIn 8 (s 2) / 2 ^ 32 % 2 ^ 16
      ∧ objIn 8 (s 0) % 2 ^ 32 = 0 ∧ 1 ≤ objIn 8 (s 1) % 2 ^ 32
      ∧ pchk (probe 3 {} {}) acc = .walk 0 ∧ pchk (s 0) [{ sp := false, wr := true, rd := true, ea := 2 ^ 48, n := 8, st := true }] = .bad cMEMFAULT (2 ^ 48) := by
  simp only [clear_iff]; decide +kernel
/-- A barrier all of whose arrivals are in, one whose phase completes with the next, and phases 1 and 0. -/
theorem witness_BarrierWords : let s := fun (x : Nat) => obj { regs [1] with a := [(1, 0), (2, 1)] } (at_ 65536 8 x)
    let acc := fun (wr : Bool) => ([{ sp := false, wr := wr, rd := true, ea := 0, n := 32, st := true }] : List Acc1)
    Clear { rs := [1], ra := [1] } (s 0) ∧ Clear { ra := [1] } (s 0) ∧ Clear { ra := [1], ws := [5] } (s 0) ∧ (readS (clu (s 0)) 1).pois = false
      ∧ pchk (s 0) (acc true) = .ok ∧ pchk (s 0) (acc false) = .ok
      ∧ objIn 8 (s (2 ^ 48 + 2 ^ 34)) / 2 ^ 34 % 2 ^ 14 = objIn 8 (s (2 ^ 48 + 2 ^ 34)) / 2 ^ 48 % 2 ^ 14
      ∧ objIn 8 (s (2 ^ 48)) / 2 ^ 34 % 2 ^ 14 ≠ objIn 8 (s (2 ^ 48)) / 2 ^ 48 % 2 ^ 14
      ∧ objIn 8 (s (2 ^ 63)) / 2 ^ 63 % 2 ≠ 0 % 2 ∧ objIn 8 (s (2 ^ 63)) / 2 ^ 63 % 2 = 1 % 2 ∧ 1 / 2 % 16 = 0 := by simp only [clear_iff]; decide +kernel
/-- A held set of this device, one of another, and none. -/
theorem witness_BarrierWords_held : let h := fun (x : Nat) => objNat false 8 16 (dropWalkBad (markRead { rs := [1], ra := [1] } (obj {} (at_ 65552 8 x))))
    (h 1).1 % 2 ^ 20 ≠ 0 ∧ (h 1).1 / 2 ^ 40 % 2 ^ 16 = (h 1).2.device ∧ (h (1 + 2 ^ 40)).1 / 2 ^ 40 % 2 ^ 16 ≠ (h (1 + 2 ^ 40)).2.device
      ∧ (h 0).1 % 2 ^ 20 = 0 := by decide +kernel
def dirty : Sector := { key := 2000, bytes := 5, dirty := 1, kindU := false }
theorem witness_HeldSets : let s := fun (l : List Sector) (x : Nat) => { paged 3 {} { l1 := l } with l2 := at_ 65552 8 x }
    let r := fun (l : List Sector) (x : Nat) => objNat false 8 16 (dropWalkBad (markRead { ra := [1] } (s l x)))
    let d := fun (x : State) => (core x).l1.filter fun l => storesUpTo (cluAt (core x) clC).know l.since l != 0
    Clear { ra := [1] } (s [dirty] 0) ∧ pchk (markRead { ra := [1] } (s [dirty] 0)) [{ sp := false, wr := true, rd := true, ea := 0, n := 32, st := true }] = .ok
      ∧ pchk (markRead { ra := [1] } (s [dirty] 0)) [{ sp := false, wr := false, rd := true, ea := 0, n := 32, st := true }] = .ok
      ∧ d (r [] 0).2 = [] ∧ d (r [dirty] 0).2 ≠ [] ∧ (r [dirty] 0).1 % 2 ^ 20 = 0 ∧ (r [dirty] 0).2.holds.length + 1 ≤ 262144
      ∧ ((r [dirty] (1 + 2 ^ 40)).1 % 2 ^ 20 ≠ 0 ∧ (r [dirty] (1 + 2 ^ 40)).1 / 2 ^ 40 % 2 ^ 16 ≠ (r [dirty] (1 + 2 ^ 40)).2.device) := by
  simp only [clear_iff]; decide +kernel

/-! Context 0, whose pages 0 and 1 are the frames 20 and 21. -/

/-- Cluster C of a tile of context 0, with page 0 and the words of the shadow descriptor. -/
def world (k : Clu) (c : Core) (l : List (Nat × Byte)) : State :=
  { probe 3 k { c with look := [{ ctx := 0, page := 0, leaf := 0x280013 }] } with ctxs := [(0, ctx0)], l2 := pageTable ++ l }
theorem witness_ShadowWords_open : let s := world {} {} (at_ 0x140000 8 0x10000 ++ at_ 0x140008 4 1)
    let m := markRead { ra := [1], ws := [5] } s
    let r := objNat false 32 0 (dropWalkBad m)
    Clear { ra := [1], ws := [5] } s ∧ pchk m [{ sp := false, wr := true, rd := true, ea := 0, n := 32, st := true }] = .ok
      ∧ fieldAt r.1 0 8 = 65536 ∧ fieldAt r.1 8 4 = 1 ∧ fieldAt r.1 12 4 = 0 ∧ fieldAt r.1 24 8 = 0
      ∧ ownLeaf r.2 1 = some (0x2A0013, 0xA0008, 2) ∧ leafSH 0x2A0013 = false ∧ 1 ≤ freeFrames r.2 0 := by simp only [clear_iff]; decide +kernel
/-- A descriptor of no page, a page that is open, and no room. -/
theorem witness_ShadowWords_refused : let s := fun (n : Nat) => world {} {} (at_ 0x140000 8 0x10000 ++ at_ 0x140008 4 n)
    let r := objNat false 32 0 (dropWalkBad (markRead { ra := [1], ws := [5] } (s 0)))
    fieldAt r.1 8 4 = 0 ∧ ownLeaf (s 1) 5 = none ∧ leafSH 0x2A0053 = true
      ∧ freeFrames { s 1 with groups := [{ (default : Group) with n := 6291457, maps := [⟨0, 0, 0, []⟩] }] } 0 < 1 := by decide +kernel
theorem witness_ShadowWords_publish : let l := at_ 0x140000 8 0x10000 ++ at_ 0x140008 4 1
    let s := { world {} {} l with shadows := [⟨0, [], 65536, 1, 0x100000000, [30], 0⟩], l2 := (pageTable.filter fun x => x.1 != 0xA0008) ++ (0xA0008, 0x53) :: l }
    let r := objNat false 32 0 (dropWalkBad (markRead { ra := [1] } s))
    Clear { ra := [1] } s ∧ pchk (markRead { ra := [1] } s) [{ sp := false, wr := false, rd := true, ea := 0, n := 32, st := true }] = .ok
      ∧ fieldAt r.1 8 4 = 1 ∧ (match ownLeaf r.2 1 with | some (x, _, _) => leafSH x | none => false) = true ∧ (shadowOf r.2 0 1).isSome = true
      ∧ shadowOf (world {} {} l) 0 1 = none := by simp only [clear_iff]; decide +kernel
/-- A core whose page 0 is a frame of a tier, the queue window of a device among them, and page 1 plain memory. -/
def toBlock (s : State) (tier frame : Nat) : State :=
  { s with cores := [(0, { coreAt s 0 with look := [⟨0, 0, BitVec.ofNat 64 (0x13 + tier * 2 ^ 9 + frame * 2 ^ 17)⟩, ⟨0, 1, leafC⟩] })] }
theorem witness_RemoteAndWorkQueues_remote : let k : Clu := { a := [(2, 65536)] }
    let s := { toBlock (probe 3 k {}) 0 (2 ^ 51 / 65536) with blocks := [(0, { opn := true })] }
    let no := toBlock (probe 3 k {}) 0 5
    let acc : List Acc1 := [{ sp := false, wr := false, rd := false, ea := 0, n := 64 }, { sp := false, wr := false, rd := false, ea := 65536, n := 16 }]
    let command : List Acc1 := [{ sp := false, wr := false, rd := true, ea := 65536, n := 16, st := true }]
    let rejected := fun (m : State) => match blockOfKey m (tileKey m 0) with | none => true | some (dev, n, _) => dev == m.device && refuses m n (core m).task.ctx
    let m := fun (s : State) => dropWalkBad (markRead { ra := [1, 2] } s)
    let f := releaseAll (readBytes true false 16 65536 (dropWalkBad (m s))).2
    Clear { ra := [1, 2] } s ∧ Clear { ra := [1, 2], ws := [5] } s ∧ pchk (markRead { ra := [1, 2] } s) acc = .ok
      ∧ blockOfKey f (tileKey f 0) = some (f.device, 0, 0) ∧ refuses f 0 (core f).task.ctx = false ∧ blockFull f 0 = false
      ∧ refuses { f with blocks := [(0, { en := false })] } 0 0 = true ∧ blockFull { f with blocks := [(0, { cmds := List.replicate 64 (.raw {}) })] } 0 = true
      ∧ rejected (m s) = false ∧ rejected (m no) = true ∧ pchk (m s) command = .ok ∧ pchk (m { s with badSectors := [1024] }) command = .bad cMEMERR 65536
      ∧ pchk (markRead { ra := [1, 2] } no) acc = .ok ∧ blockOfKey no (tileKey no 0) = none := by simp only [clear_iff]; decide +kernel
theorem witness_RemoteAndWorkQueues_abroad : let far := toBlock (probe 3 {} {}) 2 (3 * 2 ^ 20 + 0xFFFFE)
    (match blockOfKey far (tileKey far 0) with | some (d, n, _) => d == 3 && n == 0 | none => false) = true ∧ 3 ≠ far.device ∧ 3 ∉ far.lostDevs
      ∧ far.sent = [] := by decide +kernel
def wq (head tail log : Nat) : State :=
  obj { a := [(2, 1024)] } (at_ 65536 4 head ++ at_ 65540 4 tail ++ at_ 65544 4 log)
/-- A state after its registers are read, for the first access of a word. -/
def fresh (u : Use) (s : State) : State := onCore (fun c => { c with late := [] }) (markRead u s)
theorem wq_reads (head tail log : Nat) : objNat false 64 0 (fresh { ra := [1, 2] } (wq head tail log))
    = (devNat (wq head tail log) 65536 64, fresh { ra := [1, 2] } (wq head tail log)) :=
  objNat_plain 64 0 rfl rfl (l := leafC) (by decide) (by rfl) ⟨rfl, rfl⟩ (by decide)
/-- A work queue of 16 records: empty, with one and full; and a header that breaks its rules. -/
theorem witness_RemoteAndWorkQueues_work :
    let acc := fun (wr : Bool) => ([{ sp := false, wr := true, rd := true, ea := 0, n := 64, st := true }, { sp := false, wr := wr, rd := false, ea := 1024, n := 16 }] : List Acc1)
    let own := fun (wr : Bool) => ({ sp := false, wr := wr, rd := !wr, ea := 1024, n := 16, st := true } : Acc1)
    let ring := fun (wr : Bool) => ({ sp := false, wr := wr, rd := !wr, ea := 64, n := 16, st := true } : Acc1)
    let r := fun (head tail log : Nat) => objNat false 64 0 (fresh { ra := [1, 2] } (wq head tail log))
    let struck := fresh { ra := [1, 2] } { wq 0 1 4 with badSectors := [1040] }
    Clear { ra := [1, 2] } (wq 0 0 4) ∧ Clear { ra := [1, 2], ws := [5] } (wq 0 0 4) ∧ pchk (markRead { ra := [1, 2] } (wq 0 0 4)) (acc true) = .ok
      ∧ pchk (markRead { ra := [1, 2] } (wq 0 0 4)) (acc false) = .ok
      ∧ wqOk (r 0 0 4).1 = true ∧ wqOk (r 0 0 31).1 = false ∧ fieldAt (r 0 0 4).1 0 4 = fieldAt (r 0 0 4).1 4 4
      ∧ fieldAt (r 0 1 4).1 0 4 ≠ fieldAt (r 0 1 4).1 4 4 ∧ (16 + 2 ^ 32 - 0) % 2 ^ 32 = 2 ^ fieldAt (r 0 16 4).1 8 4
      ∧ pchk (r 0 1 4).2 [own false] = .ok ∧ pchk (r 0 1 4).2 [own true] = .ok ∧ pchk (r 0 1 4).2 [own false, ring true] = .ok
      ∧ pchk (r 0 1 4).2 [own true, ring false] = .ok ∧ pchk struck [own false] = .bad cMEMERR 1024
      ∧ pchk struck [own false, ring true] = .bad cMEMERR 1024 := by simp only [clear_iff, wq_reads]; decide +kernel

/-- Cluster C at the fork descriptor, with these bytes. -/
def forkWorld (c : Core) (bytes : List (Nat × Byte)) : State :=
  { world { a := [(1, 1024)] } c [] with l2 := bytes, runs := [{ (default : NodeRun) with id := 1, benches := [0] }] }
theorem fork_image (c : Core) : OnImage (forkWorld c image) := ⟨rfl, rfl, rfl, rfl, rfl, rfl, ⟨rfl, rfl⟩, rfl⟩
theorem fork_reads (bytes : List (Nat × Byte)) : objNat false 64 1024 (fresh { ra := [1], ws := [5] } (forkWorld {} bytes))
    = (devNat (forkWorld {} bytes) 0x140400 64, fresh { ra := [1], ws := [5] } (forkWorld {} bytes)) :=
  objNat_plain 64 1024 rfl rfl (l := leafG) (by decide +kernel) (by rfl) ⟨rfl, rfl⟩ (by decide)
theorem witness_ForkingAGroup : let s := forkWorld {} image
    let m := markRead { ra := [1], ws := [5] } s
    let r := objNat false 64 1024 (fresh { ra := [1], ws := [5] } s)
    let b := objNat false 1 2048 (dropWalkBad r.2)
    Clear { ra := [1], ws := [5] } s ∧ (core s).level = 0 ∧ pchk m [{ sp := false, wr := false, rd := true, ea := 1024, n := 64, st := true }] = .ok
      ∧ pchk r.2 [{ sp := false, wr := true, rd := false, ea := 2048, n := 640 }, { sp := false, wr := false, rd := true, ea := 2048, n := 1, st := true },
          { sp := false, wr := true, rd := false, ea := 8192, n := 4096 }] = .ok
      ∧ descBad r.1 = false ∧ fieldAt r.1 0 8 = 2048 ∧ fieldAt r.1 12 1 = 1 ∧ fieldAt r.1 40 8 = 8192 ∧ b.1 = 0 ∧ groupAtRec b.2 0 2048 = none
      ∧ b.2.groups = [] ∧ 1 ≤ (freeCores b.2 (heldBenches b.2 0)).length := by simp only [clear_iff, fork_reads]; decide +kernel
theorem graphHead_image {s : State} (h : OnImage s) : graphHead s 0 = .ok (img 0x140000 128) := by
  rw [graphHead, h.graph]; exact devRead_img h 0 128 (by decide) (by decide)
theorem readNode_image {s : State} (h : OnImage s) (n : Nat) (hn : n < 2) : readNode s 0 n = .ok (nodeOf (img (0x140080 + 64 * n) 64)) := by
  have h0 : fieldAt (img 0x140000 128) 8 4 = 2 ∧ fieldAt (img 0x140000 128) 112 4 = 1 ∧ fieldAt (img 0x140000 128) 32 8 = 128
    ∧ (∀ n, n < 2 → nodeOk (fieldAt (img 0x140000 128) 4 2) (img (0x140000 + (0 + 128 + 64 * n)) 64) = true) := by decide +kernel
  simp [readNode, graphHead_image h, ok_bind, h0.1, h0.2.1, h0.2.2.1, h.graph, Nat.not_le.mpr hn,
    devRead_img h (128 + 64 * n) 64 (by decide) (by omega)]
  have := h0.2.2.2 n hn
  rw [show 0x140000 + (0 + 128 + 64 * n) = 0x140080 + 64 * n by omega] at this
  simp [← Nat.add_assoc, this]
theorem readNode_beyond {s : State} (h : OnImage s) : readNode s 0 2 = .error .badcode := by
  have : fieldAt (img 0x140000 128) 8 4 ≤ 2 := by decide +kernel
  simp [readNode, graphHead_image h, ok_bind, this]
/-- The other outcomes: a handler, a bad descriptor, an absent node, a node of another kind, a record in use, a live number, too
few cores. -/
theorem witness_ForkingAGroup_refused : let desc := fun (n : Nat) => (objNat false 64 1024 (fresh { ra := [1], ws := [5] } (forkWorld {} (pageTable ++ forkDesc n)))).1
    (core (forkWorld { level := 1 } image)).level ≠ 0 ∧ descBad (desc 0) = true ∧ descBad (desc 65) = true ∧ descBad (desc 64) = false
      ∧ (objNat false 1 2048 (world {} {} (at_ 0x140800 1 4))).1 ≠ 0
      ∧ (freeCores (forkWorld {} image) (heldBenches (forkWorld {} image) 0)).length < 64 := by
  simp only [fork_reads]; decide +kernel
theorem image_fields : fieldAt (img 0x140000 128) 24 8 = 256
    ∧ fieldAt (img 0x140100 16) 0 8 = 320
    ∧ fieldAt (img 0x140140 96) 4 2 = 2
    ∧ fieldAt (img 0x140140 96) 16 8 = 96
    ∧ fieldAt (img 0x1401A0 32) 0 1 = 4
    ∧ fieldAt (img 0x1401A0 32) 8 8 = 160
    ∧ fieldAt (img 0x1401A0 32) 16 8 = 24
    ∧ fieldAt (img 0x1401E0 24) 4 1 = 0
    ∧ fieldAt (img 0x1401E0 24) 5 1 = 0
    ∧ fieldAt (img 0x1401E0 24) 6 2 = 1
    ∧ fieldAt (img 0x1401C0 32) 8 8 = 192
    ∧ fieldAt (img 0x1401C0 32) 0 1 = 0
    ∧ fieldAt (img 0x140200 256) 216 4 = 0 := by decide +kernel
theorem image_queues : ∀ i, i < 16 → (queueDecl (fieldAt (img 0x140200 256) (8 + 8 * i) 8)).1.declared = false := by
  have : img 0x140200 256 = 0 := by decide +kernel
  rw [this]; decide +kernel
def objView : ObjView := { at_ := 320, sects := [img 0x1401A0 32, img 0x1401C0 32] }
theorem readObj_image {s : State} (h : OnImage s) : readObj s 0 0 = .ok objView := by
  obtain ⟨a1, a2, a3, a4, -⟩ := image_fields
  simp [readObj, graphHead_image h, ok_bind, h.graph, a1, a2, a3, a4, devRead_img h, List.range_succ, readSection, pure, Except.pure, objView]
theorem readSym_image {s : State} (h : OnImage s) : readSym s 0 objView 0 = .ok (img 0x1401E0 24) := by
  obtain ⟨-, -, -, -, a5, a6, a7, -⟩ := image_fields
  simp [readSym, theSect, a5, a6, a7, devRead_img h, objView]
theorem resolve_image {s : State} (h : OnImage s) : resolveKernel s 0 0 0 = .ok (objView, img 0x1401E0 24) := by
  obtain ⟨-, -, -, -, -, -, -, a8, b8, -⟩ := image_fields
  simp [resolveKernel, readObj_image h, readSym_image h, ok_bind, a8, b8]
theorem noQueues_image : (((List.range 16).map fun i => (i, queueDecl (fieldAt (img 0x140200 256) (8 + 8 * i) 8))).filter fun x => x.2.1.declared) = [] := by
  rw [List.filter_eq_nil_iff]; intro x hx
  obtain ⟨i, hi, rfl⟩ := List.mem_map.mp hx
  simp [image_queues i (by simpa using hi)]
theorem readKernel_image {s : State} (h : OnImage s) : ∃ d, readKernel s 0 0 0 = .ok d ∧ qspace d = false ∧ d.kern.exts = [] := by
  obtain ⟨-, -, -, -, a5, -, -, -, -, a9, a10, a11, a12⟩ := image_fields
  simp [readKernel, resolve_image h, ok_bind, objView, a9, a10, devRead_img h, a12, noQueues_image, qspace, a5, a11, pure, Except.pure]
theorem witness_ForkingAGroup_node : let s := forkWorld {} image
    (∃ nd, readNode s 0 0 = .ok nd ∧ nd.kind = 2 ∧ ∃ d, readKernel s 0 nd.obj nd.ksym = .ok d ∧ qspace d = false)
      ∧ (∃ nd, readNode s 0 1 = .ok nd ∧ nd.kind ≠ 2) ∧ readNode s 0 2 = .error .badcode ∧ forkPages s 0 0 = some [] := by
  have h := fork_image {}
  have e : (nodeOf (img 0x140080 64)).kind = 2 ∧ (nodeOf (img 0x140080 64)).obj = 0 ∧ (nodeOf (img 0x140080 64)).ksym = 0
    ∧ (nodeOf (img 0x1400C0 64)).kind ≠ 2 := by decide +kernel
  obtain ⟨d, hd⟩ := readKernel_image h
  exact ⟨⟨_, readNode_image h 0 (by decide), e.1, d, by rw [e.2.1, e.2.2.1]; exact ⟨hd.1, hd.2.1⟩⟩,
    ⟨_, readNode_image h 1 (by decide), e.2.2.2⟩, readNode_beyond h, rfl⟩
def grp : Group := { (default : Group) with uid := 9, ctx := 0, record := 0, gid := 7, n := 2, st := 1 }
/-- A group at 0 of which the tile is sibling `i`, or which it has forked. -/
def groupWorld (g : Group) (sib : List (Nat × Nat)) (k : Clu) : State := { paged 3 k { task := { sib := sib } } with groups := [g] }
theorem witness_GroupWords_reward : let s := groupWorld grp [(9, 1)] (regs [0x3F800000, 0x7F800000])
    Clear { rs := [1], ra := [1], ws := [5] } s ∧ groupAtRec s 0 0 = some grp ∧ (readS (clu s) 1).pois = false
      ∧ pchk (markRead { rs := [1], ra := [1], ws := [5] } s) [{ sp := false, wr := false, rd := false, ea := 0, n := 640 }] = .ok
      ∧ sibIndex grp [(9, 1)] = some 1 ∧ sibIndex grp [] = none ∧ grp.cancel.getLsbD 1 = false ∧ ¬(3 ≤ grp.st ∧ grp.st ≤ 6) ∧ grp.arrive.getLsbD 1 = false
      ∧ (readS (clu s) 1).val.toNat / 2 ^ 23 % 2 ^ 8 ≠ 255 ∧ (readS (clu s) 2).val.toNat / 2 ^ 23 % 2 ^ 8 = 255 := by simp only [clear_iff]; decide +kernel
theorem witness_GroupWords_late : let g := { grp with st := 4, arrive := 2, cancel := 1 }
    (3 ≤ g.st ∧ g.st ≤ 6) ∧ g.arrive.getLsbD 1 = true ∧ g.cancel.getLsbD 0 = true ∧ isMember g [] = true ∧ isMember g [(3, 0)] = false := by decide +kernel
theorem witness_GroupWords_cancel : let s := groupWorld grp [] (regs [1, 2, 0xFFFFFFFF])
    Clear { rs := [1], ra := [1] } s ∧ Clear { ra := [1], ws := [5] } s ∧ isMember grp [] = true ∧ (readS (clu s) 1).val.toNat < grp.n
      ∧ grp.n ≤ (readS (clu s) 2).val.toNat ∧ (readS (clu s) 3).val = 0xFFFFFFFF := by simp only [clear_iff]; decide +kernel
def released (st : Nat) : State := obj {} (at_ 65536 1 st ++ at_ 65612 4 (ctxidOf 0 []).toNat)
theorem released_reads (st n ea : Nat) (h : ea + n ≤ 65536) : objNat false n ea (dropWalkBad (markRead { ra := [1], ws := [5] } (released st)))
    = (devNat (released st) (frameKey (leafTier leafC) (leafPfn leafC) ea) n, dropWalkBad (markRead { ra := [1], ws := [5] } (released st))) :=
  objNat_plain n ea rfl rfl (l := leafC) (by decide) (by rfl) ⟨rfl, rfl⟩ h
/-- A record whose group is released: in a terminal state with this context as its owner, and not. -/
theorem witness_GroupWords_released :
    let m := fun (st : Nat) => markRead { ra := [1], ws := [5] } (released st)
    let r := fun (st : Nat) => objNat false 1 0 (dropWalkBad (m st))
    let reading := fun (l : List (Nat × Nat)) => ({ sp := false, wr := false, rd := false, ea := 0, n := 640 } : Acc1)
      :: l.map fun x => ({ sp := false, wr := false, rd := true, ea := x.1, n := x.2, st := true } : Acc1)
    Clear { ra := [1], ws := [5] } (released 4) ∧ groupAtRec (released 4) 0 0 = none
      ∧ pchk (m 4) (reading [(0, 1), (76, 4)]) = .ok ∧ (∀ x ∈ [(0, 1), (3, 1), (8, 4), (12, 4), (32, 4)], pchk (m 4) (reading [x]) = .ok)
      ∧ pchk (m 4) (reading []) = .ok ∧ (readS (clu (released 4)) 1).pois = false ∧ Clear { rs := [1], ra := [1], ws := [5] } (released 4)
      ∧ (4 ≤ (r 4).1 ∧ (r 4).1 ≤ 6 ∧ (objNat false 4 76 (r 4).2).1 = (ctxidOf 0 []).toNat) ∧ ¬4 ≤ (r 3).1 := by
  simp only [clear_iff, released_reads _ 1 0 (by decide), released_reads _ 4 76 (by decide)]; decide +kernel
theorem witness_GroupWords_yield : let s := { groupWorld { grp with cancel := 1, pre := true } [(9, 1)] {} with word := 0x40000000 }
    Clear { ra := [1] } s ∧ (core s).level = 0 ∧ (groupAtRec (markRead { ra := [1] } s) 0 0).isSome = true
      ∧ pchk (markRead { ra := [1] } s) [{ sp := false, wr := false, rd := false, ea := 0, n := 640 }] = .ok
      ∧ ¬(s.word.getLsbD 30 = false ∨ queueLeft s = true ∨ unreadCmd s = true) ∧ mmaLeft (releaseAll s) = false
      ∧ mmaLeft { s with cores := [(0, { core s with mma := [flying], issued := 1 })] } = true
      ∧ queueLeft { s with cores := [(0, { q := [(2, wordQ)] })] } = true := by simp only [clear_iff]; decide +kernel

theorem witness_Queries : let s := probe 3 { s := [(1, { val := 0x500 }), (2, { val := 0x600 }), (3, { val := 5 }), (4, { val := 0, pois := true })] } {}
    Clear { rs := [1], ws := [5] } s ∧ Clear { rs := [4], ws := [5] } s ∧ (readS (clu s) 1).pois = false ∧ (readS (clu s) 4).pois = true
      ∧ (readS (clu s) 1).val.toNat % 256 = 0 ∧ (readS (clu s) 1).val.toNat / 256 % 8 ≤ 5 ∧ 6 ≤ (readS (clu s) 2).val.toNat / 256 % 8
      ∧ 5 ≤ (readS (clu s) 3).val.toNat % 256 ∧ runAt s 0 = none ∧ (runAt (forkWorld {} image) 1).isSome = true := by simp only [clear_iff]; decide +kernel
def doneCmd (done : Bool) : Cmd := { id := 0, cl := 0, reg := 1, done := done, code := 1 }
theorem witness_EndingTilesAndServices : let s := fun (c : Core) => probe 3 {} c
    let c := coreSeen (markRead {} (s {}))
    let on := fun (q : Queue) (w : Wait) => ({ q := [(2, q)], clu := [(0, { active := true, wait := w }), (3, { active := true })] } : Core)
    let q : Queue := { (default : Queue) with depth := 1 }
    Clear {} (s {}) ∧ c.level = 0 ∧ (core (s { level := 1 })).level ≠ 0 ∧ (∀ i ∈ [clA, clV, clM], (cluAt c i).active = false) ∧ (core (markRead {} (s {}))).treq = []
      ∧ comeFor (on q (.pop 2)) (.pop 2) (cluAt (on q (.pop 2)) 0) = false ∧ (cluAt (on q (.pop 2)) 0).wait = .pop 2
      ∧ comeFor (on { q with ents := [.marker] } (.pop 2)) (.pop 2) (cluAt (on q (.pop 2)) 0) = true ∧ rvCome (on q .rv) = false
      ∧ (core (s {})).task.sib = [] ∧ errmode c = false := by simp only [clear_iff]; decide +kernel
/-- Commands that are at work, that have failed unread, and none; MMAs that are left, and none. -/
theorem witness_EndingTilesAndServices_commands : let s := fun (c : Core) => markRead {} (probe 3 {} c)
    (∃ x ∈ cmdsSeen (s { nextCmd := 1, cmds := [doneCmd false] }), x.done = false) ∧ (∀ x ∈ cmdsSeen (s { nextCmd := 1, cmds := [doneCmd true] }), x.done = true)
      ∧ tendErr (cmdsSeen (s { nextCmd := 1, cmds := [doneCmd true] })) = some (doneCmd true) ∧ tendErr (cmdsSeen (s {})) = none
      ∧ mmaLeft (s {}) = false ∧ mmaLeft (s { mma := [flying], issued := 1 }) = true := by decide +kernel
theorem witness_EndingTilesAndServices_services : let s := probe 3 { s := [(1, { val := 9 }), (2, { val := 0, pois := true })] } {}
    Clear { ws := [5] } s ∧ Clear { rs := [1] } s ∧ Clear { rs := [2] } s ∧ Clear { rs := [6, 7, 8, 9], ws := [6] } s ∧ (core s).level = 0
      ∧ (readS (clu s) 1).pois = false ∧ (readS (clu s) 1).val ≠ 0 ∧ (readS (clu s) 3).val = 0 ∧ (readS (clu s) 2).pois = true ∧ (core s).sleep = none
      ∧ (core s).sysc = none ∧ (∀ r ∈ [6, 7, 8, 9], (readS (clu s) r).pois = false) ∧ ({ sleep := some 0 } : Core).sleep = some 0
      ∧ ({ sysc := some (2, [5, 0, 0, 0]) } : Core).sysc = some (2, [5, 0, 0, 0]) ∧ (5 : Word).toNat ≤ 5 ∧ 5 < (6 : Word).toNat := by
  simp only [clear_iff]; decide +kernel

/-- A booted device, with a context of the image's page table and these runs. -/
def booted : State := { State.reset with boot := { stage := 7 }, ctxs := [(0, ctx0)], l2 := image }
theorem booted_image : OnImage booted := ⟨rfl, rfl, rfl, rfl, rfl, rfl, ⟨rfl, rfl⟩, rfl⟩
/-- A walk that finds its leaf and one that fails. -/
theorem witness_WalksAndTranslations_walks : let s := fun (p : Nat) => { booted with walks := [⟨0, 0, p, [(0, 3, 0)]⟩] }
    (s 0).walks[(s 0).cur]? = some ⟨0, 0, 0, [(0, 3, 0)]⟩ ∧ walkKey (s 0) 0 0 = .leaf leafG 0xA0000 2 ∧ (match walkKey (s 5) 0 5 with | .bad _ _ => true | .leaf _ _ _ => false) = true
      ∧ (cluAt { clu := [(3, { wait := .walk })] } 3).wait = .walk := by decide +kernel
theorem witness_WalksAndTranslations : let c : Core := { busy := true, qdead := 2 ^ 20, clu := [(3, { active := true, wait := .pop 2 })] }
    let d : Core := { busy := true, kctl := 16 }
    deadCount (core { booted with cores := [(0, c)] }) = true ∧ 2 ^ 20 ≤ c.qdead ∧ (cluAt c clC).active = true
      ∧ d.busy = true ∧ d.kctl.getLsbD 4 = true ∧ d.sampleAt ≤ booted.cycle
      ∧ ({ booted with inputs := [.soft 0 (.frame 3)] } : State).inputs = .soft 0 (.frame 3) :: []
      ∧ ({ booted with inputs := [.soft 0 .corrected] } : State).inputs = .soft 0 .corrected :: []
      ∧ ({ booted with inputs := [.trip 0 false] } : State).inputs = .trip 0 false :: [] := by decide +kernel
theorem witness_WalksAndTranslations_translations : let x : Xlate := { ctx := 0, die := 0, base := 0, st := .building, words := [.word 0] }
    let s := { booted with xlates := [x], tableBusy := some ⟨1156, {}, none⟩ }
    s.xlates[s.cur]? = some x ∧ x.st = .building ∧ ({ x with st := .valid } : Xlate).st ≠ .building ∧ x.base ∉ usedStreams s 0 0
      ∧ s.tableBusy = some ⟨1156, {}, none⟩ ∧ (∀ nc ∈ s.cores, nc.2.busy = false) ∧ (∀ c ∈ s.ctxs, c.2.st ≠ .migrating) := by decide +kernel
/-- The first and the last block of a kind, room and none, a tag that matches and one that does not. -/
theorem witness_RegisterBlocks : let s := { booted with inputs := [.regWrite 1159 16 0x05000000 0], blocks := [(1159, { staged := true, pk := { w3 := 0x05000000 } }), (0, { held := true })] }
    s.inputs = .regWrite 1159 16 0x05000000 0 :: [] ∧ s.boot.stage = 7 ∧ blockDepth 1159 ≠ 0 ∧ blockDepth 0 ≠ 0 ∧ 16 % 64 / 4 = 4
      ∧ (blockAt s 1159).en = true ∧ (blockAt s 1159).held = false ∧ (blockAt s 1159).staged = true
      ∧ (0x00000005 : Word).toNat % 256 = (blockAt s 1159).pk.w3.toNat / 2 ^ 24 ∧ (0x00000006 : Word).toNat % 256 ≠ (blockAt s 1159).pk.w3.toNat / 2 ^ 24
      ∧ blockFull s 1159 = false ∧ blockFull { s with blocks := [(1159, { cmds := List.replicate (blockDepth 1159) (.raw {}) })] } 1159 = true
      ∧ (blockAt { s with blocks := [(1159, { en := false })] } 1159).en = false
      ∧ (0x80000000 : Word).getLsbD 31 = true ∧ (blockAt s s.cur).held = true ∧ blockFull s s.cur = false := by decide +kernel
def packetOp (op : Nat) : Packet := { w2 := BitVec.ofNat 32 (op * 2 ^ 16) }
theorem witness_EngineRows_packets : ∀ op, op < 6 → let s := { booted with blocks := [(0, { cmds := [.raw (packetOp op)] })] }
    s.power.pend = false ∧ nextCmd? (blockAt s s.cur) = some (.raw (packetOp op)) ∧ (packetOp op).w2.toNat / 2 ^ 16 % 8 = op := by decide +kernel
/-- A CPY of one byte from page 0 to page 1, at which neither end fails. -/
def cpyCmd : EngCmd := { org := .block, op := .cpy, ctx := 0, count := 1, dst := 65536, src := 4 }
theorem witness_EngineRows_copy : let s := { booted with blocks := [(0, { cmds := [.cmd cpyCmd] })] }
    let run := fun (e : EngCmd) => match planOf s e with | .ok ps => (runMoves e e.sd ps s).2 | .error x => (0, some x)
    walkAhead s s.cur (.cmd cpyCmd) = false ∧ walkAhead { s with walks := [{ die := 0, ctx := 0, page := 0, waiters := [] }] } s.cur (.raw {}) = true ∧
    nextCmd? (blockAt s s.cur) = some (.cmd cpyCmd) ∧ (∀ c ∈ (blockAt s s.cur).cmds, ∀ x ∈ [cpyCmd], c ≠ .taken x) ∧ cpyCmd.op ≠ .enq
      ∧ cpyCmd.pre = none ∧ barErr s cpyCmd = none ∧ cpyCmd.mode = 0
      ∧ (cpyCmd.src.toNat + cpyCmd.count ≤ cpyCmd.dst.toNat ∨ cpyCmd.dst.toNat + cpyCmd.count ≤ cpyCmd.src.toNat)
      ∧ run cpyCmd = (1, none) ∧ (run { cpyCmd with src := 0x100000000 }).2.isSome = true ∧ (planOf s cpyCmd matches .ok _)
      ∧ (match planOf s { cpyCmd with mode := 7 } with | .error _ => true | .ok _ => false) = true
      ∧ (barErr s { cpyCmd with hasBar := true, bar := 1 }).isSome = true := by decide +kernel
/-- An ENQ into the queue window, page 5, whose block 0 is open. -/
def enqCmd : EngCmd := { org := .block, op := .enq, ctx := 0, dst := 0x50000, src := 0 }
theorem witness_EngineRows_enq : let s := { booted with cur := 1, l2 := image ++ [(0xA0028, 0x13), (0xA002E, 0x10)], blocks := [(0, { opn := true }), (1, { cmds := [.cmd enqCmd] })] }
    let g := { s with via := some s.cur }
    nextCmd? (blockAt s s.cur) = some (.cmd enqCmd) ∧ (∀ c ∈ (blockAt s s.cur).cmds, ∀ x ∈ [enqCmd], c ≠ .taken x)
      ∧ walkAhead s s.cur (.cmd enqCmd) = false ∧ enqCmd.pre = none ∧ barErr g enqCmd = none
      ∧ (match engNat g enqCmd false enqCmd.src.toNat 16 with
        | .ok m => (match runEnq (dropCmd g s.cur (.cmd enqCmd)) s.cur { enqCmd with map := BitVec.ofNat 512 m } with
          | .ok t => (blockAt t 0).cmds.length == 1 | .error _ => false)
        | .error _ => false) = true := by decide +kernel
def dieCmd (op : EngOp) : EngCmd := { org := .block, op := op, ctx := 0 }
def join : Joined := { setid := 0, seq := 0, rank := 0, n := 1, op := 0, ty := 0, count := 0, root := 0, stats := false, data := none, err := none,
                       die := 0, cmd := none }
theorem witness_EngineRows_die : let s := fun (c : QCmd) => { booted with cur := 128, blocks := [(128, { cmds := [c] })] }
    (∀ op, op < 4 → nextCmd? (blockAt (s (.raw (packetOp op))) 128) = some (.raw (packetOp op)) ∧ (packetOp op).w2.toNat / 2 ^ 16 % 4 = op)
      ∧ (∀ op ∈ [EngOp.coll true, .upd, .msrch], nextCmd? (blockAt (s (.cmd (dieCmd op))) 128) = some (.cmd (dieCmd op))
        ∧ firstUpd (blockAt (s (.cmd (dieCmd op))) 128) = none)
      ∧ booted.lostDevs = [] ∧ walkAhead (s (.raw {})) 128 (.raw {}) = false ∧ walkAhead (s (.raw {})) 128 (.cmd (dieCmd .upd)) = false
      ∧ (∀ j ∈ booted.joined, (membersOf booted j).length < j.n) ∧ join.n ≤ (membersOf { booted with joined := [join] } join).length
      ∧ (∀ w ∈ [none, some (0, none)], let s := { booted with joined := [{ join with cmd := some (dieCmd (.coll true)), wrote := w }] }
         (∃ m ∈ membersOf s join, m.cmd ≠ none ∧ m.wrote = none) ∨ ∀ m ∈ membersOf s join, m.wrote ≠ none)
      ∧ firstUpd (blockAt (s (.taken (dieCmd .upd))) 128) = some (dieCmd .upd)
      ∧ (updTry { dropCmd (s (.taken (dieCmd .upd))) 128 (.taken (dieCmd .upd)) with via := some 128 } 128 (dieCmd .upd)).isSome = true := by decide +kernel
def hotQueue (q : Packet) : State := { booted with blocks := [(132, { cmds := [.raw q] })] }
theorem witness_ContextQueue : ∀ q ∈ [({} : Packet), { w0 := 256 }, { w0 := 4 }, { w0 := 3, w1 := 7 }, { w0 := 3, w1 := 8 }, { w0 := 1, w1 := 1 }, { w0 := 2, w1 := 0x10000 }],
    let s := hotQueue q
    let x := ctxAt s s.cur
    x.st = .hot ∧ x.halt = none ∧ x.run = none ∧ x.rerun = none ∧ nextCmd? (blockAt s (ctxBlock s.cur)) = some (.raw q) := by decide +kernel
/-- The image has two nodes: 0 to 1 are its nodes, and 2 is none. -/
theorem witness_ContextQueue_graph (q : Packet) : let s := hotQueue q
    graphHead (setCtx (dropCmd s 132 (.raw q)) 0 { ctxAt s 0 with taken := 1 }) 0 = .ok (img 0x140000 128) ∧ fieldAt (img 0x140000 128) 8 4 = 2 := by
  have h : OnImage (setCtx (dropCmd (hotQueue q) 132 (.raw q)) 0 { ctxAt (hotQueue q) 0 with taken := 1 }) := ⟨rfl, rfl, rfl, rfl, rfl, rfl, ⟨rfl, rfl⟩, rfl⟩
  exact ⟨graphHead_image h, by decide +kernel⟩

/-- A context that runs nodes from `n` to 1, and what is queued with it. -/
def running (n : Nat) (f : Option (Nat × Word × Nat)) : State :=
  { booted with ctxs := [(0, { ctx0 with run := some { id := 0, pk := {}, first := 0, last := 2, next := n, single := true, failed := f } })] }
theorem running_image (n : Nat) (f : Option (Nat × Word × Nat)) : OnImage (running n f) := ⟨rfl, rfl, rfl, rfl, rfl, rfl, ⟨rfl, rfl⟩, rfl⟩
theorem launchCheck_of {s : State} {ctx n : Nat} {nd : Node} {d : Descr} (h : readNode s ctx n = .ok nd) (k : nd.kind ≠ 2)
    (hd : readKernel s ctx nd.obj nd.ksym = .ok d) (hq : qspace d = false) (hx : d.kern.exts = []) : launchCheck s ctx n = .ok (nd, d) := by
  simp [launchCheck, h, k, hd, hq, unpinnedRows, hx]
theorem launchCheck_kind2 {s : State} {ctx n : Nat} {nd : Node} (h : readNode s ctx n = .ok nd) (k : nd.kind = 2) :
    launchCheck s ctx n = .ok (nd, { kern := {}, depths := [] }) := by
  simp [launchCheck, h, k]
theorem launchCheck_beyond {s : State} {ctx n : Nat} (h : readNode s ctx n = .error .badcode) : launchCheck s ctx n = .error (2, 0, 0) := by
  simp [launchCheck, h]
theorem waiterOf_of {s : State} {ctx n : Nat} {u : Run} {nd : Node} {d : Descr} (g : gangWaits s ctx = none) (m : mayLaunch s ctx = true)
    (r : (ctxAt s ctx).run = some u) (hn : nextNode (ctxAt s ctx) u = some n) (hu : u.single = true) (h : launchCheck s ctx n = .ok (nd, d)) (k : nd.kind ≠ 2) :
    waiterOf s ctx = some (nd.minb, nd.want) := by
  simp [waiterOf, g, m, r, hn, predsDone, hu, h, k]
theorem check_node (n : Nat) (f : Option (Nat × Word × Nat)) : ∃ d, launchCheck (running n f) 0 1 = .ok (nodeOf (img 0x1400C0 64), d) := by
  have h := running_image n f
  obtain ⟨d, hd, hq, he⟩ := readKernel_image h
  have e : (nodeOf (img 0x1400C0 64)).kind ≠ 2 ∧ (nodeOf (img 0x1400C0 64)).obj = 0 ∧ (nodeOf (img 0x1400C0 64)).ksym = 0 := by decide +kernel
  exact ⟨d, launchCheck_of (readNode_image h 1 (by decide)) e.1 (by rw [e.2.1, e.2.2]; exact hd) hq he⟩
theorem waiter_node : waiterOf (running 1 none) 0 = some (1, 1) := by
  obtain ⟨d, hd⟩ := check_node 1 none
  have e : (nodeOf (img 0x1400C0 64)).kind ≠ 2 ∧ (nodeOf (img 0x1400C0 64)).minb = 1 ∧ (nodeOf (img 0x1400C0 64)).want = 1 := by decide +kernel
  have := waiterOf_of (s := running 1 none) (ctx := 0) (n := 1) (by decide +kernel) (by decide +kernel) rfl (by decide +kernel) rfl hd e.1
  rw [this, e.2.1, e.2.2]
theorem witness_GafferRows_ends : (∀ f ∈ [none, some (2, 0, 0)], let s := running 3 f
    ((ctxAt s 0).run.map fun u => nextNode (ctxAt s 0) u) = some none ∧ ((ctxAt s 0).st = .hot ∨ (ctxAt s 0).st = .suspended) ∧ ∀ r ∈ s.runs, r.ctx = s.cur → r.gang ≠ none) := by decide +kernel
theorem chosen_of {s : State} {ctx : Nat} (hc : s.ctxs = [(ctx, ctxAt s ctx)]) (hr : (ctxAt s ctx).reserving = false)
    (w : ∃ k, waiterOf s ctx = some (1, k)) (f : 1 ≤ (freeBenches s).length) (he : effClass s ctx ≤ 4) : chosen s = some ctx := by
  obtain ⟨k, w⟩ := w
  have ws : waiters s = [ctx] := by simp [waiters, hc, w]
  have o : oldestReserving s = none := by simp [oldestReserving, ws, hr]
  have fd : decide (1 ≤ (freeBenches s).length) = true := by simpa using f
  have best : [ctx].foldl (fun m c => min m (effClass s c)) 4 = effClass s ctx := by simp [Nat.min_eq_right he]
  simp only [chosen, o, ws, List.filter_cons, List.filter_nil, w, fd, if_true, best, beq_self_eq_true]
  generalize fget (0, 0) s.served _ = lk
  obtain ⟨last, k⟩ := lk
  by_cases h : last = ctx
  · subst h; by_cases h2 : k < 4 - (ctxAt s last).prio <;> simp [h2]
  · by_cases h3 : last < ctx <;> simp [h, h3, List.find?]
/-- Node 2 is none of the image; node 1 launches, its context being the only one with a waiter. -/
theorem witness_GafferRows_launch : let x := fun (n : Nat) => ctxAt (running n none) 0
    (∀ n ∈ [0, 1, 2], ((x n).run.map fun u => nextNode (x n) u) = some (some n) ∧ mayLaunch (running n none) 0 = true)
      ∧ ((x 0).run.map fun u => u.single) = some true ∧ ((x 1).run.map fun u => u.single) = some true ∧ ((x 2).run.map fun u => u.single) = some true
      ∧ launchCheck (running 2 none) 0 2 = .error (2, 0, 0) ∧ (∃ nd d, launchCheck (running 1 none) 0 1 = .ok (nd, d) ∧ nd.kind ≠ 2)
      ∧ (∃ nd d, launchCheck (running 0 none) 0 0 = .ok (nd, d) ∧ nd.kind = 2)
      ∧ gangWaits (running 1 none) 0 = none ∧ chosen (running 1 none) = some 0
      ∧ nodeRuns (running 1 none) 0 = false ∧ (waiterOf (running 1 none) 0).isSome = true := by
  obtain ⟨d, hd⟩ := check_node 1 none
  exact ⟨by decide +kernel, by decide +kernel, by decide +kernel, by decide +kernel, launchCheck_beyond (readNode_beyond (running_image 2 none)), ⟨_, d, hd, by decide +kernel⟩,
    ⟨nodeOf (img 0x140080 64), { kern := {}, depths := [] }, launchCheck_kind2 (readNode_image (running_image 0 none) 0 (by decide)) (by decide +kernel), by decide +kernel⟩,
    by decide +kernel, chosen_of rfl rfl ⟨1, waiter_node⟩ (by decide +kernel) (by decide +kernel), by decide +kernel, by rw [waiter_node]; rfl⟩
def node (g : Option Nat) : NodeRun := { id := 1, ctx := 0, node := 1, kind := 0, kern := {}, benches := [0], tasks := [(0, 0, 0, 0)], gang := g }
theorem witness_GafferRows_dispatch : let s := { booted with cur := 1, runs := [node none] }
    runAt s s.cur = some (node none) ∧ (node none).gang = none ∧ (node none).kind ≠ 1 ∧ (node none).tasks = (0, 0, 0, 0) :: []
      ∧ (ctxAt s (node none).ctx).st = .hot ∧ (ctxAt s (node none).ctx).halt = none ∧ s.tableBusy = none ∧ freeCores s [0] ≠ []
      ∧ (∀ n ∈ freeCores s [0], translated { s with free := s.free + 1 } 0 (dieOf n) (node none).kern = true) := by decide +kernel
/-- Two gangs wait for benches, each of its context; the one of context 1 is older and reserving. -/
def gang (ctx : Nat) : Group := { (default : Group) with uid := ctx, ctx := ctx, n := 1, st := 1 }
theorem witness_GafferRows_reserving : let s := { booted with ns := 4000000, groups := [gang 0, gang 1]
                                                              ctxs := [(0, { ctx0 with waitFrom := some 0 }), (1, { ctx0 with waitFrom := some 0, reserving := true })] }
    waiterOf s s.cur = some (1, 1) ∧ 4000000 ≤ waited s s.cur
      ∧ oldestReserving (setCtx { s with ctxs := [(0, { ctx0 with waitFrom := some 0 })] } s.cur { ctxAt s s.cur with reserving := true }) = some 0 := by decide +kernel
/-- A gang all of whose siblings are cancelled before it starts, and one that resumes. -/
def ended (st : Nat) : Group := { gang 0 with cancel := 1, st := st, node := 1 }
def gangState (st : Nat) : State := { booted with cur := 1, runs := [node (some 0)], groups := [ended st] }
theorem witness_GafferRows_gang : let s := gangState 1
    runAt s s.cur = some (node (some 0)) ∧ (node (some 0)).gang.bind (groupOf s) = some (ended 1) ∧ (ended 1).started = false ∧ gangDue s (ended 1) = true
      ∧ (gangCores (gangGrant s (ended 1) (node (some 0))) (ended 1) (node (some 0))).1 = some [] := by decide +kernel
theorem witness_GafferRows_patches (u : State) (h : OnImage u) : readPatches u 0 1 = .ok [] ∧ writePatches 0 0 [] u = (u, none) := by
  have e : fieldAt (img 0x140000 128) 16 4 = 0 := by decide +kernel
  refine ⟨?_, rfl⟩
  simp [readPatches, graphHead_image h, ok_bind, e, pure, Except.pure]
theorem witness_GafferRows_resume : let s := { gangState 7 with cur := 0 }
    groupOf s s.cur = some (ended 7) ∧ (ended 7).st = 7 ∧ gangDue s (ended 7) = true ∧ (match resumeRun s (ended 7) with | (some r, _) => r == node (some 0) | (none, _) => false) = true
      ∧ (gangCores (gangGrant s (ended 7) (node (some 0))) (ended 7) (node (some 0))).1 = some []
      ∧ groupOf { s with groups := [{ gang 0 with left := some 0 }] } 0 = some { gang 0 with left := some 0 } := by decide +kernel
/-! Commands of a host queue, block 1156. -/

def hostState (q : Packet) (st : CtxSt) (l2 : List (Nat × Byte)) : State :=
  { booted with cur := 1156, blocks := [(1156, { cmds := [.raw q] })], ctxs := [(0, { ctx0 with st := st })], l2 := l2 }
def codeP (w0 : Nat) : Packet := { w0 := BitVec.ofNat 32 w0 }
theorem witness_ContextCommands_codes : ∀ c ∈ [0, 1, 0x10, 0x11, 0x12, 0x13, 0x14, 0x15, 0x16, 0x17, 0x18, 0x19], ∀ st ∈ [CtxSt.defined, .loaded, .hot, .cold, .suspended, .retired],
    let s := hostState (codeP c) st image
    1156 ≤ s.cur ∧ s.cur < 1160 ∧ s.boot.stage = 7 ∧ nextCmd? (blockAt s s.cur) = some (.raw (codeP c)) ∧ (codeP c).w0.toNat % 256 = c
      ∧ (codeP c).w0.toNat / 2 ^ 8 % 2 ^ 10 = 0 ∧ (ctxAt s 0).st = st ∧ s.power.pend = false ∧ ctxBusy s 0 = false ∧ incoming s 0 = false ∧ hostCode c = decide (0x10 ≤ c) := by decide +kernel
/-- A context block of zeros is good, one of priority 4 is not; room for a context; both ends of CHOT. -/
theorem witness_ContextCommands_values : let f := fun (c : Nat) (st : CtxSt) (l2 : List (Nat × Byte)) => dropCmd (hostState (codeP c) st l2) 1156 (.raw (codeP c))
    let bad := fun (e : Nat) => 3 < fieldAt e 6 1 ∨ 1 < fieldAt e 7 1 ∨ fieldAt e 114 6 ≠ 0 ∨ fieldAt e 130 126 ≠ 0
    ¬bad (devNat (f 0x10 .retired []) 0 256) ∧ bad (devNat (f 0x10 .retired [(6, 4)]) 0 256)
      ∧ ((f 0x10 .retired []).ctxs.filter fun y => y.2.st != .retired).length < 1024
      ∧ 1024 ≤ (({ booted with ctxs := (List.range 1024).map fun i => (i + 1, { st := .cold }) } : State).ctxs.filter fun y => y.2.st != .retired).length
      ∧ incoming { booted with ctxs := [(0, { ctx0 with st := .migrating, dev := 3 })] } 0 = true
      ∧ (match heat (f 0x12 .cold image) 0 with | .ok _ => true | .error _ => false) = true
      ∧ (match heat (f 0x12 .cold []) 0 with | .ok _ => false | .error c => c == 0x28) = true := by decide +kernel
/-- Frames of the cold tier that are taken. -/
def coldTaken (s : State) : Nat := (s.used.filter fun x => x.1 == 1).length + hostFrames s 1 + (s.groups.foldl (fun n g => n + reservedOf g 1) 0)
  + (savedFrames s + mirrorFrames s)
/-- Both capacities of the cold tier leave room for a few frames and none for too many. -/
theorem cold_room {s : State} {n : Nat} (h : n + coldTaken s ≤ 8388608) : n ≤ freeFrames s 1 := by
  have : 8388608 ≤ Config.coldFrames := by rw [Config.coldFrames]; split <;> decide
  simp only [freeFrames, coldTaken] at *
  simp; omega
theorem cold_full {s : State} {n : Nat} (h : 16777216 < n) : freeFrames s 1 < n := by
  have : Config.coldFrames ≤ 16777216 := by rw [Config.coldFrames]; split <;> decide
  simp only [freeFrames] at *
  simp; omega
/-- A graph image of its header alone, with a memory plan of one page, in frame 0. -/
theorem witness_ContextCommands_load : let l := [(0, 0x47), (1, 0x52), (2, 0x41), (3, 0x46), (20, 1), (56, 128), (130, 16), (138, 1)]
    let f := dropCmd (hostState (codeP 0x11) .defined l) 1156 (.raw (codeP 0x11))
    let h := devNat f 0 128
    let len := imageLen f 0
    let plan := (List.range (fieldAt h 20 4)).map fun i => devNat f (fieldAt h 56 8 + 32 * i) 32
    let rs := (fieldAt h 120 8, (len + 65535) / 65536 * 65536) :: plan.map fun e => (fieldAt e 0 8, fieldAt e 8 8)
    (fieldAt h 0 4 = 0x46415247 ∧ fieldAt h 120 8 % 65536 = 0 ∧ fieldAt h 120 8 + len ≤ 2 ^ 48 ∧ plan.length = 1 ∧ (∀ e ∈ plan, planOk e = true)
      ∧ rs.Pairwise (fun a b => rangesMeet a b = false)) ∧ plan.foldl (fun m e => m + fieldAt e 8 8 / 65536) 0 ≤ freeFrames f 1 :=
  ⟨by decide +kernel, cold_room (by decide +kernel)⟩
def mirror : Image := { ctx := 0, copy := {}, leaves := [], frames := [], groups := [], shadows := [], cmds := [] }
/-- A mirror too large for the cold tier. -/
def hugeMirror : Image := { mirror with frames := [(1, 0, 33554432, [])] }
theorem room_of {s : State} {img : Image} (h0 : imageFrames img 1 0 + ((lentRuns img s.device).foldl (fun n r => n + r.2.2) 0) + imageTables img ≤ freeFrames s 0) :
    (imageFrames img 1 1 + extFrames img.copy + coldTaken s ≤ 8388608 → roomFor s img 1 true = true)
      ∧ (16777216 < imageFrames img 1 1 + extFrames img.copy → roomFor s img 1 true = false) := by
  refine ⟨fun h => ?_, fun h => ?_⟩
  · have := cold_room h
    simp only [roomFor, if_true]
    simp only [decide_eq_true h0, decide_eq_true this, Bool.and_self]
  · have := cold_full (s := s) h
    simp only [roomFor, if_true]
    simp only [decide_eq_true h0, decide_eq_false (Nat.not_le.mpr this), Bool.and_false]
/-- A mirror at this device, none, and one that another device is asked for. -/
theorem witness_ContextCommands_restore : let s := fun (l : List Image) (d : Nat) => { hostState (codeP 0x18) .defined image with
        mirrors := l, ctxs := [(0, { ctx0 with st := .defined, mirdev := d })] }
    let z := fun (l : List Image) => setCtx (dropCtx { dropCmd (s l 0) 1156 (.raw (codeP 0x18)) with sent := [] } 0) 0 {}
    (mirrorsOf (s [] 3) 0 = none ∧ (∀ m ∈ (s [] 3).sent, isFetch 0 3 m = false) ∧ mirrorsOf (s [] 0) 0 = some []
      ∧ mirrorsOf (s [mirror] 0) 0 = some [mirror] ∧ [mirror].getLast? = some mirror)
      ∧ roomFor (z [mirror]) mirror 1 true = true ∧ roomFor (z [hugeMirror]) hugeMirror 1 true = false :=
  ⟨by decide +kernel, (room_of (by decide +kernel)).1 (by decide +kernel), (room_of (by decide +kernel)).2 (by decide +kernel)⟩

/-- Context 0, changed. -/
def withCtx (x : Context) : State := { booted with ctxs := [(0, x)] }
theorem witness_ContextEvents : let q := withCtx { ctx0 with stepReq := true }
    let p := fun (n : Nat) => withCtx { ctx0 with pending := n }
    (ctxAt q 0).st = .hot ∧ nodeRuns q 0 = false ∧ (ctxAt q 0).stepReq = true ∧ (ctxAt q 0).rerun = none
      ∧ (∀ n ∈ [1, 2, 3, 4], (ctxAt (p n) 0).stepReq = false ∧ (ctxAt (p n) 0).pending = n ∧ occOf (blockAt (p n) (ctxBlock 0)) = 0)
      ∧ (let s := { p 3 with blocks := [(132, { cmds := [.raw {}] })] }
         (ctxAt s 0).pending = 3 ∧ nodeRuns s 0 = false ∧ (ctxAt s 0).stepReq = false ∧ occOf (blockAt s (ctxBlock 0)) ≠ 0)
      ∧ (∀ n ∈ [0, 4], let s := withCtx { ctx0 with st := .suspended, pending := n, exts := [{ size := 1024, st := 1, base := 0, gen := 0 }] }
         (ctxAt s 0).st ≠ .hot ∧ (ctxAt s 0).st ≠ .migrating ∧ (ctxAt s 0).st ≠ .retired ∧ (ctxAt s 0).pending = n ∧ ctxBusy s 0 = false
           ∧ (ctxAt s 0).st = .suspended ∧ ∃ e ∈ (ctxAt s 0).exts, inRows e = true)
      ∧ (let m : Msg := { src := 3, dst := 0, chan := 0, seq := 0, body := .committed 0 }
         let s := { withCtx { ctx0 with st := .migrating, target := 3, pending := 4, pendRef := some ⟨1156, {}, none⟩ } with inputs := [.message m], ports := [(0, { st := .up8 })] }
         (ctxAt s 0).st = .migrating ∧ incoming s 0 = false ∧ (ctxAt s 0).target ≠ s.device ∧ s.inputs = .message m :: [] ∧ m.body = .committed 0
           ∧ m.src = (ctxAt s 0).target ∧ reachesHere s m = true ∧ fget 0 s.seen (4 * m.src + m.chan) ≤ m.seq ∧ m.seq ≤ max (fget 0 s.seen (4 * m.src + m.chan)) m.floor ∧ (ctxAt s 0).pendRef = some ⟨1156, {}, none⟩)
      ∧ (let s := withCtx { ctx0 with st := .migrating, target := 3 }
         (ctxAt s 0).st = .migrating ∧ incoming s 0 = false ∧ (ctxAt s 0).going = false ∧ (ctxAt s 0).pending ≠ 4 ∧ s.joined = [])
      ∧ ({ booted with inputs := [.deviceLost 3] } : State).inputs = .deviceLost 3 :: [] ∧ booted.joined = [] ∧ booted.retiring = []
      ∧ (∀ c ∈ booted.ctxs, c.2.st ≠ .migrating)
      ∧ (let s := { withCtx { ctx0 with exts := [{ size := 1024, st := 1, base := 0, gen := 0 }] } with outVaults := [0] }
         nodeRuns s 0 = false ∧ mustLeave s 0 = true ∧ (ctxAt s 0).st ≠ .migrating ∧ s.power.pend = false) := by decide +kernel
/-- A mirror that its device has room for, and one that it has not. -/
theorem witness_ContextEvents_mirror : (∀ img ∈ [mirror, hugeMirror], let s := { withCtx ctx0 with images := [img] }
      s.images.find? (fun i => i.ctx == 0) = some img ∧ img.holder ∉ s.lostDevs ∧ img.holder = s.device ∧ (ctxAt s 0).st ≠ .retired)
    ∧ mirrorSize mirror ≤ freeFrames { withCtx ctx0 with images := [mirror] } 1
    ∧ freeFrames { withCtx ctx0 with images := [hugeMirror] } 1 < mirrorSize hugeMirror :=
  ⟨by decide +kernel, cold_room (by decide +kernel), cold_full (by decide +kernel)⟩

theorem witness_ManagementCommands_codes : ∀ c ∈ [0x20, 0x21, 0x40, 0x41, 0x42, 0x43, 0x143, 0x44, 0x45, 0x46, 0x47, 0x48, 0x49], ∀ w1 ∈ [0, 5, 6, 23, 24, 32, 64, 96, 1000],
    let q : Packet := { w0 := BitVec.ofNat 32 c, w1 := BitVec.ofNat 32 w1, w2 := 0x10000 }
    let s := hostState q .hot image
    1156 ≤ s.cur ∧ s.cur < 1160 ∧ s.boot.stage = 7 ∧ nextCmd? (blockAt s s.cur) = some (.raw q) ∧ q.w0.toNat = c ∧ q.w1.toNat = w1
      ∧ q.w2.toNat / 2 ^ 16 = 1 ∧ s.tableBusy = none ∧ s.power.pend = false := by decide +kernel
/-- The account holds a grant or does not; a key slot is full or empty, and used by a page or not; ports in their states. -/
theorem witness_ManagementCommands_values : let s := hostState {} .hot image
    (s.power.account < 1000000 * (1 : Int)) ∧ 1000000 * (0 : Int) ≤ s.power.account ∧ fhas (ctxAt s 0).keys 0 = true ∧ fhas (ctxAt s 0).keys 1 = false
      ∧ (∀ l ∈ leavesOf s 0, l.2.2.2 / 2 ^ 12 % 2 ^ 5 ≠ 1) ∧ (ctxAt (hostState {} .retired image) 0).st = .retired ∧ (ctxAt (hostState {} .migrating image) 0).st = .migrating
      ∧ fabric s 23 = true ∧ fabric { s with bridge := true } 22 = false ∧ (portAt s 3).st = .down ∧ (portAt { s with ports := [(3, { st := .up4 })] } 3).st = .up4
      ∧ (devNat s 0 4 = 0x47464357) = false := by decide +kernel
/-- A configuration image that keeps the rules on its header. -/
theorem witness_ManagementCommands_config : let s := hostState (codeP 0x48) .hot [(0, 0x57), (1, 0x43), (2, 0x46), (3, 0x47), (8, 160)]
    devNat s 0 4 = 0x47464357 ∧ devNat s 18 1 < 2 ∧ devNat s 19 45 = 0 ∧ 160 ≤ devNat s 8 8 ∧ devNat s 8 8 ≤ 2 ^ 25 := by decide +kernel
theorem witness_ManagementCommands_table : let t := fun (l : List (Nat × Byte)) => devBytes (hostState (codeP 0x21) .hot l) 0 160
    tableBad (t []) = true ∧ tableBad (t [(0, 0x54), (1, 0x53), (2, 0x55), (3, 0x42)]) = false := by decide +kernel

theorem witness_LinksAndBridge : let s := fun (st : LinkSt) (w : Nat) => { booted with ports := [(0, { st := st, lanes := 7, waited := w })] }
    portUp (portAt (s .up8 0) 0) = true ∧ (portAt (s .retraining 0) 0).st = .retraining
      ∧ (portAt (s .training 1000000) 0).st = .training ∧ 1000000 ≤ (portAt (s .training 1000000) 0).waited ∧ popN (portAt (s .training 1000000) 0).lanes.toNat 8 < 4
      ∧ (portAt (s .failed 100000000) 0).st = .failed ∧ 100000000 ≤ (portAt (s .failed 100000000) 0).waited
      ∧ popN 0xFF 8 = 8 ∧ popN 0x0F 8 = 4 ∧ popN 0x07 8 = 3 := by decide +kernel
/-- A flit of zeros but for its TYPE and its CRC field. -/
def bareFlit (ty c : Nat) : BitVec 2048 := BitVec.ofNat 2048 (ty + c * 2 ^ 2016)
theorem flit_field {ty c : Nat} (h : c < 2 ^ 32) (k : ty < 256) : flitField (bareFlit ty c) 252 4 = c ∧ flitField (bareFlit ty c) 0 252 = ty
    ∧ flitField (bareFlit ty c) 0 1 = ty ∧ ∀ o n, 0 < o → o + n ≤ 252 → 0 < n → flitField (bareFlit ty c) o n = 0 := by
  have p : (0 : Nat) < 2 ^ 2016 := Nat.two_pow_pos 2016
  have lt : ty < 2 ^ 2016 := Nat.lt_of_lt_of_le (m := 2 ^ 8) k (Nat.pow_le_pow_right (by decide) (by decide))
  have t : (bareFlit ty c).toNat = ty + c * 2 ^ 2016 := by
    rw [bareFlit, BitVec.toNat_ofNat]
    refine Nat.mod_eq_of_lt (Nat.lt_of_lt_of_le (m := 2 ^ 2016 + c * 2 ^ 2016) (by omega) ?_)
    calc 2 ^ 2016 + c * 2 ^ 2016 = (c + 1) * 2 ^ 2016 := by rw [Nat.add_mul, Nat.one_mul, Nat.add_comm]
      _ ≤ 2 ^ 32 * 2 ^ 2016 := Nat.mul_le_mul_right _ h
      _ = 2 ^ 2048 := by rw [← Nat.pow_add]
  have lo : ∀ w, w ≤ 2016 → ty < 2 ^ w → (ty + c * 2 ^ 2016) % 2 ^ w = ty := fun w hw hk => by
    obtain ⟨d, hd⟩ := Nat.exists_eq_add_of_le hw
    rw [hd, Nat.pow_add, Nat.mul_left_comm, Nat.add_mul_mod_self_left]; exact Nat.mod_eq_of_lt hk
  refine ⟨?_, ?_, ?_, fun o n h0 hn h1 => ?_⟩
  · rw [flitField, fld, t, Nat.add_mul_div_right _ _ p, Nat.div_eq_of_lt lt, Nat.zero_add]; exact Nat.mod_eq_of_lt h
  · rw [flitField, fld, t, Nat.mul_zero, Nat.pow_zero, Nat.div_one]; exact lo 2016 (Nat.le_refl _) lt
  · rw [flitField, fld, t, Nat.mul_zero, Nat.pow_zero, Nat.div_one]; exact lo 8 (by decide) k
  · have small : ty < 2 ^ (8 * o) := Nat.lt_of_lt_of_le k (Nat.pow_le_pow_right (n := 2) (by decide) (by omega : 8 ≤ 8 * o))
    obtain ⟨d, hd⟩ := Nat.exists_eq_add_of_le (by omega : 8 * o + (8 * (o + n) - 1 - 8 * o + 1) ≤ 2016)
    rw [flitField, fld, t, hd, Nat.pow_add, Nat.pow_add, Nat.mul_comm c, Nat.mul_assoc, Nat.mul_assoc,
      Nat.add_mul_div_left _ _ (Nat.two_pow_pos _), Nat.div_eq_of_lt small, Nat.zero_add, Nat.mul_mod_right]
/-- A flit with a good CRC of each TYPE, with a number of its own or, at TYPE 8, a NAK without one; and one with a bad CRC. -/
theorem witness_LinksAndBridge_flits : (∀ ty, ty < 16 → ∃ f : BitVec 2048, (crc32 (flitBytes f 0 252)).toNat = flitField f 252 4 ∧ flitField f 2 2 = 0
      ∧ (loadOf f).ty % 16 = ty ∧ (loadOf f).dst = 0 ∧ unnumbered (loadOf f) = (ty == 0 || ty == 8))
    ∧ (∃ g : BitVec 2048, (crc32 (flitBytes g 0 252)).toNat ≠ flitField g 252 4) ∧ fabric booted 23 = true ∧ fabric { booted with bridge := true } 22 = false := by
  have b : ∀ ty c, c < 2 ^ 32 → ty < 256 → flitBytes (bareFlit ty c) 0 252 = leBytes 252 ty := fun ty c h k => by rw [flitBytes, (flit_field h k).2.1]
  refine ⟨fun ty hty => ?_, ?_, by decide +kernel, by decide +kernel⟩
  · have k : ty < 256 := by omega
    have h := (crc32 (leBytes 252 ty)).isLt
    obtain ⟨f1, -, f3, f4⟩ := flit_field h k
    have e : ∀ o n, 0 < o → o + n ≤ 252 → 0 < n → flitField (bareFlit ty (crc32 (leBytes 252 ty)).toNat) o n = 0 := f4
    refine ⟨bareFlit ty (crc32 (leBytes 252 ty)).toNat, by rw [b ty _ h k, f1], e 2 2 (by decide) (by decide) (by decide), ?_,
      e 6 2 (by decide) (by decide) (by decide), ?_⟩
    · rw [loadOf, f3]; exact Nat.mod_eq_of_lt hty
    · simp only [unnumbered, loadOf, f3, e 10 1 (by decide) (by decide) (by decide), Nat.mod_eq_of_lt hty]; simp
  · have k : (if (crc32 (leBytes 252 0)).toNat = 0 then 1 else 0) < 2 ^ 32 := by split <;> decide
    refine ⟨bareFlit 0 (if (crc32 (leBytes 252 0)).toNat = 0 then 1 else 0), ?_⟩
    rw [b 0 _ k (by decide), (flit_field k (by decide)).1]
    split <;> omega
def msgOf (b : MsgBody) : Msg := { src := 3, dst := 0, chan := 2, seq := 0, body := b }
theorem witness_MessageRows : let s := { booted with blocks := [(2, { opn := true })], sent := [{ msgOf (.member join) with tries := 3 }], ns := 10000000
                                                     ports := [(0, { st := .up4 })], seen := [(18, 1)], replies := [(18, [(0, 1)])] }
    let late := { msgOf (.pull 1 true false) with src := 4 }
    reachesHere s (msgOf (.token 0)) = true ∧ fget 0 s.seen (4 * 3 + 2) = 0 ∧ max (fget 0 s.seen (4 * 3 + 2)) 0 < 1
      ∧ reachesHere s late = true ∧ late.seq < fget 0 s.seen (4 * late.src + late.chan) ∧ (late.seq, 1) ∈ fget [] s.replies (4 * late.src + late.chan)
      ∧ (0 : BitVec 128).toNat % 2 ^ 32 = s.power.epoch % 2 ^ 32 ∧ (1 : BitVec 128).toNat % 2 ^ 32 ≠ s.power.epoch % 2 ^ 32
      ∧ blockDepth 2 ≠ 0 ∧ (blockAt s 2).en = true ∧ (blockAt s 2).opn = true ∧ (blockAt s 2).held = false ∧ blockFull s 2 = false
      ∧ s.sent[s.cur]? = some { msgOf (.member join) with tries := 3 } ∧ waits (msgOf (.member join)) = true ∧ 3 < 4
      ∧ (msgOf (.member join)).from_ + 10000000 ≤ s.ns ∧ someUp booted = false ∧ (3 : Nat) ≠ booted.device := by decide +kernel
theorem witness_LinksAndBridge_bridge : let s := { booted with bridge := true, apertures := [(0, 1)] }
    booted.bridge = false ∧ s.bridge = true ∧ s.boot.stage = 7 ∧ (fget 0 s.apertures (64 / 2 ^ 28)).toNat % 2 = 1 ∧ (fget 0 s.apertures (64 / 2 ^ 28)).toNat / 2 % 2 ^ 6 = s.device % 64
      ∧ blockOfKey s 64 = none ∧ (fget 0 s.apertures (2 ^ 28 / 2 ^ 28)).toNat % 2 = 0 ∧ (24 : Nat) < 0x800000 ∧ 24 / 131072 = s.device % 64
      ∧ (windowWrite 24 [1, 0, 0, 0] s.device s).isSome = true ∧ readWaits s 0 24 = false
      ∧ (windowWrite 16 [1, 0, 0, 0] s.device { s with blocks := [(0, { held := true })] }).isNone = true := by decide +kernel
/-- A read that waits for another device, a window of a device that is out of reach, and one of a device that is not, where it is present. -/
theorem witness_LinksAndBridge_bridge_away : let s := { booted with bridge := true, lostDevs := [1] }
    readWaits { s with sent := [msgOf (.mem false 0 4 [])] } 2 0 = true ∧ readWaits s 2 0 = false ∧ 131072 / 131072 ≠ s.device % 64
      ∧ unreachable s (s.device / 64 * 64 + 131072 / 131072) = true ∧ unreachable { s with lostDevs := [], ports := [(0, { st := .up8 })] } 1 = false := by
  decide +kernel
/-- An epoch that ends; a package that is quiet with a step requested; a row; boots with an image that verifies or none. -/
theorem witness_PowerAndBoot : let s := { booted with ns := 10000000, power := { pend := true }, rows := [(0, [{ prow := 0, low := 0 }])] }
    s.epochAt + 10000000 ≤ s.ns ∧ s.power.pend = true ∧ quiet s = true ∧ quiet { s with cores := [(0, { busy := true })] } = false
      ∧ (∀ k ∈ [0, 1, 2, 3], ({ s.power with part := k } : Power).part = k) ∧ 0 < (rowList s 0).length ∧ bootSlot { slot0 := none } = none := by decide +kernel
theorem witness_PowerAndBoot_image : ∃ img : CfgImage, bootSlot { slot0 := some img } = some (0, img) :=
  ⟨{ Config.shippedImage with valid := true, version := 0 }, by simp [bootSlot, verifies, Option.filter]⟩

/-! Witnesses of the clauses on waits, damaged sectors, keys, and sets that other devices list. -/

/-- A group of which one cluster has not come, one in which a handshake is awaited, and one with a GYLD. -/
theorem witness_RendezvousRule_waits : let w := fun (i : Instr) => encode true i
    let c := fun (x : Wait) => ({ busy := true, clu := [(2, { active := true, words := 2, wait := x }), (3, { active := true, words := 2 })] } : Core)
    let two := fun (i : Instr) (x : Wait) => ({ turn {} {} [w i] with agenda := [], cl := 3, cores := [(0, c x)] } : State)
    let s := turn {} {} [w (.hwait 2)]
    let y := turn {} {} [w (.gyld 1)]
    standsAt (two .nop .none) 2 = false ∧ standsAt (two .nop .rv) 2 = true ∧ atY (two .nop .rv) 2 = true
      ∧ freeToIssue exec false { s with agenda := [], cl := 3 } 3 = false ∧ yields { y with agenda := [], cl := 3 } [3] = true := by decide +kernel
/-- A word of a cluster other than C on a program core and the numbers of a firmware core. -/
theorem witness_SystemRegisters_core : let s : State := { State.reset with cur := 513 }
    (probe 0 {} {}).cur < 512 ∧ 1 < 4 ∧ s.cur = 512 + 1 ∧ 512 ≤ s.cur ∧ Clear { ws := [3] } s ∧ Clear { rs := [1] } s := by
  simp only [clear_iff]; decide +kernel
/-- A sector under the same key pair, through a U page and not, one under another key pair, none, and a byte that a core has stored. -/
theorem witness_BytesOfMemory_sectors : let s := fun (x : Sector) => paged 0 {} { l1 := [x] }
    let x : Sector := { key := 3, bytes := 0, dirty := 1, kindU := false }
    sectorOf (coreAt (s x) 0).l1 (3 * 64) = some x ∧ x.kmat = 0 ∧ x.kindU = false ∧ x.kmat ≠ 5 ∧ ({ x with kindU := true } : Sector).kindU = true
      ∧ sectorOf (coreAt (s x) 0).l1 (4 * 64) = none ∧ x.dirty.getLsbD (3 * 64 % 64) = true ∧ x.dirty.getLsbD ((3 * 64 + 1) % 64) = false
      ∧ (∀ y ∈ (core (s x)).l1, y.kmat = 0 ∧ (y.kindU = true → leafKind leafC = 2)) ∧ keyMat (s x) 0 leafC = 0 := by decide +kernel
/-- A core other than core 1 that has stored that byte. -/
theorem witness_BytesOfMemory_own : let x : Sector := { key := 3, bytes := 0, dirty := 1, kindU := false }
    1 ≠ 0 ∧ ∃ y, sectorOf (coreAt (paged 0 {} { l1 := [x] }) 0).l1 (3 * 64) = some y ∧ y.dirty.getLsbD (3 * 64 % 64) = true :=
  ⟨by decide, _, rfl, by decide +kernel⟩
/-- A struck address register, a damaged sector, and pages that are not held. -/
theorem witness_ScalarLoadsAndStores_struck : let s := paged 0 { a := [(2, 65536)] } { soft := [.a 0 1] }
    let bad := { paged 0 {} {} with badSectors := [1024] }
    let u : Use := { ra := [1], ws := [5] }
    let acc := fun (st : Bool) (ea : Nat) => ([{ sp := false, wr := false, rd := true, ea := ea, n := 4, st := st }] : List Acc1)
    blocked (clu s) u = false ∧ latchk (coreSeen s) = false ∧ softHit (core s) s.cl u = true ∧ softHit (core s) s.cl { ra := [1] } = true
      ∧ pchk (markRead u (paged 0 {} {})) (acc true 0) = .ok ∧ pchk (markRead u (paged 0 {} {})) (acc true 65536) = .walk 1
      ∧ pchk (markRead u (paged 0 {} {})) (acc true (2 ^ 48)) = .bad cMEMFAULT (2 ^ 48) ∧ damaged bad false 0 = true ∧ damaged bad false 64 = false
      ∧ pchk bad (acc false 0) = .bad cMEMERR 0 := by decide +kernel
theorem witness_WindowMapAndCacheWords_walk : let s := paged 0 { a := [(1, 65536), (2, 2 ^ 48)] } {}
    pchk (markRead { ra := [1] } s) [{ sp := false, wr := false, rd := true, ea := 65536, n := 64 }] = .walk 1
      ∧ pchk (markRead { ra := [1] } s) [{ sp := false, wr := false, rd := false, ea := 65536, n := 1 }] = .walk 1
      ∧ pchk (markRead { ra := [2] } s) [{ sp := false, wr := false, rd := false, ea := 2 ^ 48, n := 1 }] = .bad cMEMFAULT (2 ^ 48)
      ∧ leafKind leafC ≠ 0 ∧ leafKind 0x20003 = 0 ∧ Quiet (clu s) .p 0 := by simp only [Quiet]; decide +kernel
/-- Tile queues: empty, with a hole, with a marker, and one of another kind. -/
theorem witness_TilesAndSlots_waits : let q := fun (l : List QEnt) => { tileQ 0 with ents := l }
    let s := probe 2 {} { t := [(1, { st := .conf, rows := 1 })], soft := [.tile 1] }
    headMissing (q []) = true ∧ badPop (q []) 2 = false ∧ badPush (q []) 2 = false ∧ (core s).soft.contains (.tile 1) = true
      ∧ (tileAt (core s) 1).st ≠ .unconf ∧ 2 ≤ (q []).depth ∧ (q []).ents.length < 2 ∧ QEnt.hole none ∈ (q [.elem (.tile 0), .hole none]).ents.take 2
      ∧ (let l : List QEnt := [.elem (.tile 0), .marker]
         2 ≤ l.length ∧ (∀ e ∈ l.take 2, (e matches .hole _) = false) ∧ .marker ∈ l.take 2)
      ∧ wordQ.kind ≠ .tile ∧ mmaSoft { soft := [.slot 1] } 0 1 0 = true := by decide +kernel
/-- Held sets that this device lists, that another one does, which is lost, has been asked, has answered or has not been asked. -/
theorem witness_HeldSets_abroad : let ask := fun (free done : Bool) => ({ src := 0, dst := 1, chan := 0, seq := 0, core := 1, body := .pull 5 free done } : Msg)
    let s := fun (l : List Msg) (lost : List Nat) (x : Nat) => { obj {} (at_ 65552 8 x) with sent := l, lostDevs := lost }
    let r := fun (l : List Msg) (lost : List Nat) (x : Nat) => objNat false 8 16 (dropWalkBad (markRead { ra := [1] } (s l lost x)))
    (∀ free : Bool, (∀ done : Bool, (r [ask free done] [] (5 + 2 ^ 40)).2.sent.find? (isPull ((r [] [] 0).2.cur + 1) 1 5 free) = some (ask free done))
        ∧ (r [] [] (5 + 2 ^ 40)).2.sent.find? (isPull ((r [] [] 0).2.cur + 1) 1 5 free) = none)
      ∧ (r [] [1] (5 + 2 ^ 40)).1 / 2 ^ 40 % 2 ^ 16 ≠ (r [] [1] (5 + 2 ^ 40)).2.device ∧ (r [] [1] (5 + 2 ^ 40)).1 % 2 ^ 20 ≠ 0
      ∧ 1 ∈ (r [] [1] 0).2.lostDevs ∧ 1 ∉ (r [] [] 0).2.lostDevs ∧ (r [] [] (2 ^ 40)).1 % 2 ^ 20 = 0
      ∧ (r [] [] 5).1 / 2 ^ 40 % 2 ^ 16 = (r [] [] 5).2.device
      ∧ (∀ l ∈ [({ dirty with stamps := [(0, 3)], since := [(0, 3)] } : Sector)], (storesUpTo 0 l.since l != 0) = false)
      ∧ (∃ l ∈ [dirty], (storesUpTo 0 l.since l != 0) = true) := by decide +kernel
/-- Reasons for which a GFORK is refused: no kernel, no pages, queues too deep, and rows or frames that are not there. -/
theorem witness_ForkingAGroup_refusals : let k : Kernel := { exts := [2 ^ 25] }
    forkPages (world {} {} []) 5 1 = none ∧ (match readKernel (world {} {} []) 0 0 0 with | .ok _ => false | .error _ => true) = true
      ∧ qspace { kern := { queues := [(0, { (default : Queue) with kind := .tile })] }, depths := [(0, 17, 0)] } = true
      ∧ qspace { kern := {}, depths := [] } = false ∧ unpinnedRoom (world {} {} []) < unpinnedRows k
      ∧ freeFrames { world {} {} [] with groups := [{ (default : Group) with n := 6291457, maps := [⟨0, 0, 0, []⟩] }] } 0 < (1 + 1) * 1
      ∧ covered { grp with arrive := 3 } = true ∧ ({ grp with arrive := 3 } : Group).cancel &&& lowMask 2 ≠ lowMask 2 := by decide +kernel
/-- A sibling whose group's rendezvous is not over, and one that runs no word of it. -/
theorem witness_GroupWords_late_yield : let s := groupWorld grp [(9, 1)] {}
    groupLate s = false ∧ groupLate { s with cores := [(0, { core s with treq := [⟨0, cBREAK, 7, 0, none⟩] })] } = true := by decide +kernel

/-! Witnesses of the statements on arithmetic, on the copies and on links. -/

/-- Exact, between two codes, beyond the largest code; code and magnitude at both ends. -/
theorem witness_RoundingAndBlocks : (∀ f ∈ [f32, f16, bf16, e4m3, e5m2, e2m1], 0 ≤ f.maxFin ∧ 0 < f.maxFin ∧ f.maxFin ≤ f.maxFin)
    ∧ (let r := fun (m k : Nat) => m - 1 * 2 ^ k
       1 * 2 ^ 2 ≤ 4 ∧ r 4 2 = 0 ∧ 0 < r 5 2 ∧ r 5 2 < 2 ^ 2) ∧ (∀ mode ∈ [0, 1, 2, 3, 4], mode < 5) := by decide +kernel
/-- A block with a NaN, one of zeros and one of ones. -/
theorem witness_RoundingAndBlocks_block : let one := fun (_ : Nat) => Ex.fin false 1 0 false
    (∃ i, i < 32 ∧ exSpecial (if i = 0 then Ex.nan else one i) = true) ∧ (∀ i, i < 32 → exSpecial (Ex.fin true 0 0 false) = false ∧ exZero (Ex.fin true 0 0 false) = true)
      ∧ (∃ i, i < 32 ∧ 1 ≠ 0 ∧ (Nat.log2 1 : Int) + 0 = 0) ∧ (∀ i : Nat, i < 32 → 1 ≠ 0 → (Nat.log2 1 : Int) + 0 ≤ 0) ∧ -1000000 ≤ (0 : Int) :=
  ⟨⟨0, by decide, rfl⟩, fun _ _ => ⟨rfl, rfl⟩, ⟨0, by decide, by decide, by decide⟩, fun _ _ _ => by decide, by decide⟩
theorem witness_MmaElements : (0 : Nat) < 64 ∧ 127 < 128 ∧ flying.tile.rows ≤ 63 ∧ 0 < ({ flying with tile := { st := .conf, rows := 1 } } : MmaOp).tile.rows := by
  decide +kernel

def copyCmd (op : EngOp) (mode count dst src : Nat) : EngCmd :=
  { org := .block, op := op, ctx := 0, mode := mode, count := count, dst := BitVec.ofNat 64 dst, src := BitVec.ofNat 64 src }
/-- A transposition of two granules of 2 bytes in one row, one of nothing, and a block of 17 bytes widened. -/
theorem witness_CopyMoves : let e := copyCmd .cpyt 1 4 64 0
    let d := copyCmd .cpyd 0 17 64 0
    e.op = .cpyt ∧ e.count ≠ 0 ∧ e.count % ((e.mode / 4 + 1) * 2 ^ (e.mode % 4)) = 0 ∧ e.dst.toNat % 2 ^ (e.mode % 4) = 0 ∧ e.src.toNat % 2 ^ (e.mode % 4) = 0
      ∧ e.src.toNat + 4 ≤ e.dst.toNat ∧ (copyCmd .cpyt 1 0 0 0).count = 0 ∧ 6 ≤ (copyCmd .cpyd 6 0 0 0).mode
      ∧ d.op = .cpyd ∧ (d.mode, Blk.mx) ∈ [(0, Blk.mx), (1, .mx), (2, .x), (3, .x), (4, .e4), (5, .e4)] ∧ d.count % blkSize .mx = 0 ∧ d.dst.toNat % 2 = 0
      ∧ d.src.toNat + d.count ≤ d.dst.toNat ∧ 0 < d.count / blkSize .mx := by decide +kernel
/-- A gather or scatter descriptor at 0x600 of page 0, with one index of 0 at 0x680 and its table at 0x700. -/
def tableMem (flags : Byte) : State :=
  { booted with l2 := [(0x140601, 7), (0x140608, 0x80), (0x140609, 6), (0x140610, 1), (0x140614, 1), (0x140618, flags)]
                via := some 0, looks := [(0, [{ ctx := 0, page := 0, leaf := leafG }])] }
theorem witness_CopyMoves_tables : ∀ flags ∈ [(0 : Byte), 1, 2], ∀ ld : Bool,
    let s := tableMem flags
    let e := copyCmd (if ld then .ldg else .sts) 0 1 (if ld then 0x20 else 0x600) (if ld then 0x600 else 0x20)
    e.mode = 0 ∧ e.count ≠ 0 ∧ 0x600 % 32 = 0
      ∧ (match engNat s e false 0x600 32 with | .ok D => fieldAt D 16 4 == 1 && fieldAt D 28 4 == 0 && fieldAt D 24 4 == flags.toNat && fieldAt D 8 8 == 0x680 | .error _ => false) = true
      ∧ (match readGather s e 0x600 with
        | .ok d => flags != 2 && d.skip == (flags == 1) && (tableRanges s e d).all fun p => decide (p.1 + p.2 ≤ 0x20) || decide (0x21 ≤ p.1)
        | .error _ => flags == 2) = true := by decide +kernel
/-- A window of one element of a tensor of one element: at it, and beyond it. -/
theorem witness_CopyMoves_window : let axis := fun (n : Nat) => 256 ^ (16 + 12 * n) * (1 + 2 ^ 16 + 2 ^ 56)
    let map := fun (org : Nat) => axis 0 + axis 1 + axis 2 + axis 3 + org * 256 ^ 20
    let e := fun (org : Nat) => { copyCmd .wmcpy 0 1 0 0 with sd := true, map := BitVec.ofNat 512 (map org) }
    (∀ org ∈ [0, 1], let m := (e org).map.toNat
      let ax := fun (n o k : Nat) => fieldAt m (16 + 12 * n + o) k
      (e org).mode = 0 ∧ (e org).count ≠ 0 ∧ fieldAt m 8 1 = 0 ∧ fieldAt m 9 1 = 0 ∧ fieldAt m 10 6 = 0 ∧ (∀ n, n < 4 → ax n 7 1 ≠ 0 ∧ ax n 2 2 = 1)
        ∧ (e org).count = ax 0 2 2 * ax 1 2 2 * ax 2 2 2 * ax 3 2 2 * 2 ^ fieldAt m 8 1 ∧ (e org).sd ≠ decide (fieldAt m 9 1 % 2 = 1)
        ∧ (ax 0 4 2 < ax 0 0 2 ↔ org = 0)) ∧ fieldAt ((e 0).map.toNat + 256 ^ 10) 10 6 ≠ 0 := by decide +kernel
theorem witness_DieEngineResults : let j := fun (op ty : Nat) => ({ join with op := op, ty := ty, count := 1, data := some [0x3F800000] } : Joined)
    (∀ op ∈ [0, 1, 2, 3, 4, 5, 6], ∀ ty ∈ [0, 1, 2, 3], 0 < [j op ty].length ∧ (j op ty).op < 7 ∧ (j op ty).ty < 4 ∧ 2 ^ 0 < 2 * [j op ty].length ∧ [j op ty].length ≤ 2 ^ 0
      ∧ 0 < (j op ty).count / (j op ty).n ∧ (∀ m, [j op ty][0]? = some m → m.rank = (j op ty).root)) ∧ 0 % 2 = 0 :=
  ⟨by decide +kernel, rfl⟩
/-- Both rules of an update, a clip and none, and a loop over no elements. -/
theorem witness_DieEngineResults_update : fieldAt 0 44 1 = 0 ∧ fieldAt (256 ^ 44) 44 1 ≠ 0 ∧ exLt (dec32 0x3F800000) (dec32 0x40000000) = true
    ∧ updLoop (dieCmd .upd) 0 0 0 booted = (booted, 0, none) ∧ (List.replicate 32768 (0 : Byte)).length = 32768 ∧ 3 < 4 ∧ 0 < 256 / (2 * 4) :=
  ⟨by decide +kernel, by decide +kernel, by decide +kernel, rfl, List.length_replicate, by decide, by decide⟩
/-- A sector of an L1 that is dirty, and one that is clean. -/
theorem witness_WalksAndTranslations_sectors : let s := fun (x : Sector) => { booted with cores := [(0, { l1 := [x] })], inputs := [.soft 0 (.l1 2000)] }
    (∀ x ∈ [dirty, { dirty with dirty := 0 }], (s x).inputs = .soft 0 (.l1 2000) :: []) ∧ (∃ x ∈ (coreAt (s dirty) 0).l1, x.key = 2000 ∧ x.dirty ≠ 0)
      ∧ (∀ x ∈ (coreAt (s { dirty with dirty := 0 }) 0).l1, x.key = 2000 → x.dirty = 0) := by decide +kernel

/-! Witnesses of the clauses on rendezvous, traps, waits, messages, and what the device starts and gives up. -/

/-- A signal, a signal taken and QSTAT in a rendezvous, whose core stood otherwise before its cycle. -/
theorem witness_OutcomesAndHandshakes_view : let was : Core := { h := [(0, { val := 0, ceil := 1 })], q := [(2, wordQ)] }
    let s := { probe (hSrc 0) {} { h := [(0, { val := 1, ceil := 1 })] } with view := some { was := was } }
    let x := fun (v : State) => fget ({} : HCnt) (match v.view with | none => (core v).h | some w => w.was.h) 0
    Clear {} s ∧ Clear { ws := [3] } s ∧ s.view ≠ none ∧ s.cl = hSrc 0 ∧ (x s).val + 1 ≤ (x s).ceil
      ∧ (let t := { s with view := some { was := { h := [(0, { val := 1, ceil := 1 })] } } }
         Clear {} t ∧ (x t).ceil < (x t).val + 1 ∧ 1 ≤ (x t).val)
      ∧ (fget ({} : Queue) was.q 2).declared = true := by simp only [clear_iff]; decide +kernel

/-- Two traps of a rendezvous, the lower-numbered cluster's second; a core with a queue, whose trap a handler takes. -/
theorem witness_TrapEntry_lowest : let r : TrapReq := ⟨0, cBREAK, 7, 0, none⟩
    let s := { raised 0 false 1 with cores := [(0, { core (raised 0 false 1) with treq := [⟨2, cQPROTO, 0, 0, none⟩, r], q := [(2, wordQ)] })] }
    let c := landSb clC (finishMma (core (closeDue s)))
    Lowest r (core s).treq ∧ (cluAt (core s) clC).tokPend = [] ∧ c.level = 0 ∧ (cluAt c clC).x.vec ≠ 0 ∧ (c.q.map (·.1)).Nodup ∧ (∀ x ∈ c.q, x.1 < 16) ∧ r.cl < 4 :=
  ⟨⟨[⟨2, cQPROTO, 0, 0, none⟩], [], by decide +kernel⟩, by decide +kernel⟩
theorem witness_RaisedAndUntakenTraps_lowest : let r : TrapReq := ⟨0, cBREAK, 7, 0, none⟩
    let c := fun (s : State) => landSb clC (finishMma (core (closeDue s)))
    (∀ l : Nat, ∀ t : Bool, ∀ v : Word, Lowest r (core (raised l t v)).treq) ∧ (c (raised 0 false 0)).level = 0 ∧ (cluAt (c (raised 0 false 0)) clC).x.vec = 0
      ∧ (c (raised 1 false 1)).level = 1 ∧ (c (raised 1 false 1)).tacked = false ∧ (c (raised 1 true 0)).tacked = true ∧ (c (raised 2 true 1)).level = 2 :=
  ⟨fun _ _ _ => ⟨[], [], rfl, nofun, nofun⟩, by decide +kernel⟩
/-- A TRET that waits, one that returns, and one whose trapping cluster is A, which returns to the word that it left. -/
theorem witness_TrapReturnAndAcknowledge_return : let u : Use := { ws := List.range 32 }
    let s := fun (k : Clu) => probe 3 k { level := 1 }
    blocked (clu (s { sb := [⟨5, {}⟩] })) u = true ∧ Clear u (s {}) ∧ (core (s {})).level ≠ 0 ∧ Clear u (probe 3 {} {}) ∧ (core (probe 3 {} {})).level = 0
      ∧ (fget ({} : Frame) (core (s {})).frames 1).cl = clA ∧ (0 : Word) = BitVec.ofNat 32 (cluAt (core (s {})) clA).pc.toNat := by
  simp only [clear_iff]; decide +kernel
/-- A queue load that is run again where it left its hole, and one of two that have still to read. -/
theorem witness_QueueLoadsAndStores_refill : let q : Queue := { wordQ with ents := [.hole none, .hole none], depth := 2, refill := some 0 }
    let s := paged 0 {} { q := [(2, q)] }
    let l : LateLoad := { q := 2, seq := BitVec.ofNat 32 (holeSeq q), sp := false, ea := 0 }
    let y : LateLoad := { q := 3, seq := 0, sp := false, ea := 0 }
    let c : Core := { late := [y] ++ l :: [y] }
    (queueAt s 2).refill = some (clu s).pc ∧ ¬(queueAt s 2).ents.length < (queueAt s 2).depth ∧ badPush (queueAt s 2) s.cl = false
      ∧ c.late = [y] ++ l :: [y] ∧ (∀ z ∈ [y], ¬(z.q = 2 ∧ z.seq.toNat = holeSeq q)) ∧ l.q = 2 ∧ l.seq.toNat = holeSeq q := by decide +kernel
/-- Guarded lanes, of which another one is struck, a struck source of a VPSH, and vector queues that are empty, full and of another kind. -/
theorem witness_VectorMoves_lanes : let s := probe 1 {} { p := [(1, 1)], soft := [.v 2 5], q := [(2, { vecQ with ents := [] }), (3, { vecQ with depth := 1 }), (4, { vecQ with kind := .word })] }
    let g := guardBits s 1 false
    g = 1 ∧ Clear { rv := [2], rp := [1], lanes := g } s ∧ Clear { rp := [1], lanes := g } s ∧ Clear { rs := [1], rp := [1], lanes := g } s
      ∧ Clear { rs := [1], rv := [2], rp := [1], lanes := g, lv := [takenLanes g fun j => (j + 1) % 512] } s
      ∧ Clear { rv := [2, 3], rp := [1], lanes := g, lv := [takenLanes g fun _ => 0] } s ∧ Clear { rv := [2, 3], rp := [1], lv := [g, 0] } s
      ∧ Clear { rs := [1], rv := [2], ws := [4], lanes := 1#512 <<< 3 } s ∧ struckV (core s) 2 ≠ 0
      ∧ badPop (queueAt s 2) s.cl = false ∧ (queueAt s 2).kind = .vec ∧ headMissing (queueAt s 2) = true ∧ badPush (queueAt s 3) s.cl = false
      ∧ (queueAt s 3).depth ≤ (queueAt s 3).ents.length ∧ (queueAt s 4).kind ≠ .vec := by simp only [clear_iff]; decide +kernel
theorem witness_ElementwiseWords_lanes : let s := probe 1 {} { p := [(1, 1)], soft := [.v 2 5] }
    let g := guardBits s 1 false
    g ≠ 0 ∧ Clear { rv := [2, 3], rp := [1], lanes := g } s ∧ Clear { rv := [2, 3, 4], rp := [1], lanes := g } s ∧ Clear { rv := [2], rp := [1], lanes := g } s
      ∧ Clear { rs := srRegs 4, rv := [2], rp := [1], lanes := g } s ∧ Clear { rv := [2], rp := [1], lanes := g, lv := [blockLanes .mx .bf16 g] } s := by
  simp only [clear_iff]; decide +kernel
/-- A struck predicate, of which the results of a predicate word take the damage. -/
theorem witness_ComparesAndPredicates_struck : let s := probe 1 {} { soft := [.p 3 0] }
    blocked (clu s) { rp := [3, 4] } = false ∧ struckP (core s) 3 ≠ 0 ∧ (3 : Nat) ≠ 0 := by decide +kernel
/-- The three causes of a window replay. -/
theorem witness_WindowReplayRestores_causes : let s := fun (l : List Input) => { probe 2 {} { win := [.clear 1], kctl := 8 } with inputs := l }
    (match (s []).inputs with | .trip _ true :: _ => False | .soft _ (.acc _) :: _ => False | _ => True)
      ∧ (s [.trip 0 true]).inputs = .trip 0 true :: [] ∧ (s [.soft 0 (.acc 3)]).inputs = .soft 0 (.acc 3) :: []
      ∧ (coreAt (s []) 0).winOver = false ∧ ({ winOver := true } : Core).winOver = true := ⟨trivial, by decide +kernel⟩
/-- An address of the vault whose upper half is not zero, and one that is. -/
theorem witness_SemaphoreWords_vault : let s := obj { a := [(2, 2 ^ 32)] } []
    Clear { ra := [2] } s ∧ ¬((readA (clu s) 2).toNat % 8 = 0 ∧ (true = true → (readA (clu s) 2).toNat < 2 ^ 32))
      ∧ ((readA (clu s) 1).toNat % 8 = 0 ∧ (true = true → (readA (clu s) 1).toNat < 2 ^ 32)) := by simp only [clear_iff]; decide +kernel

/-- TCFG on a live tile in a rendezvous before whose cycle TCHK stood otherwise. -/
theorem witness_TilesAndSlots_view : let s := fun (k : Word) => { probe 2 {} { t := [(0, { st := .live, rows := 64 })] } with view := some { was := { kctl := k } } }
    Clear {} (s 2) ∧ Clear {} (s 0) ∧ (tileAt (core (s 0)) 0).st = .live ∧ (tileAt (core (s 0)) 0).rows ≠ 5 + 1
      ∧ (coreSeen (s 2)).kctl.getLsbD 1 = true ∧ (coreSeen (s 0)).kctl.getLsbD 1 = false := by simp only [clear_iff]; decide +kernel
/-- A REMQ whose command cannot be read and whose target is another device's, of which that device has not been asked, or has and answered so. -/
theorem witness_RemoteAndWorkQueues_ask : let k : Clu := { a := [(2, 65536)] }
    let far := fun (l : List MsgBody) => { toBlock (probe 3 k {}) 2 (3 * 2 ^ 20 + 0xFFFFE) with badSectors := [1024], sent := l.map fun b => { src := 0, dst := 3, chan := 0, seq := 0, core := 1, body := b } }
    let acc : List Acc1 := [{ sp := false, wr := false, rd := false, ea := 0, n := 64 }, { sp := false, wr := false, rd := false, ea := 65536, n := 16 }]
    let command : List Acc1 := [{ sp := false, wr := false, rd := true, ea := 65536, n := 16, st := true }]
    let mine := fun (y : Msg) => y.core == 0 + 1 && y.dst == 3 && (match y.body with | .ask j _ => j == 0 | _ => false)
    (∀ l ∈ [[], [MsgBody.ask 0 none], [.ask 0 (some 2)], [.ask 0 (some 0)]], Clear { ra := [1, 2] } (far l) ∧ pchk (markRead { ra := [1, 2] } (far l)) acc = .ok
        ∧ pchk (markRead { ra := [1, 2] } (far l)) command = .bad cMEMERR 65536 ∧ (far l).cur = 0
        ∧ (match blockOfKey (far l) (tileKey (far l) 0) with | some (d, n, _) => d == 3 && n == 0 && blockDepth n != 0 | none => false) = true ∧ 3 ∉ (far l).lostDevs ∧ 3 ≠ (far l).device
        ∧ ((far l).sent.find? mine).map (fun y => y.body) = l.head?) := by simp only [clear_iff]; decide +kernel
/-- A delivery to another device that has not been sent, has, or was answered. -/
theorem witness_RemoteAndWorkQueues_sent : let p : Packet := {}
    let far := fun (l : List MsgBody) (lost : List Nat) => { toBlock (probe 3 { a := [(2, 65536)] } {}) 2 (3 * 2 ^ 20 + 0xFFFFE) with lostDevs := lost, sent := l.map fun b => { src := 0, dst := 3, chan := 0, seq := 0, core := 1, body := b } }
    let m := fun (l : List MsgBody) (lost : List Nat) => onCore (fun c => { c with late := [] }) (markRead { ra := [1, 2] } (far l lost))
    let f := fun (l : List MsgBody) (lost : List Nat) => releaseAll (readBytes true false 16 65536 (dropWalkBad (m l lost))).2
    let body := fun (a : Option Nat) => MsgBody.deliver 0 0 p false a
    packetOf (readBytes true false 16 65536 (dropWalkBad (m [] []))).1 = p
      ∧ (∀ a ∈ [none, some 0, some 1, some 2, some 3], ((f [body a] []).sent.find? (isDelivery 1 3 0 p)).map (fun y => y.body) = some (body a))
      ∧ (f [] []).sent.find? (isDelivery 1 3 0 p) = none ∧ 3 ∈ (f [] [3]).lostDevs ∧ 3 ∉ (f [] []).lostDevs ∧ (3 : Nat) ≠ (f [] []).device := by decide +kernel
/-- GYLD on a released record. -/
theorem witness_GroupWords_yield_released : let s := { released 4 with word := 0x40000000 }
    let m := markRead { ra := [1] } s
    Clear { ra := [1] } s ∧ (core s).level = 0 ∧ (readA (clu s) 1).toNat % 64 = 0 ∧ groupAtRec m (core m).task.ctx (readA (clu m) 1) = none
      ∧ pchk m [{ sp := false, wr := false, rd := false, ea := 0, n := 640 }] = .ok ∧ s.word.getLsbD 30 = true ∧ queueLeft (dropWalkBad m) = false
      ∧ unreadCmd (dropWalkBad m) = false ∧ groupLate (dropWalkBad m) = false ∧ (released 4).word.getLsbD 30 = false
      ∧ groupLate { s with cores := [(0, { core s with treq := [⟨0, cBREAK, 7, 0, none⟩] })] } = true := by simp only [clear_iff]; decide +kernel
/-- A closed group with two rewards, one with none, and what a slot holds of a cluster with a result on its way. -/
theorem witness_GroupWords_scored : let g := { grp with st := 3, arrive := 3, minN := 2 }
    let m := fun (g : Group) => ((List.range g.n).filter fun i => g.arrive.getLsbD i).length
    1 ≤ m g ∧ g.minN ≤ m g ∧ m { g with arrive := 0 } = 0 ∧ 1 ≤ (1 : Nat) ∧ m { g with arrive := 1 } < g.minN
      ∧ ({ booted with groups := [grp, g] } : State).groups.filter (fun y => y.st == 3) = [g] := by decide +kernel
theorem witness_GroupWords_continuation : let k : Clu := { active := true, pend := [landS 2 4 {}] }
    let g := fun (st : Nat) (pre : Bool) => { grp with pre := pre, st := st, done := 1 }
    k.active = true ∧ ({} : Clu).active = false ∧ ((k.pend.filter fun l => l.kind == .s || l.kind == .a).take 12)[0]? = some (landS 2 4 {}) ∧ 1 ≤ 5 ∧ 5 < 12
      ∧ groupOf { booted with groups := [grp] } grp.uid = some grp ∧ (g 1 true).pre = true ∧ ((2 ||| (g 1 true).done ||| (g 1 true).cancel) &&& lowMask grp.n) = lowMask grp.n
      ∧ (g 1 false).pre = false ∧ (g 4 true).st ≠ 1 ∧ (g 4 true).st ≠ 2 := by decide +kernel
/-- A walk that nothing waits for, and that fails. -/
theorem witness_WalksAndTranslations_unwaited : let s := { booted with walks := [⟨0, 0, 5, []⟩] }
    s.walks[s.cur]? = some ⟨0, 0, 5, []⟩ ∧ (match walkKey s 0 5 with | .bad _ _ => true | .leaf _ _ _ => false) = true := by decide +kernel
/-- A context to which device 3 lends a frame, with no request of it, one that waits, and answers of both kinds. -/
def lent (l : List (Option Bool)) : State :=
  { booted with l2 := image ++ [(0xA0028, 0x13), (0xA0029, 4), (0xA002A, 2), (0xA002C, 0x60)]
                sent := l.map fun a => { src := 0, dst := 3, chan := 1, seq := 0, core := 2 ^ 20, body := .lent 0 0 a } }
theorem witness_EngineRows_lenders : lendersOf booted 0 = [] ∧ (∀ l ∈ [[], [none], [some true], [some false]], lendersOf (lent l) 0 = [3] ∧ lentAnswer (lent l) 0 3 = l.head?) := by
  decide +kernel
/-- The next command of a block: a packet, a command, and one that a UPD before it does not hold. -/
theorem witness_EngineRows_next : let s := fun (n : Nat) (l : List QCmd) => { booted with blocks := [(n, { cmds := l })] }
    nextFor (s 0 [.raw {}]) 0 (fun _ => true) = some (.raw {}) ∧ nextFor (s 0 [.cmd cpyCmd]) 0 (fun _ => true) = some (.cmd cpyCmd)
      ∧ nextFor (s 0 [.cmd enqCmd]) 0 (fun _ => true) = some (.cmd enqCmd) ∧ nextFor (s 128 [.raw (packetOp 1)]) 128 (fun _ => true) = some (.raw (packetOp 1))
      ∧ nextFor (s 128 [.taken (dieCmd .upd), .cmd (dieCmd .upd), .cmd (dieCmd .msrch)]) 128 (fun _ => true) = some (.cmd (dieCmd .msrch))
      ∧ (firstUpd (blockAt (s 128 [.taken (dieCmd .upd), .cmd (dieCmd .upd), .cmd (dieCmd .msrch)]) 128)).isSome = true
      ∧ nextFor (s 128 [.cmd (dieCmd .upd)]) 128 (fun _ => true) = some (.cmd (dieCmd .upd)) ∧ firstUpd (blockAt (s 128 [.cmd (dieCmd .upd)]) 128) = none := by decide +kernel
/-- A UPD that waits for a phase that its barrier has not come to. -/
theorem witness_EngineRows_phase : let e := { dieCmd .upd with bar := 1 }
    let s := { booted with cur := 128, blocks := [(128, { cmds := [.taken e] })] }
    firstUpd (blockAt s 128) = some e ∧ updTry { dropCmd s 128 (.taken e) with via := some 128 } 128 e = none := by decide +kernel

/-- A kernel of one stream. -/
theorem witness_GafferRows_start : (({ streams := [(0, 64, 2), (3, 0, 4)] } : Kernel).streams.map fun x => x.1).Nodup
    ∧ (0, 64, 2) ∈ ({ streams := [(0, 64, 2), (3, 0, 4)] } : Kernel).streams ∧ ∀ x ∈ ({ streams := [(0, 64, 2), (3, 0, 4)] } : Kernel).streams, x.1 ≠ 1 := by decide +kernel
/-- Walked and resident nodes: with free cores and without, and with a translation that is missing. -/
theorem witness_GafferRows_tasks : let r := fun (kind : Nat) (k : Kernel) => ({ node none with kind := kind, kern := k, tasks := [(0, 0, 0, 0), (0, 0, 0, 1)] } : NodeRun)
    let s := fun (kind : Nat) (k : Kernel) (busy : List Nat) => { booted with cur := 1, runs := [r kind k], cores := busy.map fun n => (n, { busy := true }) }
    let fs := fun (busy : List Nat) => freeCores (s 0 {} busy) [0]
    let at_ := fun (i : Nat) => 4 * [0].getD (i / (2 / [0].length)) 0 + i % (2 / [0].length)
    (∀ kind ∈ [0, 1], runAt (s kind {} []) 1 = some (r kind {}) ∧ (ctxAt (s kind {} []) 0).st = .hot ∧ (ctxAt (s kind {} []) 0).halt = none ∧ (s kind {} []).tableBusy = none)
      ∧ fs [] ≠ [] ∧ fs [0, 1, 2, 3] = [] ∧ (∀ n ∈ fs [], translated (s 0 {} []) 0 (dieOf n) {} = true ∧ translated (s 0 {} []) 0 (dieOf n) { streams := [(0, 0, 2)] } = false)
      ∧ (∀ n ∈ (List.range 2).map at_, n ∈ fs []) ∧ (∃ n ∈ (List.range 2).map at_, n ∉ fs [1]) := by decide +kernel
/-- The graph of the image has no edges. -/
theorem predsDone_image {s : State} (h : OnImage s) (u : Run) : predsDone s 0 u 0 = .ok true := by
  have edges : fieldAt (img 0x140000 128) 12 4 = 0 := by decide +kernel
  simp [predsDone, readEdges, graphHead_image h, ok_bind, edges, Except.map, pure, Except.pure]
/-- A graph run of context 0. -/
def graphRun : State := { running 0 none with ctxs := [(0, { ctx0 with run := some { id := 0, pk := {}, first := 0, last := 1, next := 0, single := false } })] }
theorem graphRun_image : OnImage graphRun := ⟨rfl, rfl, rfl, rfl, rfl, rfl, ⟨rfl, rfl⟩, rfl⟩
/-- The continuation of a graph run, and a node whose context's gang waits first. -/
theorem witness_GafferRows_kinds : (let s := graphRun
      ∃ u nd d, (ctxAt s 0).run = some u ∧ nextNode (ctxAt s 0) u = some 0 ∧ mayLaunch s 0 = true ∧ predsDone s 0 u 0 = .ok true ∧ launchCheck s 0 0 = .ok (nd, d) ∧ nd.kind = 2 ∧ u.single = false)
    ∧ (let s := { running 1 none with groups := [gang 0] }
      gangWaits s 0 ≠ none ∧ mayLaunch s 0 = true ∧ ∃ nd d, launchCheck s 0 1 = .ok (nd, d) ∧ nd.kind ≠ 2) := by
  refine ⟨⟨_, nodeOf (img 0x140080 64), { kern := {}, depths := [] }, rfl, by decide +kernel, by decide +kernel, ?_,
    launchCheck_kind2 (readNode_image graphRun_image 0 (by decide)) (by decide +kernel), by decide +kernel, rfl⟩, by decide +kernel, by decide +kernel, ?_⟩
  · exact predsDone_image graphRun_image _
  · have h : OnImage { running 1 none with groups := [gang 0] } := ⟨rfl, rfl, rfl, rfl, rfl, rfl, ⟨rfl, rfl⟩, rfl⟩
    obtain ⟨d, hd, hq, he⟩ := readKernel_image h
    have e : (nodeOf (img 0x1400C0 64)).kind ≠ 2 ∧ (nodeOf (img 0x1400C0 64)).obj = 0 ∧ (nodeOf (img 0x1400C0 64)).ksym = 0 := by decide +kernel
    exact ⟨_, d, launchCheck_of (readNode_image h 1 (by decide)) e.1 (by rw [e.2.1, e.2.2]; exact hd) hq he, e.1⟩
/-- A reserving waiter that the free benches suffice, and one for which there are none. -/
theorem witness_GafferRows_reserves : let s := fun (out : List Nat) => { booted with ns := 4000000, groups := [gang 0], outVaults := out, ctxs := [(0, { ctx0 with waitFrom := some 0 })] }
    let t := fun (out : List Nat) => setCtx (s out) 0 { ctxAt (s out) 0 with reserving := true }
    let u := fun (out : List Nat) => reclaim (1 - (freeBenches (t out)).length - (givenBenches (t out)).length) (t out)
    (∀ out ∈ [[], List.range 128], waiterOf (s out) 0 = some (1, 1) ∧ 4000000 ≤ waited (s out) 0 ∧ oldestReserving (t out) = some 0)
      ∧ 1 ≤ (freeBenches (u [])).length ∧ (freeBenches (u (List.range 128))).length < 1 := by decide +kernel
/-- A Suspended group whose context is not Hot, whose image is gone, and for which there is no core. -/
theorem witness_GafferRows_resume_waits : let s := { gangState 7 with cur := 0 }
    let g := { ended 7 with cancel := 0, save := 1 }
    gangDue { s with ctxs := [(0, { ctx0 with st := .suspended })] } (ended 7) = false ∧ gangDue { s with runs := [], l2 := [] } (ended 7) = true
      ∧ (resumeRun { s with runs := [], l2 := [] } (ended 7)).1 = none
      ∧ (let t := { s with groups := [g], cores := (List.range 512).map fun n => (n, { busy := true }) }
         gangDue t g = true ∧ (resumeRun t g).1 = some (node (some 0)) ∧ (gangCores (gangGrant t g (node (some 0))) g (node (some 0))).1 = none) := by decide +kernel

/-- Retired contexts, ones that migrate to this device, and commands that an operating-point step holds. -/
theorem witness_ContextCommands_gone : (∀ c ∈ [0x11, 0x12, 0x13, 0x14, 0x15, 0x16, 0x17, 0x18, 0x19], ∀ y ∈ [({} : Context), { ctx0 with st := .migrating, dev := 3 }],
      let s := { hostState (codeP c) .hot image with ctxs := [(0, y)] }
      1156 ≤ s.cur ∧ s.cur < 1160 ∧ s.boot.stage = 7 ∧ nextCmd? (blockAt s s.cur) = some (.raw (codeP c)) ∧ (codeP c).w0.toNat % 256 = c
        ∧ whileStep s 0 = false ∧ ((ctxAt s 0).st = .retired ∨ incoming s 0 = true))
    ∧ (∀ c ∈ [0x12, 0x16], let s := { hostState (codeP c) .cold image with power := { pend := true } }
      nextCmd? (blockAt s s.cur) = some (.raw (codeP c)) ∧ whileStep s 0 = true)
    ∧ 32 ≤ hotCount { booted with ctxs := (List.range 32).map fun i => (i, ctx0) } := by decide +kernel
/-- CRESTORE of a Suspended context that a tile still runs for, and of one in another state. -/
theorem witness_ContextCommands_restore_waits : let s := { hostState (codeP 0x18) .suspended image with cores := [(0, { busy := true })] }
    (ctxAt s 0).st = .suspended ∧ ctxBusy s 0 = true ∧ (mirrorsOf s 0).isSome = true
      ∧ (∀ st ∈ [CtxSt.loaded, .hot, .cold], let t := hostState (codeP 0x18) st image
         ¬((ctxAt t 0).st = .retired ∨ incoming t 0 = true) ∧ (ctxAt t 0).st ≠ .defined ∧ (ctxAt t 0).st ≠ .suspended) := by decide +kernel
/-- An extent in rows of a vault that serves, one of a context that migrates within the device, and one that fits nowhere. -/
theorem witness_ContextEvents_extents : let e : Extent := { size := 1024, st := 1, base := 2 ^ 25, gen := 0 }
    let t := { withCtx { ctx0 with exts := [e] } with outVaults := [0] }
    moveExt 0 (some t) 0 = some t ∧ (ctxAt t 0).exts[0]? = some e ∧ inRows e = true ∧ ∀ v p, mappedRows t v p ≤ 8704 :=
  ⟨by decide +kernel, rfl, by decide, fun _ _ => Nat.min_le_left _ _⟩
theorem placeAny_none {s : State} {n : Nat} (h : 1536 < n) : placeAny s n = none := by
  have : ∀ v, placeIn s v n = none := fun v => by simp [placeIn, h]
  simp [placeAny, this, List.findSome?_eq_none_iff]
theorem placeExts_none {s : State} {ctx : Nat} {e : Extent} (h : (ctxAt s ctx).exts = [e]) (r : inRows e = false) (n : 1536 < rowsOf e.size) :
    placeExts s ctx false = none := by
  simp [placeExts, h, r, placeAny_none n]
theorem witness_ContextEvents_same : let s := fun (l : List Extent) (pend : Bool) => { withCtx { ctx0 with st := .migrating, exts := l } with power := { pend := pend } }
    (∀ l ∈ [[], [({ size := 2 ^ 21, st := 1, base := 0, gen := 0 } : Extent)]], ∀ pend : Bool,
        (ctxAt (s l pend) 0).st = .migrating ∧ incoming (s l pend) 0 = false ∧ (ctxAt (s l pend) 0).target = (s l pend).device ∧ (s l pend).power.pend = pend)
      ∧ (replaceExts (s [] false) 0).isSome = true ∧ replaceExts (s [{ size := 2 ^ 21, st := 1, base := 0, gen := 0 }] false) 0 = none := by
  refine ⟨by decide +kernel, by decide +kernel, ?_⟩
  rw [replaceExts, if_pos (by decide +kernel)]
  exact placeExts_none (e := { size := 2 ^ 21, st := 3, base := 0, gen := 0 }) (by decide +kernel) (by decide) (by decide)
/-- A context whose target is ready, and one that has asked for its commit. -/
theorem witness_ContextEvents_ready : let s := fun (g : Bool) => withCtx { ctx0 with st := .migrating, target := 3, ready := g, going := g }
    (ctxAt (s true) 0).going = true ∧ (ctxAt (s false) 0).st = .migrating ∧ (ctxAt (s false) 0).target = 3 ∧ incoming (s false) 0 = false := by decide +kernel
/-- Flits numbered 0 with a good CRC come as a duplicate, or after a gap; NAKs that are the eighth for one flit, and not. -/
theorem witness_LinkRows_sequence : seqLe 0 1 = true ∧ seqLe 0 65535 = false ∧ (0 : Nat) ≠ 1 ∧ (0 : Nat) ≠ 65535
    ∧ (∀ x ∈ [1, 65535], let s := { booted with ports := [(0, { st := .up8, rxSeq := x })] }
       portUp (portAt s 0) = true ∧ fabric s 0 = true ∧ (portAt s 0).rxSeq = x)
    ∧ (∀ k ∈ [0, 7], let p : Port := { naked := k }
       ((if p.acked = 0 then p.naked + 1 else 1) = 8 ↔ k = 7)) := by decide +kernel
/-- Messages that come in turn: for a collective that is broken, and not; for a block that refuses, and one that is full. -/
theorem witness_MessageRows_arriving : let s := { booted with blocks := [(2, { opn := true, held := true })], broken := [(1, 1)], ports := [(0, { st := .up4 })] }
    let t := { booted with blocks := [(2, {})] }
    (∀ b ∈ [.member join, .cut 0 0, .cut 1 1, .ask 2 none, .lent 0 0 none, .deliver 2 0 {} false none, .clock 0], reachesHere s (msgOf b) = true
        ∧ fget 0 s.seen (4 * 3 + 2) ≤ (msgOf b).seq ∧ (msgOf b).seq ≤ max (fget 0 s.seen (4 * 3 + 2)) (msgOf b).floor)
      ∧ s.broken.contains (0, 0) = false ∧ s.broken.contains (1, 1) = true ∧ refuses s 2 1024 = false ∧ (blockAt s 2).held = true ∧ refuses t 2 1024 = true := by decide +kernel
/-- Messages that nothing has answered for 10 ms. -/
theorem witness_MessageRows_undeliverable : ∀ b ∈ [.deliver 2 0 {} false none, .deliver 2 0 {} true none, .ask 2 none, .lent 3 5 none, .member join, .token 1, .mem false 0 4 [], .commit 0 0 0],
    let m := { msgOf b with core := 1 }
    let s := { booted with sent := [m], ns := 10000000 }
    s.sent[s.cur]? = some m ∧ waits m = true ∧ m.from_ + 10000000 ≤ s.ns ∧ 0 < m.core ∧ m.core < 2 ^ 20 ∧ s.broken.contains (join.setid, join.seq) = false := by decide +kernel
/-- A write that waits for one to another device, one that need not, and a window of a device that is lost. -/
theorem witness_HostBridge_waits : let s := { booted with bridge := true, lostDevs := [1], sent := [{ msgOf (.mem true 0 4 []) with dst := 2 }] }
    writeWaits s 2 0 = true ∧ writeWaits { s with sent := [] } 2 0 = false ∧ (131072 : Nat) < 0x800000 ∧ 131072 / 131072 ≠ s.device % 64
      ∧ s.device / 64 * 64 + 131072 / 131072 ∈ s.lostDevs := by decide +kernel
/-- A row that fails: one that no point maps, one with no spare, and one with a spare. -/
theorem witness_PowerAndBoot_rows : let s := fun (l : List Row) (n : Nat) => { booted with inputs := [.row 0 n true], rows := [(0, l)] }
    let l := List.replicate 8704 ({ prow := 0, low := 5 } : Row)
    (∀ n ∈ [0, 8703], (rowList (s l n) 0)[n]? = some { prow := 0, low := 5 }) ∧ (rowList (s l 0) 0).length ≤ 8704
      ∧ lastPoint (s l 8703) 0 8703 = none ∧ lastPoint (s l 0) 0 0 = some 5 ∧ spareAt (s l 0) 0 5 (topRows (s l 0) 0) = some 8192
      ∧ lastPoint (s [{ prow := 0, low := 5 }] 0) 0 0 = some 5 ∧ spareAt (s [{ prow := 0, low := 5 }] 0) 0 5 (topRows (s [{ prow := 0, low := 5 }] 0) 0) = none := by
  decide +kernel
/-- A configuration image that is amiss in nothing, and ones whose numbering and whose row maps are amiss. -/
def fullImage : CfgImage :=
  { Config.shippedImage with
    valid := true, version := 0, firmware := [0, 0, 0, 0], cores := List.replicate 4 ((List.range 128).map (· + 1))
    counts := List.replicate 128 [8704, 8704, 8704, 8704, 8704, 8704], rows := List.replicate 128 ((List.range 8704).map fun i => (i, 5)) }
theorem rowsGood_of {l : List (Nat × Nat)} (n : l.length = 8704) (h : ∀ a b, (a, b) ∈ l → a < 8704 ∧ b = 5) (u : (l.map fun r => r.1).Nodup) :
    rowsGood [8704, 8704, 8704, 8704, 8704, 8704] l = true := by
  have z : ∀ a b c d, ((a, b), c, d) ∈ l.zip l.tail → b = 5 ∧ d = 5 := fun a b c d hx =>
    ⟨(h a b (List.of_mem_zip hx).1).2, (h c d (List.mem_of_mem_tail (List.of_mem_zip hx).2)).2⟩
  have k : ∀ a b, (a, b) ∈ l.take 8704 → b = 5 := fun a b hx => (h a b (List.mem_of_mem_take hx)).2
  simp only [rowsGood, Bool.and_eq_true, List.all_eq_true, decide_eq_true_eq, Bool.or_eq_true, beq_iff_eq, bne_iff_ne, Prod.forall, List.drop_one]
  refine ⟨⟨⟨⟨⟨n, rfl⟩, fun a b hx => ?_⟩, u⟩, fun a b c d hx => ?_⟩, fun m p hx => ?_⟩
  · obtain ⟨ha, rfl⟩ := h a b hx; simp [ha]
  · obtain ⟨rfl, rfl⟩ := z a b c d hx; decide
  · have : m = 8704 ∧ p < 6 ∧ Config.guaranteed p ≤ 8704 := by
      simp at hx; rcases hx with ⟨rfl, rfl⟩ | ⟨rfl, rfl⟩ | ⟨rfl, rfl⟩ | ⟨rfl, rfl⟩ | ⟨rfl, rfl⟩ | ⟨rfl, rfl⟩ <;> decide
    obtain ⟨rfl, hp, hg⟩ := this
    exact ⟨⟨hg, Nat.le_refl _⟩, fun a b hy => by have := k a b hy; subst this; omega⟩
theorem rowsGood_full : rowsGood [8704, 8704, 8704, 8704, 8704, 8704] ((List.range 8704).map fun i => (i, 5)) = true := by
  refine rowsGood_of (by simp) (fun a b h => ?_) ?_
  · simp at h; omega
  · rw [List.map_map]; simpa [Function.comp_def] using List.nodup_range
theorem witness_PowerAndBoot_imageStop : imageStop fullImage = none ∧ bootSlot { slot0 := some fullImage } = some (0, fullImage)
    ∧ imageStop { fullImage with firmware := [] } = some 2 ∧ imageStop { fullImage with counts := [] } = some 4 := by
  have n : numbered fullImage = true := by decide +kernel
  have r : ∀ v, v < 128 → rowsGood ((fullImage.counts[v]?).getD []) ((fullImage.rows[v]?).getD []) = true := fun v h => by
    simp only [fullImage, List.getElem?_replicate, h, if_true, Option.getD_some]; exact rowsGood_full
  refine ⟨?_, by simp [bootSlot, verifies, Option.filter, fullImage], by decide +kernel, by decide +kernel⟩
  have a : ((List.range 128).all fun v => rowsGood ((fullImage.counts[v]?).getD []) ((fullImage.rows[v]?).getD [])) = true :=
    List.all_eq_true.2 fun v hv => r v (List.mem_range.1 hv)
  rw [imageStop, n, a]; rfl
/-- A device that has still to boot. -/
theorem witness_PowerAndBoot_fresh : State.reset.boot.stage = 0 ∧ ∀ r, State.reset.inputs ≠ .boot :: r := ⟨rfl, fun _ => nofun⟩

end Sys2Proof.Machine.Tests

end
end

/-! # The shared control instructions (spec/05_isa_shared.md)

Each word in a clear state is its own meaning at the state with its tokens marked as read (`issue_of_clear`). The lemmas below
say what that meaning is, family by family, and what it leaves unchanged comes from the laws of retirement (`wroteS_retire`,
`wroteA_retire`, `passed_retire`, `wentTo_retireTo`). -/

namespace Sys2Proof.Machine

/-! ### The results of R113-R118 as numbers -/

theorem add_eq_ofNat (x y : Word) : x + y = BitVec.ofNat 32 (x.toNat + y.toNat) :=
  BitVec.eq_of_toNat_eq (by simp)

theorem sub_eq_ofInt (x y : Word) : x - y = BitVec.ofInt 32 (x.toInt - y.toInt) :=
  BitVec.eq_of_toInt_eq (by rw [BitVec.toInt_sub, BitVec.toInt_ofInt])

theorem shiftLeft_eq_ofNat (x : Word) (k : Nat) : x <<< k = BitVec.ofNat 32 (x.toNat * 2 ^ k) :=
  BitVec.eq_of_toNat_eq (by rw [BitVec.toNat_shiftLeft, Nat.shiftLeft_eq, BitVec.toNat_ofNat])

theorem shiftRight_eq_ofNat (x : Word) (k : Nat) : x >>> k = BitVec.ofNat 32 (x.toNat / 2 ^ k) := by
  refine BitVec.eq_of_toNat_eq ?_
  have h : x.toNat / 2 ^ k < 2 ^ 32 := Nat.lt_of_le_of_lt (Nat.div_le_self _ _) x.isLt
  rw [BitVec.toNat_ushiftRight, Nat.shiftRight_eq_div_pow, BitVec.toNat_ofNat, Nat.mod_eq_of_lt h]

theorem sshiftRight_eq_ofInt (x : Word) (k : Nat) : x.sshiftRight k = BitVec.ofInt 32 (x.toInt / 2 ^ k) := by
  rw [BitVec.sshiftRight_eq, Int.shiftRight_eq_div_pow]
  push_cast
  rfl

/-- A rotation is the shifted value with what the shift drives out added below (R113). -/
theorem rotateLeft_eq_ofNat (x : Word) {k : Nat} (hk : k < 32) :
    x.rotateLeft k = BitVec.ofNat 32 (x.toNat * 2 ^ k + x.toNat * 2 ^ k / 2 ^ 32) := by
  refine BitVec.eq_of_toNat_eq ?_
  have split : 2 ^ 32 = 2 ^ (32 - k) * 2 ^ k := by rw [← Nat.pow_add, Nat.sub_add_cancel (Nat.le_of_lt hk)]
  have out : x.toNat >>> (32 - k) = x.toNat * 2 ^ k / 2 ^ 32 := by
    rw [Nat.shiftRight_eq_div_pow, split, Nat.mul_div_mul_right _ _ (Nat.two_pow_pos _)]
  have small : x.toNat * 2 ^ k / 2 ^ 32 < 2 ^ k :=
    Nat.div_lt_of_lt_mul (Nat.mul_lt_mul_of_pos_right x.isLt (Nat.two_pow_pos _))
  have kept : x.toNat <<< k % 2 ^ 32 = (x.toNat % 2 ^ (32 - k)) <<< k := by
    rw [Nat.shiftLeft_eq, Nat.shiftLeft_eq, split, Nat.mul_mod_mul_right]
  have fits : (x.toNat % 2 ^ (32 - k)) <<< k + x.toNat * 2 ^ k / 2 ^ 32 < 2 ^ 32 := by
    have room : x.toNat % 2 ^ (32 - k) + 1 ≤ 2 ^ (32 - k) := Nat.mod_lt _ (Nat.two_pow_pos _)
    have := Nat.mul_le_mul_right (2 ^ k) room
    rw [← split, Nat.add_mul, Nat.one_mul] at this
    rw [Nat.shiftLeft_eq]
    omega
  have low : x.toNat * 2 ^ k / 2 ^ 32 % 2 ^ 32 = x.toNat * 2 ^ k / 2 ^ 32 :=
    Nat.mod_eq_of_lt (Nat.lt_trans small (Nat.pow_lt_pow_right (by decide) hk))
  rw [BitVec.toNat_rotateLeft, Nat.mod_eq_of_lt hk, out, kept, ← Nat.shiftLeft_add_eq_or_of_lt small,
    BitVec.toNat_ofNat, Nat.add_mod, low, ← Nat.shiftLeft_eq x.toNat, kept, Nat.shiftLeft_eq x.toNat, Nat.mod_eq_of_lt fits]

theorem ite_slt_eq_ofInt_min (x y : Word) : (if x.slt y then x else y) = BitVec.ofInt 32 (min x.toInt y.toInt) := by
  by_cases h : x.toInt < y.toInt
  · rw [if_pos (BitVec.slt_iff_toInt_lt.2 h), Int.min_eq_left (Int.le_of_lt h), BitVec.ofInt_toInt]
  · rw [if_neg (mt BitVec.slt_iff_toInt_lt.1 h), Int.min_eq_right (Int.not_lt.1 h), BitVec.ofInt_toInt]

theorem ite_slt_eq_ofInt_max (x y : Word) : (if x.slt y then y else x) = BitVec.ofInt 32 (max x.toInt y.toInt) := by
  by_cases h : x.toInt < y.toInt
  · rw [if_pos (BitVec.slt_iff_toInt_lt.2 h), Int.max_eq_right (Int.le_of_lt h), BitVec.ofInt_toInt]
  · rw [if_neg (mt BitVec.slt_iff_toInt_lt.1 h), Int.max_eq_left (Int.not_lt.1 h), BitVec.ofInt_toInt]

theorem ite_ult_eq_ofNat_min (x y : Word) : (if x.ult y then x else y) = BitVec.ofNat 32 (min x.toNat y.toNat) := by
  by_cases h : x.toNat < y.toNat
  · rw [if_pos (BitVec.ult_iff_toNat_lt.2 h), Nat.min_eq_left (Nat.le_of_lt h), BitVec.ofNat_toNat, BitVec.setWidth_eq]
  · rw [if_neg (mt BitVec.ult_iff_toNat_lt.1 h), Nat.min_eq_right (Nat.not_lt.1 h), BitVec.ofNat_toNat, BitVec.setWidth_eq]

theorem ite_ult_eq_ofNat_max (x y : Word) : (if x.ult y then y else x) = BitVec.ofNat 32 (max x.toNat y.toNat) := by
  by_cases h : x.toNat < y.toNat
  · rw [if_pos (BitVec.ult_iff_toNat_lt.2 h), Nat.max_eq_right (Nat.le_of_lt h), BitVec.ofNat_toNat, BitVec.setWidth_eq]
  · rw [if_neg (mt BitVec.ult_iff_toNat_lt.1 h), Nat.max_eq_left (Nat.not_lt.1 h), BitVec.ofNat_toNat, BitVec.setWidth_eq]

theorem bword_eq_ite {b : Bool} {c : Prop} [Decidable c] (h : b = true ↔ c) : bword b = if c then 1 else 0 := by
  simp only [bword, h]

/-- `clzW` counts the zeros above the highest one (R113). -/
theorem exists_clzW_eq (x : Word) : ∃ n, n ≤ 32 ∧ (∀ i < n, x.getLsbD (31 - i) = false)
    ∧ (n < 32 → x.getLsbD (31 - n) = true) ∧ clzW x = BitVec.ofNat 32 n := by
  by_cases h : x = 0
  · exact ⟨32, Nat.le_refl _, fun i _ => by simp [h], fun h => absurd h (Nat.lt_irrefl _), by simp [clzW, h]⟩
  · have nz : x.toNat ≠ 0 := fun e => h (BitVec.eq_of_toNat_eq e)
    have top : Nat.log2 x.toNat < 32 := (Nat.log2_lt nz).2 x.isLt
    refine ⟨31 - Nat.log2 x.toNat, by omega, fun i hi => ?_, fun _ => ?_, by rw [clzW, if_neg h]⟩
    · exact Nat.testBit_lt_two_pow (Nat.lt_of_lt_of_le Nat.lt_log2_self (Nat.pow_le_pow_right (by decide) (by omega)))
    · rw [Nat.sub_sub_self (by omega)]
      exact Nat.testBit_log2 nz

theorem popN_eq_countP (x n : Nat) : popN x n = (List.range n).countP fun i => x.testBit i := by
  induction n with
  | zero => rfl
  | succ n ih =>
    simp [popN, ih, List.range_succ, List.countP_append, b2n, bitAt, Nat.testBit_eq_decide_div_mod_eq, List.countP_cons]

theorem remW_eq (x y : Word) :
    remW x y = if y = 0 then x else if x = 0x80000000 ∧ y = 0xFFFFFFFF then 0
      else BitVec.ofInt 32 (x.toInt - y.toInt * x.toInt.tdiv y.toInt) := by
  simp only [remW, Int.tmod_def, Bool.and_eq_true, decide_eq_true_eq]

theorem divW_eq (x y : Word) :
    divW x y = if y = 0 then 0xFFFFFFFF else if x = 0x80000000 ∧ y = 0xFFFFFFFF then 0x80000000
      else BitVec.ofInt 32 (x.toInt.tdiv y.toInt) := by
  simp only [divW, Bool.and_eq_true, decide_eq_true_eq]

theorem mul_eq_ofNat (x y : Word) : x * y = BitVec.ofNat 32 (x.toNat * y.toNat) :=
  BitVec.eq_of_toNat_eq (by simp)

/-! ### Signed fields (R89, R115) -/

theorem sgn_of_lt {n w : Nat} (h : w < 2 ^ n) : sgn n w = if w < 2 ^ (n - 1) then (w : Int) else (w : Int) - 2 ^ n := by
  simp only [sgn, Nat.mod_eq_of_lt h]
  push_cast
  rfl

theorem addrAdd_eq_ofInt (a : Addr) (d : Int) : addrAdd a d = BitVec.ofInt 64 (a.toNat + d) := by
  rw [addrAdd, BitVec.ofInt_add, BitVec.ofInt_natCast, BitVec.ofNat_toNat, BitVec.setWidth_eq]

theorem toInt_sext14 {imm : Nat} (h : imm < 2 ^ 14) :
    (sext14 imm).toInt = if imm < 2 ^ 13 then (imm : Int) else (imm : Int) - 2 ^ 14 := by
  rw [sext14, sgn_of_lt h, BitVec.toInt_ofInt]
  refine Int.bmod_eq_of_le ?_ ?_ <;> split <;> omega

theorem zext14_eq_ofNat {imm : Nat} (h : imm < 2 ^ 14) : zext14 imm = BitVec.ofNat 32 imm := by
  rw [zext14, Nat.mod_eq_of_lt h]

/-! ### Addresses (R117, R118) -/

theorem setWidth_eq_ofNat_mod (x : Addr) : x.setWidth 32 = BitVec.ofNat 32 (x.toNat % 2 ^ 32) :=
  BitVec.eq_of_toNat_eq (by simp)

theorem high_setWidth_eq_ofNat (x : Addr) : (x >>> 32).setWidth 32 = BitVec.ofNat 32 (x.toNat / 2 ^ 32) :=
  BitVec.eq_of_toNat_eq (by rw [BitVec.toNat_setWidth, BitVec.toNat_ushiftRight, Nat.shiftRight_eq_div_pow, BitVec.toNat_ofNat])

/-- A scaled signed distance (R118). -/
theorem signExtend_shiftLeft_eq_ofInt (y : Word) (k : Nat) : y.signExtend 64 <<< k = BitVec.ofInt 64 (y.toInt * 2 ^ k) := by
  have p : BitVec.twoPow 64 k = BitVec.ofInt 64 (2 ^ k) := by
    refine BitVec.eq_of_toNat_eq ?_
    rw [BitVec.toNat_twoPow, ← BitVec.toNat_ofNat, ← BitVec.ofInt_natCast]
    push_cast
    rfl
  rw [BitVec.shiftLeft_eq_mul_twoPow, p, BitVec.ofInt_mul]
  rfl

theorem sub_ofInt_eq_ofInt (x : Addr) (d : Int) : x - BitVec.ofInt 64 d = BitVec.ofInt 64 (x.toNat - d) := by
  rw [BitVec.sub_eq_add_neg, ← BitVec.ofInt_neg]
  exact addrAdd_eq_ofInt x (-d)

/-- A high and a low word laid side by side (R118). -/
theorem high_or_low_eq_ofNat (h l : Addr) (hl : l.toNat < 2 ^ 32) :
    h <<< 32 ||| l = BitVec.ofNat 64 (h.toNat * 2 ^ 32 + l.toNat) := by
  refine BitVec.eq_of_toNat_eq ?_
  have kept : h.toNat <<< 32 % 2 ^ 64 = (h.toNat % 2 ^ 32) <<< 32 := by
    rw [Nat.shiftLeft_eq, Nat.shiftLeft_eq, show 2 ^ 64 = 2 ^ 32 * 2 ^ 32 from rfl, Nat.mul_mod_mul_right]
  rw [BitVec.toNat_or, BitVec.toNat_shiftLeft, kept, ← Nat.shiftLeft_add_eq_or_of_lt hl, BitVec.toNat_ofNat, Nat.shiftLeft_eq]
  omega

/-! ### Scalar operations, products and quotients (R113, R114) -/

/-- A word of two scalar operands in a clear state (R111, R112). -/
theorem alu3_wroteS {i : Instr} {n : Nat} {f : Word → Word → Word} {d a b : Nat} {s : State} {v : Word}
    (hi : exec i s = .next (alu3 n f d a b s)) (hc : Clear { rs := [a, b], ws := [d] } s)
    (hv : f (readS (clu s) a).val (readS (clu s) b).val = v) (hn : 1 ≤ n := by decide) :
    ∃ t, exec i s = .next t ∧ WroteS n d { val := v, pois := (readS (clu s) a).pois || (readS (clu s) b).pois } s t := by
  subst hv
  refine ⟨_, hi, ?_⟩
  rw [alu3, issue_of_clear hc]
  simp only [clu_markRead]
  exact wroteS_retire _ _ _ _ _ hn

/-- A word of one scalar operand in a clear state (R111, R112). -/
theorem alu2_wroteS {i : Instr} {f : Word → Word} {d a : Nat} {s : State} {v : Word}
    (hi : exec i s = .next (alu2 f d a s)) (hc : Clear { rs := [a], ws := [d] } s) (hv : f (readS (clu s) a).val = v) :
    ∃ t, exec i s = .next t ∧ WroteS 1 d { val := v, pois := (readS (clu s) a).pois } s t := by
  subst hv
  refine ⟨_, hi, ?_⟩
  rw [alu2, issue_of_clear hc]
  simp only [clu_markRead]
  exact wroteS_retire _ _ _ _ _ (Nat.le_refl _)

theorem sel_wroteS {d a b : Nat} {s : State} (hc : Clear { rs := [a, b, d], ws := [d] } s) :
    ∃ t, exec (.sel d a b) s = .next t ∧ WroteS 1 d
      { val := if (readS (clu s) d).val = 0 then (readS (clu s) b).val else (readS (clu s) a).val,
        pois := (readS (clu s) a).pois || (readS (clu s) b).pois || (readS (clu s) d).pois } s t := by
  have e : exec (.sel d a b) s = execSel d a b s := rfl
  refine ⟨_, e, ?_⟩
  rw [issue_of_clear hc]
  simp only [clu_markRead]
  exact wroteS_retire _ _ _ _ _ (Nat.le_refl _)

/-- Settles O9: each operation of R113 retires its value with latency 1. -/
theorem aluOperations : Obligations.AluOperations := by
  intro d a b s x y z p k gives
  have hk : k < 32 := Nat.mod_lt _ (by decide)
  refine ⟨fun hc => ?_, fun hc => ?_, sel_wroteS⟩
  · exact ⟨alu3_wroteS rfl hc (add_eq_ofNat _ _), alu3_wroteS rfl hc (sub_eq_ofInt _ _),
      alu3_wroteS rfl hc rfl, alu3_wroteS rfl hc rfl, alu3_wroteS rfl hc rfl, alu3_wroteS rfl hc rfl,
      alu3_wroteS rfl hc (shiftLeft_eq_ofNat _ _), alu3_wroteS rfl hc (shiftRight_eq_ofNat _ _),
      alu3_wroteS rfl hc (sshiftRight_eq_ofInt _ _), alu3_wroteS rfl hc (rotateLeft_eq_ofNat _ hk),
      alu3_wroteS rfl hc (ite_slt_eq_ofInt_min _ _), alu3_wroteS rfl hc (ite_slt_eq_ofInt_max _ _),
      alu3_wroteS rfl hc (ite_ult_eq_ofNat_min _ _), alu3_wroteS rfl hc (ite_ult_eq_ofNat_max _ _),
      alu3_wroteS rfl hc (bword_eq_ite beq_iff_eq), alu3_wroteS rfl hc (bword_eq_ite BitVec.slt_iff_toInt_lt),
      alu3_wroteS rfl hc (bword_eq_ite BitVec.ult_iff_toNat_lt)⟩
  · obtain ⟨n, hn, zeros, top, value⟩ := exists_clzW_eq x.val
    exact ⟨⟨n, hn, zeros, top, alu2_wroteS rfl hc value⟩, alu2_wroteS rfl hc (congrArg _ (popN_eq_countP _ _))⟩

/-- Settles O10: the products retire with latency 3, the quotients and remainders with latency 12. -/
theorem multiplyDivide : Obligations.MultiplyDivide := by
  intro d a b s hc x y p edge gives
  exact ⟨alu3_wroteS rfl hc (mul_eq_ofNat _ _), alu3_wroteS rfl hc rfl, alu3_wroteS rfl hc rfl,
    alu3_wroteS rfl hc (divW_eq _ _), alu3_wroteS rfl hc rfl,
    alu3_wroteS rfl hc (remW_eq _ _), alu3_wroteS rfl hc rfl⟩

/-! ### Immediate forms and address words (R115-R118) -/

theorem add_sext14_eq_ofInt (x : Word) {imm : Nat} (h : imm < 2 ^ 14) :
    x + sext14 imm = BitVec.ofInt 32 (x.toInt + if imm < 2 ^ 13 then (imm : Int) else (imm : Int) - 2 ^ 14) := by
  rw [BitVec.ofInt_add, BitVec.ofInt_toInt, sext14, sgn_of_lt h]

/-- A word that writes an unpoisoned scalar, in a clear state. -/
theorem setS_wroteS {i : Instr} {d : Nat} {f : State → Word} {u : Use} {s : State} {v : Word}
    (hi : exec i s = .next (setS d f u s)) (hc : Clear { u with ws := [d] } s) (hv : f (markRead { u with ws := [d] } s) = v) :
    ∃ t, exec i s = .next t ∧ WroteS 1 d { val := v } s t := by
  subst hv
  refine ⟨_, hi, ?_⟩
  rw [setS, issue_of_clear hc]
  exact wroteS_retire _ _ _ _ _ (Nat.le_refl _)

/-- A word that writes an address register from another, in a clear state. -/
theorem landA_wroteA {i : Instr} {f : Addr → Addr} {d a : Nat} {s : State} {v : Addr}
    (hi : exec i s = .next (issue { ra := [a] } false (fun s => retire [landA d (f (readA (clu s) a))] s) s))
    (hc : Clear { ra := [a] } s) (hv : f (readA (clu s) a) = v) : ∃ t, exec i s = .next t ∧ WroteA d v s t := by
  subst hv
  refine ⟨_, hi, ?_⟩
  rw [issue_of_clear hc, clu_markRead]
  exact wroteA_retire _ _ _ _

/-- A word that writes an address register from one and an unpoisoned scalar, in a clear state. -/
theorem aluAS_wroteA {i : Instr} {f : Addr → Word → Addr} {d a b : Nat} {s : State} {v : Addr}
    (hi : exec i s = .next (aluAS f d a b s)) (hc : Clear { rs := [b], ra := [a] } s) (hp : (readS (clu s) b).pois = false)
    (hv : f (readA (clu s) a) (readS (clu s) b).val = v) : ∃ t, exec i s = .next t ∧ WroteA d v s t := by
  subst hv
  refine ⟨_, hi, ?_⟩
  rw [aluAS, issue_of_clear hc]
  simp only [clu_markRead, hp, Bool.false_eq_true, if_false]
  exact wroteA_retire _ _ _ _

/-- A poisoned scalar stops an address word (R112). -/
theorem aluAS_poison {f : Addr → Word → Addr} {d a b : Nat} {s : State} (hc : Clear { rs := [b], ra := [a] } s)
    (hp : (readS (clu s) b).pois = true) :
    aluAS f d a b s = raise cPOISON s.word 0 (markRead { rs := [b], ra := [a] } s) := by
  rw [aluAS, issue_of_clear hc]
  simp only [clu_markRead, hp, if_true]
  rfl

theorem add_scaled_eq_ofInt (x : Addr) (y : Word) {sh : Nat} (h : sh < 8) :
    x + y.signExtend 64 <<< (sh % 8) = BitVec.ofInt 64 (x.toNat + y.toInt * 2 ^ sh) := by
  rw [Nat.mod_eq_of_lt h, signExtend_shiftLeft_eq_ofInt]
  exact addrAdd_eq_ofInt x _

theorem sub_scaled_eq_ofInt (x : Addr) (y : Word) {sh : Nat} (h : sh < 8) :
    x - y.signExtend 64 <<< (sh % 8) = BitVec.ofInt 64 (x.toNat - y.toInt * 2 ^ sh) := by
  rw [Nat.mod_eq_of_lt h, signExtend_shiftLeft_eq_ofInt, sub_ofInt_eq_ofInt]

theorem high_or_word_eq_ofNat (x : Addr) (y : Word) :
    ((x >>> 32) <<< 32) ||| y.setWidth 64 = BitVec.ofNat 64 (x.toNat / 2 ^ 32 * 2 ^ 32 + y.toNat) := by
  have low : (y.setWidth 64).toNat = y.toNat := BitVec.toNat_setWidth_of_le (by decide)
  rw [high_or_low_eq_ofNat _ _ (low ▸ y.isLt), low, BitVec.toNat_ushiftRight, Nat.shiftRight_eq_div_pow]

theorem imm_or_low_eq_ofNat (x : Addr) {imm : Nat} (h : imm < 2 ^ 16) :
    (BitVec.ofNat 64 (imm % 2 ^ 16) <<< 32) ||| (x.setWidth 32).setWidth 64
      = BitVec.ofNat 64 (imm * 2 ^ 32 + x.toNat % 2 ^ 32) := by
  have low : ((x.setWidth 32).setWidth 64).toNat = x.toNat % 2 ^ 32 := by
    rw [BitVec.toNat_setWidth_of_le (by decide), BitVec.toNat_setWidth]
  have high : (BitVec.ofNat 64 (imm % 2 ^ 16)).toNat = imm := by
    rw [BitVec.toNat_ofNat, Nat.mod_eq_of_lt h, Nat.mod_eq_of_lt (by omega)]
  rw [high_or_low_eq_ofNat _ _ (low ▸ Nat.mod_lt _ (by decide)), low, high]

/-- Settles O11: the immediate words are those of R113 on an extended field; the address words add, subtract and join halves. -/
theorem immediateAndAddressWords : Obligations.ImmediateAndAddressWords := by
  refine ⟨fun d a imm s himm => ⟨fun hc => ?_, fun hc j hj => setS_wroteS (u := {}) rfl hc rfl⟩, fun d a b sh imm s hsh himm =>
    ⟨fun hc => ?_, fun hc => ?_, fun hc hp => ?_, fun hc hp i hi => ?_⟩⟩
  · exact ⟨alu2_wroteS rfl hc (add_sext14_eq_ofInt _ himm), alu2_wroteS rfl hc (congrArg _ (zext14_eq_ofNat himm)),
      alu2_wroteS rfl hc (congrArg _ (zext14_eq_ofNat himm)), alu2_wroteS rfl hc (congrArg _ (zext14_eq_ofNat himm)),
      alu2_wroteS rfl hc (shiftLeft_eq_ofNat _ _), alu2_wroteS rfl hc (shiftRight_eq_ofNat _ _),
      alu2_wroteS rfl hc (sshiftRight_eq_ofInt _ _),
      alu2_wroteS rfl hc (bword_eq_ite (BitVec.slt_iff_toInt_lt.trans (by rw [toInt_sext14 himm]))),
      alu2_wroteS rfl hc (bword_eq_ite (BitVec.ult_iff_toNat_lt.trans (by rw [sext14, sgn_of_lt himm])))⟩
  · exact ⟨setS_wroteS (u := { ra := [a] }) rfl hc (by simpa using setWidth_eq_ofNat_mod _),
      setS_wroteS (u := { ra := [a] }) rfl hc (by simpa using high_setWidth_eq_ofNat _)⟩
  · exact ⟨landA_wroteA (f := fun x => addrAdd x (sgn 16 imm)) rfl hc (by rw [addrAdd_eq_ofInt, sgn_of_lt himm]),
      landA_wroteA (f := fun x => (BitVec.ofNat 64 (imm % 2 ^ 16) <<< 32) ||| (x.setWidth 32).setWidth 64) rfl hc
        (imm_or_low_eq_ofNat _ himm)⟩
  · exact ⟨aluAS_wroteA rfl hc hp (add_scaled_eq_ofInt _ _ hsh), aluAS_wroteA rfl hc hp (sub_scaled_eq_ofInt _ _ hsh),
      aluAS_wroteA rfl hc hp (high_or_word_eq_ofNat _ _)⟩
  · simp only [List.mem_cons, List.not_mem_nil, or_false] at hi
    rcases hi with rfl | rfl | rfl <;> exact congrArg _ (aluAS_poison hc hp)

/-! ### Transfers of control (R119-R121, R155) -/

theorem target_eq_ofInt {n off : Nat} (pc : Addr) (h : off < 2 ^ n) :
    target n off pc = BitVec.ofInt 64 (pc.toNat + 4 * if off < 2 ^ (n - 1) then (off : Int) else (off : Int) - 2 ^ n) := by
  rw [target, addrAdd_eq_ofInt, sgn_of_lt h]

/-- The state after a taken branch, but for the trace record (R446). -/
theorem exists_wentTo_branchTo (pc : Addr) (s : State) :
    ∃ t, WentTo pc false s t ∧ branchTo pc [] s
      = traceOut t s.cur 2 s.cl ((clu s).pc.toNat % 2 ^ 32 + pc.toNat % 2 ^ 32 * 2 ^ 32) :=
  ⟨_, wentTo_retireTo pc s, rfl⟩

/-- A transfer to `pc` in a clear state: the place of control and the trace record. -/
theorem branchTo_wentTo {i : Instr} {s : State} {u : Use} {pc : Addr} (hi : exec i s = .next (branchTo pc [] (markRead u s))) :
    ∃ t, WentTo pc false s t ∧ exec i s
      = .next (traceOut t s.cur 2 s.cl ((clu s).pc.toNat % 2 ^ 32 + pc.toNat % 2 ^ 32 * 2 ^ 32)) := by
  obtain ⟨t, went, e⟩ := exists_wentTo_branchTo pc (markRead u s)
  rw [clu_markRead] at e
  exact ⟨t, went.ofMark, hi.trans (congrArg _ e)⟩

/-- A word that does nothing but go on, in a clear state. -/
theorem retire_nil_passed {i : Instr} {s : State} {u : Use} (hi : exec i s = .next (retire [] (markRead u s))) :
    ∃ t, exec i s = .next t ∧ Passed s t := ⟨_, hi, (passed_retire _).ofMark⟩

/-- What a compare-and-branch word does in a clear state (R112, R119). -/
theorem branch_of_clear {f : Word → Word → Bool} {a b off : Nat} {s : State} (hc : Clear { rs := [a, b] } s) :
    branch f a b off s =
      if (readS (clu s) a).pois || (readS (clu s) b).pois then raise cPOISON s.word 0 (markRead { rs := [a, b] } s)
      else if f (readS (clu s) a).val (readS (clu s) b).val
        then branchTo (target 14 off (clu s).pc) [] (markRead { rs := [a, b] } s) else retire [] (markRead { rs := [a, b] } s) := by
  rw [branch, issue_of_clear hc]
  simp only [clu_markRead]
  rfl

/-- A compare-and-branch word with unpoisoned operands, whose comparison says `c`, in a clear state (R119). -/
theorem branch_wentTo_or_passed {i : Instr} {f : Word → Word → Bool} {a b off : Nat} {s : State} {c : Prop} {pc : Addr}
    (hi : exec i s = .next (branch f a b off s)) (hc : Clear { rs := [a, b] } s)
    (hx : (readS (clu s) a).pois = false) (hy : (readS (clu s) b).pois = false)
    (hf : f (readS (clu s) a).val (readS (clu s) b).val = true ↔ c) (hpc : target 14 off (clu s).pc = pc) :
    (c → ∃ t, WentTo pc false s t ∧ exec i s
        = .next (traceOut t s.cur 2 s.cl ((clu s).pc.toNat % 2 ^ 32 + pc.toNat % 2 ^ 32 * 2 ^ 32)))
      ∧ (¬c → ∃ t, exec i s = .next t ∧ Passed s t) := by
  subst hpc
  rw [branch_of_clear hc, hx, hy, Bool.or_self, if_neg Bool.false_ne_true] at hi
  refine ⟨fun taken => ?_, fun passed => ?_⟩
  · rw [if_pos (hf.2 taken)] at hi
    exact branchTo_wentTo hi
  · rw [if_neg (mt hf.1 passed)] at hi
    exact retire_nil_passed hi

/-- What a cluster reads of an address register does not depend on where it stands. -/
theorem readA_mover {G : Clu → Clu} (hG : Mover G) (k : Clu) (r : Nat) : readA (G k) r = readA k r := by
  rw [hG]
  rfl

/-- The link of a call is what the next word reads. -/
theorem readA_land_same {G : Clu → Clu} (hG : Mover G) (s : State) (d : Nat) (v : Addr) :
    readA (clu (onClu G (commitWord [landA d v] s))) d = v := by
  have here := readA_retire_same s d v
  rw [retire, clu_land, readA_mover mover_pass] at here
  rw [clu_land, readA_mover hG, here]

/-- CALL leaves the address of the next word in a15 and changes no other register (R120). -/
theorem call_frame {j : Nat} {s : State} {pc : Addr} (hc : Clear {} s) (hpc : target 24 j (clu s).pc = pc) :
    ∃ t, WordFrame s t ∧ (clu t).pc = pc ∧ (clu t).closing = false ∧ readA (clu t) 15 = (clu s).pc + 4
      ∧ (∀ r, r ≠ 15 → Quiet (clu s) .a r → readA (clu t) r = readA (clu s) r)
      ∧ (∀ r, Quiet (clu s) .s r → readS (clu t) r = readS (clu s) r)
      ∧ exec (.call j) s = .next (traceOut t s.cur 2 s.cl ((clu s).pc.toNat % 2 ^ 32 + pc.toNat % 2 ^ 32 * 2 ^ 32)) := by
  subst hpc
  let link := landA 15 ((clu s).pc + 4)
  have m := mover_to (target 24 j (clu s).pc)
  have frame : WordFrame (markRead {} s) (retireTo (target 24 j (clu s).pc) [link] (markRead {} s)) :=
    wordFrame_land m (by simp [NoVector, link, landA]) _
  refine ⟨retireTo (target 24 j (clu s).pc) [link] (markRead {} s), frame.ofMark, ?_, ?_, readA_land_same m _ _ _,
    fun r hr hq => ?_, fun r hq => ?_, ?_⟩
  · rw [retireTo, clu_land]
  · rw [retireTo, clu_land]
  · rw [retireTo, readA_land m (by simpa using hq) (by simp [elsewhere, link, landA, Ne.symm hr]), clu_markRead]
  · rw [retireTo, readS_land m (by simpa using hq) (by simp [elsewhere, link, landA]), clu_markRead]
  · have e : exec (.call j) s = execCall j s := rfl
    rw [e, execCall, issue_of_clear hc, branchTo, clu_markRead]
    rfl

theorem exec_jmp {j : Nat} {s : State} (hc : Clear {} s) :
    exec (.jmp j) s = .next (branchTo (target 24 j (clu s).pc) [] (markRead {} s)) := by
  have e : exec (.jmp j) s = execJmp j s := rfl
  rw [e, execJmp, issue_of_clear hc, clu_markRead]

theorem fault_toNat (cause : Nat) (a : Addr) (s : State) : fault cause a.toNat s = raise cause s.word a s := by
  rw [fault, BitVec.ofNat_toNat, BitVec.setWidth_eq]

/-- JR checks its target (R121). -/
theorem exec_jr {a imm : Nat} {s : State} (hc : Clear { ra := [a] } s) :
    exec (.jr a imm) s = .next (if (target 16 imm (readA (clu s) a)).toNat % 4 = 0
      then branchTo (target 16 imm (readA (clu s) a)) [] (markRead { ra := [a] } s)
      else raise cALIGN s.word (target 16 imm (readA (clu s) a)) (markRead { ra := [a] } s)) := by
  have e : exec (.jr a imm) s = execJr a imm s := rfl
  rw [e, execJr, issue_of_clear hc]
  simp only [clu_markRead, fault_toNat, markRead_word]

theorem exec_chk {a off : Nat} {s : State} (hc : Clear { rs := [a] } s) :
    exec (.chk a off) s = .next (if (readS (clu s) a).pois then branchTo (target 14 off (clu s).pc) [] (markRead { rs := [a] } s)
      else retire [] (markRead { rs := [a] } s)) := by
  have e : exec (.chk a off) s = execChk a off s := rfl
  rw [e, execChk, issue_of_clear hc, clu_markRead]

/-- A core whose KCTL turns tracing off writes no record (R139, R446). -/
theorem traceOut_of_off {s : State} {n ty : Nat} (cl payload : Nat) (h3 : (coreAt s n).kctl.getLsbD 3 = false)
    (h4 : ty = 1 → (coreAt s n).kctl.getLsbD 4 = false) : traceOut s n ty cl payload = s := by
  have h : (ty == 1 && (coreAt s n).kctl.getLsbD 4) = false := by
    by_cases e : ty = 1
    · rw [h4 e, Bool.and_false]
    · rw [beq_false_of_ne e, Bool.false_and]
  exact if_pos (by rw [h3, h]; rfl)

/-- Settles O12: a transfer of control retires with the record of R446, and a poisoned operand or a target off a word boundary
stops the word before it. -/
theorem branchesAndJumps : Obligations.BranchesAndJumps := by
  refine ⟨fun a b off s hoff hc => ?_, fun a off j imm s hoff hj himm => ?_, fun s n ty cl payload => traceOut_of_off cl payload⟩
  · have hpc := target_eq_ofInt (clu s).pc hoff
    refine ⟨fun ⟨hx, hy⟩ => ?_, fun hp i hi => ?_⟩
    · have signed := BitVec.slt_iff_toInt_lt (x := (readS (clu s) a).val) (y := (readS (clu s) b).val)
      have unsigned := BitVec.ult_iff_toNat_lt (x := (readS (clu s) a).val) (y := (readS (clu s) b).val)
      exact ⟨branch_wentTo_or_passed rfl hc hx hy beq_iff_eq hpc, branch_wentTo_or_passed rfl hc hx hy bne_iff_ne hpc,
        branch_wentTo_or_passed rfl hc hx hy signed hpc,
        branch_wentTo_or_passed rfl hc hx hy (by rw [Bool.not_eq_true', ← Bool.not_eq_true, signed, Int.not_lt]) hpc,
        branch_wentTo_or_passed rfl hc hx hy unsigned hpc,
        branch_wentTo_or_passed rfl hc hx hy (by rw [Bool.not_eq_true', ← Bool.not_eq_true, unsigned, Nat.not_lt]) hpc⟩
    · have poison (f : Word → Word → Bool) : branch f a b off s = raise cPOISON s.word 0 (markRead { rs := [a, b] } s) := by
        rw [branch_of_clear hc, if_pos (Bool.or_eq_true_iff.2 hp)]
      simp only [List.mem_cons, List.not_mem_nil, or_false] at hi
      rcases hi with rfl | rfl | rfl | rfl | rfl | rfl <;> exact congrArg _ (poison _)
  · refine ⟨fun hc => ⟨?_, call_frame hc (target_eq_ofInt _ hj)⟩, fun hc => ?_, fun hc => ?_⟩
    · have e := exec_jmp (j := j) hc
      rw [target_eq_ofInt _ hj] at e
      exact branchTo_wentTo e
    · have e := exec_jr (imm := imm) hc
      rw [target_eq_ofInt _ himm] at e
      exact ⟨fun aligned => branchTo_wentTo (e.trans (congrArg _ (if_pos aligned))),
        fun misaligned => e.trans (congrArg _ (if_neg misaligned))⟩
    · have e := exec_chk (off := off) hc
      rw [target_eq_ofInt _ hoff] at e
      refine ⟨fun hp => ?_, fun hp => ?_⟩
      · rw [hp, if_pos rfl] at e
        exact branchTo_wentTo e
      · rw [hp, if_neg Bool.false_ne_true] at e
        exact retire_nil_passed e

/-! ### Outcome queues (R65, R128, R129) -/

/-- Cluster `cl` may push outcomes to cluster `t` (R65). -/
theorem mayPush_iff (t : Clu) (cl : Nat) :
    (!t.active || t.outProd.any fun p => p != cl) = false ↔ t.active = true ∧ (t.outProd = none ∨ t.outProd = some cl) := by
  cases t.outProd <;> simp

/-- The outcome `b` is appended to the queue of cluster `g`, whose producer this cluster is or becomes (R65, R128). -/
def pushOutcome (g : Nat) (b : Bool) (s : State) : State :=
  onCore (fun c => putClu c g { cluAt c g with outq := (cluAt c g).outq ++ [b], outProd := some s.cl }) s

/-- This cluster's outcome queue holds `r` once its oldest outcome is popped (R129, R471). -/
def popOutcome (r : List Bool) (s : State) : State :=
  onClu (fun k => { k with outq := r }) (onCore (fun c => { c with soft := outPopped s.cl c.soft }) s)

/-- What BQPUSH does in a clear state (R128). -/
theorem exec_bqpush {g a : Nat} {s : State} (hc : Clear { rs := [a] } s) :
    exec (.bqpush g a) s = .next (
      if !(cluAt (core s) g).active || (cluAt (core s) g).outProd.any fun p => p != s.cl
        then raise cQPROTO s.word (BitVec.ofNat 64 g) (markRead { rs := [a] } s)
      else if (readS (clu s) a).pois then raise cPOISON s.word 0 (markRead { rs := [a] } s)
      else if 32 ≤ (cluAt (core s) g).outq.length then waitFor 0 (.outq g) (markRead { rs := [a] } s)
      else retire [] (pushOutcome g ((readS (clu s) a).val != 0) (markRead { rs := [a] } s))) := by
  have e : exec (.bqpush g a) s = execBqpush g a s := rfl
  rw [e, execBqpush, issue_of_clear hc]
  simp only [clu_markRead, markRead_cl]
  rw [core_markRead]
  rfl

theorem clu_onCore (f : Core → Core) (s : State) : clu (onCore f s) = cluAt (f (core s)) s.cl := by
  rw [clu, core_onCore]
  rfl

theorem clu_popOutcome (r : List Bool) (s : State) : clu (popOutcome r s) = { clu s with outq := r } := by
  rw [popOutcome, clu_onClu, clu_onCore]
  rfl

/-- What BQBR does with an outcome that is not damaged, in a clear state (R129). -/
theorem exec_bqbr_cons {off : Nat} {s : State} {b : Bool} {r : List Bool} (hc : Clear {} s) (hq : (clu s).outq = b :: r)
    (hs : (core s).soft.contains (.out s.cl 0) = false) :
    exec (.bqbr off) s = .next (if b then branchTo (target 24 off (clu s).pc) [] (popOutcome r (markRead {} s))
      else retire [] (popOutcome r (markRead {} s))) := by
  have e : exec (.bqbr off) s = execBqbr off s := rfl
  have hs' : (core (markRead {} s)).soft.contains (.out s.cl 0) = false := by rw [core_markRead]; exact hs
  rw [e, execBqbr, issue_of_clear hc]
  simp only [clu_markRead, hq, markRead_cl, hs', Bool.false_eq_true, if_false]
  rw [← clu_markRead {} s, ← show (clu (popOutcome r (markRead {} s))).pc = _ from congrArg Clu.pc (clu_popOutcome r _)]
  rfl

theorem exec_bqbr_nil {off : Nat} {s : State} (hc : Clear {} s) (hq : (clu s).outq = []) :
    exec (.bqbr off) s = .next (waitOn (.outq s.cl) (markRead {} s)) := by
  have e : exec (.bqbr off) s = execBqbr off s := rfl
  rw [e, execBqbr, issue_of_clear hc]
  simp only [clu_markRead, hq, markRead_cl]

/-! ### Handshake counters (R71-R73, R136) -/

/-- A word that reads no scalar marks no token. -/
theorem markRead_onCore_of_no_scalars {u : Use} (hu : u.rs = []) (f : Core → Core) (s : State) :
    markRead u (onCore f s) = onCore f s := by
  have same (l : List Cmd) (g : Cmd → Cmd) : lmap (fun _ => false) g l = l := by
    induction l with
    | nil => rfl
    | cons x r ih => rw [lmap, ih]; rfl
  simp only [markRead, hu, List.any_nil, same]
  simp [onCore, setCore, setCoreAt, core, coreAt, fput_fput]

@[simp] theorem learn_h (cl n : Nat) (c : Core) : (learn cl n c).h = c.h := by
  unfold learn
  split <;> rfl

theorem hAt_signalH_val (s : State) (h : Nat) : (hAt (signalH s h) h).val = (hAt s h).val + 1 := by
  simp [signalH, hAt]

theorem hAt_signalH_ne (s : State) {h j : Nat} (hj : j ≠ h) : hAt (signalH s h) j = hAt s j := by
  simp [signalH, hAt, fget_fput_ne _ _ _ _ _ hj]

theorem hAt_takeH_val (s : State) (h : Nat) : (hAt (takeH s h) h).val = (hAt s h).val - 1 := by
  simp [takeH, hAt]

theorem hAt_takeH_ceil (s : State) (h : Nat) : (hAt (takeH s h) h).ceil = (hAt s h).ceil := by
  simp [takeH, hAt]

theorem hAt_takeH_ne (s : State) {h j : Nat} (hj : j ≠ h) : hAt (takeH s h) j = hAt s j := by
  simp [takeH, hAt, fget_fput_ne _ _ _ _ _ hj]

theorem coreSeen_of_no_view {s : State} (hv : s.view = none) : coreSeen s = core s := by
  rw [coreSeen, hv]

theorem coreSeen_of_view {s : State} {v : View} (hv : s.view = some v) : coreSeen s = v.was := by
  rw [coreSeen, hv]

/-- Reading tokens leaves the counters as a word sees them. -/
@[simp] theorem hSeen_markRead (u : Use) (s : State) (h : Nat) : hSeen (markRead u s) h = hSeen s h := by
  cases hv : s.view with
  | none => rw [hSeen, hSeen, coreSeen_of_no_view hv, coreSeen_of_no_view (s := markRead u s) hv, core_markRead]
  | some v => rw [hSeen, hSeen, coreSeen_of_view hv, coreSeen_of_view (s := markRead u s) hv]

theorem exec_hsig {h : Nat} {s : State} (hc : Clear {} s) :
    exec (.hsig h) s = .next (
      if s.cl ≠ hSrc h then raise cQPROTO s.word (BitVec.ofNat 64 h) (markRead {} s)
      else if (hSeen s h).ceil < (hSeen s h).val + 1
        then raise cHSOVF s.word (BitVec.ofNat 64 (h + (hSeen s h).val * 16 + (hSeen s h).ceil * 256)) (markRead {} s)
      else retire [] (signalH (markRead {} s) h)) := by
  have e : exec (.hsig h) s = execHsig h s := rfl
  rw [e, execHsig, issue_of_clear hc]
  simp only [hSeen_markRead, markRead_cl]
  rfl

theorem exec_hwait {h : Nat} {s : State} (hc : Clear {} s) :
    exec (.hwait h) s = .next (
      if s.cl ≠ hDst h then raise cQPROTO s.word (BitVec.ofNat 64 h) (markRead {} s)
      else if (hSeen s h).val = 0 then waitOn (.hs h) (markRead {} s)
      else retire [] (takeH (markRead {} s) h)) := by
  have e : exec (.hwait h) s = execHwait h s := rfl
  rw [e, execHwait, issue_of_clear hc]
  simp only [hSeen_markRead, markRead_cl]
  rfl

theorem exec_htry {d h : Nat} {s : State} (hc : Clear { ws := [d] } s) :
    exec (.htry d h) s = .next (
      if s.cl ≠ hDst h then raise cQPROTO s.word (BitVec.ofNat 64 h) (markRead { ws := [d] } s)
      else if (hSeen s h).val = 0 then retire [landS 1 d { val := 0 }] (markRead { ws := [d] } s)
      else retire [landS 1 d { val := 1 }] (takeH (markRead { ws := [d] } s) h)) := by
  have e : exec (.htry d h) s = execHtry d h s := rfl
  rw [e, execHtry, issue_of_clear hc]
  simp only [hSeen_markRead, markRead_cl]
  rfl

/-- The write of HTRY, after the counter has changed. -/
theorem wroteS_takeH (d h : Nat) (v : Scalar) (s : State) : WroteS 1 d v (takeH s h) (retire [landS 1 d v] (takeH s h)) := by
  have w := wroteS_retire {} 1 d v (takeH s h) (Nat.le_refl _)
  rwa [takeH, markRead_onCore_of_no_scalars rfl] at w

/-- Settles O14: each word takes the branch of its meaning that the hypotheses select, and the counters change as `signalH` and
`takeH` change them. -/
theorem outcomesAndHandshakes : Obligations.OutcomesAndHandshakes := by
  refine ⟨fun g a off s hoff => ⟨fun hc => ?_, fun hc => ⟨exec_bqbr_nil hc, fun b r hq hs => ?_⟩⟩, fun h d s => ?_⟩
  · have e := exec_bqpush (g := g) hc
    have may := mayPush_iff (cluAt (core s) g) s.cl
    refine ⟨fun notMine => ?_, fun mine hp => ?_, fun mine hp full => ?_, fun mine hp room => ?_⟩
    · rw [if_pos (eq_true_of_ne_false (mt may.1 notMine))] at e
      exact e
    · rw [may.2 mine, if_neg Bool.false_ne_true, hp, if_pos rfl] at e
      exact e
    · rw [may.2 mine, if_neg Bool.false_ne_true, hp, if_neg Bool.false_ne_true, if_pos full] at e
      exact e
    · rw [may.2 mine, if_neg Bool.false_ne_true, hp, if_neg Bool.false_ne_true, if_neg (Nat.not_le.2 room)] at e
      exact ⟨_, e, passed_retire _⟩
  · have e := exec_bqbr_cons (off := off) hc hq hs
    refine ⟨?_, ?_⟩
    · rintro rfl
      exact ⟨_, e, passed_retire _⟩
    · rintro rfl
      obtain ⟨u, went, traced⟩ := exists_wentTo_branchTo (target 24 off (clu s).pc) (popOutcome r (markRead {} s))
      rw [if_pos rfl, traced, clu_popOutcome, clu_markRead] at e
      rw [target_eq_ofInt _ hoff] at e went
      exact ⟨u, went, e⟩
  · intro m x n s0 s1
    have hx : x = hSeen s h := by
      cases hv : s.view with
      | none => simp only [x, hv, hSeen, coreSeen_of_no_view hv]
      | some v => simp only [x, hv, hSeen, coreSeen_of_view hv]
    refine ⟨⟨hAt_signalH_val s h, hAt_takeH_val s h, hAt_takeH_ceil s h,
      fun j hj => ⟨hAt_signalH_ne s hj, hAt_takeH_ne s hj⟩⟩,
      fun hc => ?_, fun hc => ?_⟩
    · have sig := exec_hsig (h := h) hc
      have wait := exec_hwait (h := h) hc
      rw [← hx] at sig wait
      refine ⟨fun other => ?_, fun own above => ?_, fun own below => ?_, fun other => ?_, fun own zero => ?_, fun own positive => ?_⟩
      · exact sig.trans (congrArg _ (if_pos other))
      · rw [if_neg (Decidable.not_not.2 own), if_pos above] at sig
        exact sig
      · rw [if_neg (Decidable.not_not.2 own), if_neg (Nat.not_lt.2 below)] at sig
        exact ⟨_, sig, passed_retire _⟩
      · exact wait.trans (congrArg _ (if_pos other))
      · rw [if_neg (Decidable.not_not.2 own), if_pos zero] at wait
        exact wait
      · rw [if_neg (Decidable.not_not.2 own), if_neg (Nat.ne_of_gt positive)] at wait
        exact ⟨_, wait, passed_retire _⟩
    · have try_ := exec_htry (h := h) hc
      rw [← hx] at try_
      refine ⟨fun other => try_.trans (congrArg _ (if_pos other)), fun own zero => ?_, fun own positive => ?_⟩
      · rw [if_neg (Decidable.not_not.2 own), if_pos zero] at try_
        exact ⟨_, try_, wroteS_retire _ _ _ _ _ (Nat.le_refl 1)⟩
      · rw [if_neg (Decidable.not_not.2 own), if_neg (Nat.ne_of_gt positive)] at try_
        exact ⟨_, try_, wroteS_takeH _ _ _ _⟩

end Sys2Proof.Machine

/-! # Queries (spec/09_isa_control.md R270)

A query of an unpoisoned register puts one item on its way to its result register. `vqryItem` and `ecntItem` are that item as
the two words compute it (`exec_vqry`, `exec_ecnt`); marking tokens as read changes neither. -/

namespace Sys2Proof.Machine

/-! ### A control word that reads one scalar (R234) -/

theorem cIssue_of_poisoned {b : Nat} {ws : List Nat} {s : State} (body : State → State) (hc : Clear { rs := [b], ws := ws } s)
    (hp : (readS (clu s) b).pois = true) :
    cIssue [b] [] ws body s = raise cPOISON s.word 0 (markRead { rs := [b], ws := ws } s) := by
  rw [cIssue, issue_of_clear hc]
  simp only [List.any_cons, List.any_nil, clu_markRead, hp, Bool.or_false, if_true]
  rfl

theorem cIssue_of_unpoisoned {b : Nat} {ws : List Nat} {s : State} (body : State → State) (hc : Clear { rs := [b], ws := ws } s)
    (hp : (readS (clu s) b).pois = false) :
    cIssue [b] [] ws body s = body (markRead { rs := [b], ws := ws } s) := by
  rw [cIssue, issue_of_clear hc]
  simp only [List.any_cons, List.any_nil, clu_markRead, hp, Bool.or_false, Bool.false_eq_true, if_false]

/-! ### What the queries report -/

@[simp] theorem task_markRead (u : Use) (s : State) : (core (markRead u s)).task = (core s).task := by rw [core_markRead]
@[simp] theorem energy_markRead (u : Use) (s : State) : (core (markRead u s)).energy = (core s).energy := by rw [core_markRead]

/-- Item `item` of VQRY, at point `p`. -/
def vqryItem (s : State) (p item : Nat) : Nat :=
  match item with
  | 3 => s.power.point
  | i => if 6 ≤ p then 0xFFFFFFFF else match i with
    | 0 => Config.guaranteed p
    | 1 => mappedRows s (s.cur / 4) p
    | 2 => unmappedKiB s (core s).task.ctx p
    | _ => 0xFFFFFFFF

/-- The energy of the node that the executing tile is of, 0 where none runs it. -/
def nodeEnergy (s : State) : Nat := match runAt s (core s).task.run with | some r => r.energy | none => 0

/-- Item `item` of ECNT. -/
def ecntItem (s : State) (item : Nat) : Nat :=
  match item with
  | 0 => (ctxAt s (core s).task.ctx).energy % 2 ^ 32
  | 1 => (ctxAt s (core s).task.ctx).energy / 2 ^ 32 % 2 ^ 32
  | 2 => nodeEnergy s % 2 ^ 32
  | 3 => nodeEnergy s / 2 ^ 32 % 2 ^ 32
  | 4 => (core s).energy % 2 ^ 32
  | _ => 0xFFFFFFFF

theorem fld_item (x : Nat) : fld x 7 0 = x % 256 := congrArg (· % 256) (Nat.div_one x)

theorem fld_point (x : Nat) : fld x 10 8 = x / 256 % 8 := rfl

theorem exec_vqry (d b : Nat) (s : State) : exec (.vqry d b) s = .next (cIssue [b] [] [d] (fun m =>
    cResult d (vqryItem m (fld (readS (clu m) b).val.toNat 10 8) (fld (readS (clu m) b).val.toNat 7 0)) m) s) := rfl

theorem exec_ecnt (d b : Nat) (s : State) : exec (.ecnt d b) s = .next (cIssue [b] [] [d] (fun m =>
    cResult d (ecntItem m (fld (readS (clu m) b).val.toNat 7 0)) m) s) := rfl

@[simp] theorem vqryItem_markRead (u : Use) (s : State) (p item : Nat) : vqryItem (markRead u s) p item = vqryItem s p item := by
  unfold vqryItem
  rw [task_markRead]
  rfl

@[simp] theorem nodeEnergy_markRead (u : Use) (s : State) : nodeEnergy (markRead u s) = nodeEnergy s := by
  rw [nodeEnergy, task_markRead]
  rfl

@[simp] theorem ecntItem_markRead (u : Use) (s : State) (item : Nat) : ecntItem (markRead u s) item = ecntItem s item := by
  unfold ecntItem
  rw [task_markRead, energy_markRead, nodeEnergy_markRead]
  rfl

/-! ### The rows of R270 -/

section
variable {s : State} {p item : Nat}

theorem vqryItem_guaranteed (h : item = 0) (hp : p ≤ 5) : vqryItem s p item = Config.guaranteed p := by
  subst h
  exact if_neg (Nat.not_le.2 (Nat.lt_succ_of_le hp))

theorem vqryItem_mappedRows (h : item = 1) (hp : p ≤ 5) : vqryItem s p item = mappedRows s (s.cur / 4) p := by
  subst h
  exact if_neg (Nat.not_le.2 (Nat.lt_succ_of_le hp))

theorem vqryItem_unmappedKiB (h : item = 2) (hp : p ≤ 5) : vqryItem s p item = unmappedKiB s (core s).task.ctx p := by
  subst h
  exact if_neg (Nat.not_le.2 (Nat.lt_succ_of_le hp))

theorem vqryItem_point (h : item = 3) : vqryItem s p item = s.power.point := by
  subst h
  rfl

theorem vqryItem_unlisted (h : 4 ≤ item) : vqryItem s p item = 0xFFFFFFFF := by
  obtain ⟨n, rfl⟩ := Nat.exists_eq_add_of_le' h
  exact ite_self _

theorem vqryItem_noPoint (h : item < 3) (hp : 6 ≤ p) : vqryItem s p item = 0xFFFFFFFF := by
  match item, h with
  | 0, _ | 1, _ | 2, _ => exact if_pos hp

theorem nodeEnergy_of_run {r : NodeRun} (h : runAt s (core s).task.run = some r) : nodeEnergy s = r.energy := by
  rw [nodeEnergy, h]

theorem nodeEnergy_of_no_run (h : runAt s (core s).task.run = none) : nodeEnergy s = 0 := by
  rw [nodeEnergy, h]

theorem ecntItem_context_low (h : item = 0) : ecntItem s item = (ctxAt s (core s).task.ctx).energy % 2 ^ 32 := by
  rw [h, ecntItem]

theorem ecntItem_context_high (h : item = 1) : ecntItem s item = (ctxAt s (core s).task.ctx).energy / 2 ^ 32 % 2 ^ 32 := by
  rw [h, ecntItem]

theorem ecntItem_node_low (h : item = 2) : ecntItem s item = nodeEnergy s % 2 ^ 32 := by
  rw [h, ecntItem]

theorem ecntItem_node_high (h : item = 3) : ecntItem s item = nodeEnergy s / 2 ^ 32 % 2 ^ 32 := by
  rw [h, ecntItem]

theorem ecntItem_of_no_run (hr : runAt s (core s).task.run = none) (h : item = 2 ∨ item = 3) : ecntItem s item = 0 := by
  rcases h with h | h
  · rw [ecntItem_node_low h, nodeEnergy_of_no_run hr, Nat.zero_mod]
  · rw [ecntItem_node_high h, nodeEnergy_of_no_run hr, Nat.zero_div, Nat.zero_mod]

theorem ecntItem_tile (h : item = 4) : ecntItem s item = (core s).energy % 2 ^ 32 := by
  rw [h, ecntItem]

theorem ecntItem_unlisted (h : 5 ≤ item) : ecntItem s item = 0xFFFFFFFF := by
  obtain ⟨n, rfl⟩ := Nat.exists_eq_add_of_le' h
  rfl

end

/-! ### The words -/

/-- A control word of one scalar that gives `f` of that scalar, in a clear state. -/
theorem query_passed {i : Instr} {f : State → Nat → Nat} {d b v : Nat} {s : State}
    (hi : exec i s = .next (cIssue [b] [] [d] (fun m => cResult d (f m (readS (clu m) b).val.toNat) m) s))
    (hc : Clear { rs := [b], ws := [d] } s) (hp : (readS (clu s) b).pois = false)
    (hv : f (markRead { rs := [b], ws := [d] } s) (readS (clu s) b).val.toNat = v) :
    ∃ t, exec i s = .next t ∧ Passed (sbWrite d { val := BitVec.ofNat 32 v } (markRead { rs := [b], ws := [d] } s)) t := by
  subst hv
  refine ⟨_, hi, ?_⟩
  rw [cIssue_of_unpoisoned _ hc hp, clu_markRead]
  exact passed_retire _

section
variable {d b v : Nat} {s : State}

theorem vqry_passed (hc : Clear { rs := [b], ws := [d] } s) (hp : (readS (clu s) b).pois = false)
    (hv : vqryItem s ((readS (clu s) b).val.toNat / 256 % 8) ((readS (clu s) b).val.toNat % 256) = v) :
    ∃ t, exec (.vqry d b) s = .next t
      ∧ Passed (sbWrite d { val := BitVec.ofNat 32 v } (markRead { rs := [b], ws := [d] } s)) t :=
  query_passed (f := fun m x => vqryItem m (fld x 10 8) (fld x 7 0)) (exec_vqry d b s) hc hp
    (by rw [vqryItem_markRead, fld_point, fld_item, hv])

theorem ecnt_passed (hc : Clear { rs := [b], ws := [d] } s) (hp : (readS (clu s) b).pois = false)
    (hv : ecntItem s ((readS (clu s) b).val.toNat % 256) = v) :
    ∃ t, exec (.ecnt d b) s = .next t
      ∧ Passed (sbWrite d { val := BitVec.ofNat 32 v } (markRead { rs := [b], ws := [d] } s)) t :=
  query_passed (f := fun m x => ecntItem m (fld x 7 0)) (exec_ecnt d b s) hc hp
    (by rw [ecntItem_markRead, fld_item, hv])

end

/-- Settles O46: each word raises POISON or gives the row of R270 that the low byte of its operand names. -/
theorem queries : Obligations.Queries := by
  intro d b s u hc y item p m k gives
  refine ⟨fun hp => ?_, fun hp => ?_⟩
  · exact ⟨(exec_vqry d b s).trans (congrArg _ (cIssue_of_poisoned _ hc hp)),
      (exec_ecnt d b s).trans (congrArg _ (cIssue_of_poisoned _ hc hp))⟩
  · have vqry {v : Nat} (hv : vqryItem s p item = v) : gives (.vqry d b) v := vqry_passed hc hp hv
    have ecnt {v : Nat} (hv : ecntItem s item = v) : gives (.ecnt d b) v := ecnt_passed hc hp hv
    refine ⟨fun h hp => vqry (vqryItem_guaranteed h hp), fun h hp => vqry (vqryItem_mappedRows h hp),
      fun h hp => vqry (vqryItem_unmappedKiB h hp), fun h => vqry (vqryItem_point h), ?_,
      fun h => ecnt (ecntItem_context_low h), fun h => ecnt (ecntItem_context_high h), fun r hr => ⟨fun h => ?_, fun h => ?_⟩,
      fun hr h => ecnt (ecntItem_of_no_run hr h), fun h => ecnt (ecntItem_tile h), fun h => ecnt (ecntItem_unlisted h)⟩
    · rintro (unlisted | ⟨pointed, above⟩)
      · exact vqry (vqryItem_unlisted unlisted)
      · exact vqry (vqryItem_noPoint pointed above)
    · exact ecnt (by rw [ecntItem_node_low h, nodeEnergy_of_run hr])
    · exact ecnt (by rw [ecntItem_node_high h, nodeEnergy_of_run hr])

end Sys2Proof.Machine
